-- ==== Sys2Proof/Word.lean ====
section
/-!
DEFINITION. The word types of the device, its numbering (R18 to R20) and the plainest arithmetic on them.
-/

namespace Sys2Proof

/-- One byte (R6: the device is little-endian throughout). -/
abbrev Byte := BitVec 8
/-- A pair register, a data address or a program address of a kid (R54, R60, R67). -/
abbrev Word16 := BitVec 16
/-- A device-local address (R23). -/
abbrev Addr := BitVec 40
/-- A 14-bit kid program word (R92). -/
abbrev PWord := BitVec 14
/-- A timebase time, LSB 125 ps (R327). -/
abbrev Time := BitVec 64

/-- Kid number k (R19). -/
abbrev KidId := Fin 32768
/-- Fawn number f (R20). -/
abbrev FawnId := Fin 168
/-- Herd number h (R18). -/
abbrev HerdId := Fin 512
/-- Queue endpoint number e (R20). -/
abbrev EpId := Fin 32768
/-- Axis port number p (R20). -/
abbrev PortId := Fin 64
/-- Camera port number c (R20). -/
abbrev CamId := Fin 8
/-- Jalari link number l (R20). -/
abbrev LinkId := Fin 12
/-- Axis number a (R20). -/
abbrev AxisId := Fin 1024
/-- Power domain number d (R399). -/
abbrev DomId := Fin 152

/-- The bytes of a value, least significant first (R6). -/
def bytesLE : Nat → Nat → List Byte
  | 0, _ => []
  | n + 1, v => BitVec.ofNat 8 v :: bytesLE n (v / 256)

/-- The value of bytes, least significant first (R6). -/
def ofBytesLE : List Byte → Nat
  | [] => 0
  | b :: bs => b.toNat + 256 * ofBytesLE bs

/-- The value of bytes, most significant first (R383: the modulus is a big-endian octet string). -/
def ofBytesBE (bs : List Byte) : Nat := ofBytesLE bs.reverse

/-- Bits [hi:lo] of a value (R5). -/
def bits (v hi lo : Nat) : Nat := (v >>> lo) % 2 ^ (hi + 1 - lo)

/-- Bit n of a value (R5). -/
def bit (v n : Nat) : Bool := (v >>> n) % 2 == 1

/-- The signed value of a w-bit two's-complement number. -/
def sext (w v : Nat) : Int := if v % 2 ^ w < 2 ^ (w - 1) then (v % 2 ^ w : Nat) else (v % 2 ^ w : Nat) - (2 ^ w : Nat)

/-- The w-bit two's-complement form of an integer. -/
def twos (w : Nat) (i : Int) : Nat := (i % (2 ^ w : Nat)).toNat

/-- 0 or 1. -/
def b2n (b : Bool) : Nat := if b then 1 else 0

/-- Round up to a multiple of 8 (R184). -/
def roundUp8 (n : Nat) : Nat := (n + 7) / 8 * 8

/-- Saturating increment. -/
def satInc (max n : Nat) : Nat := if n < max then n + 1 else max

end Sys2Proof
end

