-- ==== Sys2Proof/Config.lean ====
section
/-!
DEFINITION. What one part or one implementation fixes, and the free values: constants without a body, so that no
proof can lean on a number that the spec leaves open.
-/

namespace Sys2Proof.Config

/-- A fresh open value, applied to State.fresh (assumption 1). -/
opaque freeNat : Nat → Nat
/-- A fresh open choice between two outcomes that the spec allows (assumption 1). -/
opaque freeBool : Nat → Bool
/-- DEVFEAT.UID as fused (R91). -/
opaque uid : BitVec 128
/-- The fuse map's bad spares of each herd (R434 SPAREBAD). -/
opaque fuseSpareBad : Nat → Nat
/-- DSTAT.TAP0 as fused (R412, R418). -/
opaque fuseTap0 : Nat → Nat
/-- Spare rows and columns that the fuse map has already taken in a bank (R178). -/
opaque fuseSparesUsed : Nat → Bool → Nat
/-- Which row of its HBM bank holds an address, of its bits [33:19] (R181, R474), and a bank's spare rows (R179). -/
opaque hbmRow : Nat → Nat
opaque hbmSpares : Nat → Nat
/-- The hash of the vendor key that Krytoon writes into OTP slot 0 (R388). -/
opaque vendorKeyHash : Nat
/-- The device key pair as generated in the part: modulus and private exponent (R395). -/
opaque deviceModulus : Nat → Nat
opaque devicePrivate : Nat → Nat
/-- The random numbers of DBGNONCE (R396) and of the signature salt (R383). -/
opaque random256 : Nat → Nat
/-- Which value within 2 ulp of the exact one a CORDIC result takes (R241): a fixed function of FMT, N1 and the operands. -/
opaque cordic : Nat → Nat → List Nat → Nat × Nat
/-- The rounding of a sub-pixel offset (R315): down, or up where odd; the offset itself where the three magnitudes are equal. -/
opaque subpixel : Int → Int → Int → Nat
/-- Which of the edges that match a feature an iteration takes (R319), of the pose and the feature. -/
opaque matchPick : List Int → Nat
/-- The step of an iteration whose least squares have no single solution (R319), of the pose and its place among the four. -/
opaque stepFree : List Int → Int × Int × Int
/-- The rounding of X, Y and THETA of a refined pose (R321): down, or up where odd. -/
opaque poseRound : Int → Nat
/-- The gain of one tap in ps for a domain (R414 gain(d)). -/
opaque tapGain : Nat → Nat

end Sys2Proof.Config
end

