-- ==== Sys2Proof/Machine/RegMap.lean ====
section
/-!
DEFINITION. The register map: every field of every register table of the device, with its place, its access
code (R12), its width and its Reset column (R11). A field is named by its block's prefix and its own name.
The rows were written out from the register tables of the spec; reserved rows are the bits that no field covers (R15).
-/

namespace Sys2Proof.Machine

/-- The access codes of R12. -/
inductive Acc where
  | rw | ro | wo | w1c | w1p | img | nrw
deriving DecidableEq, Repr

/-- The register blocks (R10). Each has one register table. -/
inductive Blk where
  /-- R71: the special registers of kid k. -/
  | kidSr
  /-- R91: the DEVFEAT block. -/
  | devfeat
  /-- R124: the instruction cache control block of herd h. -/
  | icache
  /-- R173: the memory integrity block. -/
  | integrity
  /-- R190: the port of a producer endpoint. -/
  | prodPort
  /-- R193: the port of a consumer endpoint. -/
  | consPort
  /-- R209: the configuration area of an endpoint. -/
  | epConfig
  /-- R221: the HDC block of herd h. -/
  | hdc
  /-- R226: the level-bridge block. -/
  | bridges
  /-- R231: the registers of slot j of herd h (instance h * 64 + j). -/
  | oryxSlot
  /-- R279: the registers of axis port p. -/
  | axisPort
  /-- R304: the global registers of the guard. -/
  | guard
  /-- R305: the envelope block of axis a. -/
  | envelope
  /-- R306: the state block of axis a. -/
  | axisState
  /-- R307: the block of constraint j. -/
  | constraint
  /-- R324: the registers of camera port c. -/
  | camera
  /-- R336: the timebase block. -/
  | timebase
  /-- R357: the registers of link l. -/
  | link
  /-- R358: the routing registers. -/
  | routing
  /-- R374: the host and boot block. -/
  | hostBoot
  /-- R382, R397: the image and lifecycle block. -/
  | lifecycle
  /-- R417: the power and margin block. -/
  | power
  /-- R418: the block of domain d. -/
  | domain
  /-- R424: the kid-control block of kid k. -/
  | kidCtl
  /-- R427: the reset control block. -/
  | resetCtl
  /-- R434: the herd status and fence block. -/
  | herdFence
  /-- R440: the test and service block. -/
  | testService
deriving DecidableEq, Repr

/-- One row of a register table. `count` and `stride` say how often the row repeats in its block
(an alarm, an aperture, a region entry), and `rstAt` gives the elements whose Reset value differs. -/
structure Fld where
  blk    : Blk
  off    : Nat
  lo     : Nat
  w      : Nat
  acc    : Acc
  rst    : Nat
  count  : Nat := 1
  stride : Nat := 0
  rstAt  : List (Nat × Nat) := []
deriving DecidableEq, Repr

/-- The Reset value of element i of a field (R11). -/
def Fld.reset (F : Fld) (i : Nat) : Nat := (F.rstAt.lookup i).getD F.rst

/-! ### R71: the special registers of kid k -/

def kd_KMODE_SUP : Fld := { blk := .kidSr, off := 0x0, lo := 0, w := 1, acc := .ro, rst := 0x0 }
def kd_KMODE_DET : Fld := { blk := .kidSr, off := 0x0, lo := 1, w := 1, acc := .rw, rst := 0x0 }
def kd_KMODE_DBE : Fld := { blk := .kidSr, off := 0x0, lo := 2, w := 1, acc := .rw, rst := 0x0 }
def kd_KMODE_INDB : Fld := { blk := .kidSr, off := 0x0, lo := 3, w := 1, acc := .ro, rst := 0x0 }
def kd_KMODE_INTR : Fld := { blk := .kidSr, off := 0x0, lo := 4, w := 1, acc := .ro, rst := 0x0 }
def kd_KMODE_TCAP : Fld := { blk := .kidSr, off := 0x0, lo := 5, w := 1, acc := .w1p, rst := 0x0 }
def kd_KMODE_SCLR : Fld := { blk := .kidSr, off := 0x0, lo := 6, w := 1, acc := .w1p, rst := 0x0 }
def kd_KPRIO_LEVEL : Fld := { blk := .kidSr, off := 0x1, lo := 0, w := 8, acc := .rw, rst := 0x0 }
def kd_KCAUSE_CODE : Fld := { blk := .kidSr, off := 0x2, lo := 0, w := 6, acc := .ro, rst := 0x0 }
def kd_KCAUSE_DEFER : Fld := { blk := .kidSr, off := 0x2, lo := 6, w := 1, acc := .ro, rst := 0x0 }
def kd_KCAUSE_DB : Fld := { blk := .kidSr, off := 0x2, lo := 7, w := 1, acc := .ro, rst := 0x0 }
def kd_KSRC_SRC : Fld := { blk := .kidSr, off := 0x3, lo := 0, w := 8, acc := .ro, rst := 0x0 }
def kd_KEPC_ADDR : Fld := { blk := .kidSr, off := 0x4, lo := 0, w := 16, acc := .rw, rst := 0x0 }
def kd_KIPC_ADDR : Fld := { blk := .kidSr, off := 0x6, lo := 0, w := 16, acc := .rw, rst := 0x0 }
def kd_KSELF_KID : Fld := { blk := .kidSr, off := 0x8, lo := 0, w := 15, acc := .ro, rst := 0x0 }
def kd_KHWIN_BLK : Fld := { blk := .kidSr, off := 0xA, lo := 0, w := 4, acc := .rw, rst := 0x0 }
def kd_KFAULT_RSVW : Fld := { blk := .kidSr, off := 0xB, lo := 0, w := 1, acc := .w1c, rst := 0x0 }
def kd_KFAULT_XWR : Fld := { blk := .kidSr, off := 0xB, lo := 1, w := 1, acc := .w1c, rst := 0x0 }
def kd_KFAULT_WAITNE : Fld := { blk := .kidSr, off := 0xB, lo := 2, w := 1, acc := .w1c, rst := 0x0 }
def kd_KFAULT_DTRAP : Fld := { blk := .kidSr, off := 0xB, lo := 3, w := 1, acc := .w1c, rst := 0x0 }
def kd_KGWINLO_BASE : Fld := { blk := .kidSr, off := 0xC, lo := 0, w := 26, acc := .rw, rst := 0x0 }
def kd_KGWINHI_NODE : Fld := { blk := .kidSr, off := 0x10, lo := 0, w := 16, acc := .rw, rst := 0x0 }
def kd_KRPT_COUNT : Fld := { blk := .kidSr, off := 0x12, lo := 0, w := 9, acc := .rw, rst := 0x0 }
def kd_KRPT_ECOUNT : Fld := { blk := .kidSr, off := 0x14, lo := 0, w := 9, acc := .rw, rst := 0x0 }
def kd_KRPT_ICOUNT : Fld := { blk := .kidSr, off := 0x16, lo := 0, w := 9, acc := .rw, rst := 0x0 }
def kd_KSTEPC_COUNT : Fld := { blk := .kidSr, off := 0x18, lo := 0, w := 32, acc := .ro, rst := 0x0 }
def kd_KTIME : Fld := { blk := .kidSr, off := 0x1C, lo := 0, w := 64, acc := .ro, rst := 0x0 }
def kd_KFEAT0_DIEREV : Fld := { blk := .kidSr, off := 0x24, lo := 0, w := 8, acc := .ro, rst := 0xA0 }
def kd_KFEAT1_ISAVER : Fld := { blk := .kidSr, off := 0x25, lo := 0, w := 8, acc := .ro, rst := 0x1 }
def kd_KFEAT2 : Fld := { blk := .kidSr, off := 0x26, lo := 0, w := 8, acc := .ro, rst := 0x3F }
def kd_KFEAT3 : Fld := { blk := .kidSr, off := 0x27, lo := 0, w := 8, acc := .ro, rst := 0x34 }

/-! ### R91: the DEVFEAT block -/

def df_PRODUCT : Fld := { blk := .devfeat, off := 0x0, lo := 0, w := 16, acc := .ro, rst := 0x4D32 }
def df_VENDOR : Fld := { blk := .devfeat, off := 0x0, lo := 16, w := 16, acc := .ro, rst := 0x4B59 }
def df_DIEREV : Fld := { blk := .devfeat, off := 0x4, lo := 0, w := 8, acc := .ro, rst := 0xA0 }
def df_PKGREV : Fld := { blk := .devfeat, off := 0x4, lo := 8, w := 8, acc := .ro, rst := 0x1 }
def df_KIDS : Fld := { blk := .devfeat, off := 0x8, lo := 0, w := 16, acc := .ro, rst := 0x8000 }
def df_HERDS : Fld := { blk := .devfeat, off := 0x8, lo := 16, w := 16, acc := .ro, rst := 0x200 }
def df_FAWNS : Fld := { blk := .devfeat, off := 0xC, lo := 0, w := 8, acc := .ro, rst := 0xA8 }
def df_AXPORTS : Fld := { blk := .devfeat, off := 0xC, lo := 8, w := 8, acc := .ro, rst := 0x40 }
def df_CAMPORTS : Fld := { blk := .devfeat, off := 0xC, lo := 16, w := 4, acc := .ro, rst := 0x8 }
def df_LINKS : Fld := { blk := .devfeat, off := 0xC, lo := 20, w := 4, acc := .ro, rst := 0xC }
def df_TILES : Fld := { blk := .devfeat, off := 0xC, lo := 24, w := 4, acc := .ro, rst := 0x4 }
def df_HBMGIB : Fld := { blk := .devfeat, off := 0x10, lo := 0, w := 16, acc := .ro, rst := 0x40 }
def df_HSMKIB : Fld := { blk := .devfeat, off := 0x10, lo := 16, w := 16, acc := .ro, rst := 0x100 }
def df_ISAVER : Fld := { blk := .devfeat, off := 0x14, lo := 0, w := 8, acc := .ro, rst := 0x1 }
def df_SPARES : Fld := { blk := .devfeat, off := 0x18, lo := 0, w := 11, acc := .ro, rst := 0x0 }
def df_UID : Fld := { blk := .devfeat, off := 0x20, lo := 0, w := 128, acc := .ro, rst := 0x0 }
def df_FAULT_RSVW : Fld := { blk := .devfeat, off := 0x30, lo := 0, w := 1, acc := .w1c, rst := 0x0 }
def df_FAULT_IMGW : Fld := { blk := .devfeat, off := 0x30, lo := 1, w := 1, acc := .w1c, rst := 0x0 }

/-! ### R124: the instruction cache control block of herd h -/

def ic_ICCTRL_EN : Fld := { blk := .icache, off := 0x0, lo := 0, w := 1, acc := .rw, rst := 0x1 }
def ic_ICCTRL_INVALL : Fld := { blk := .icache, off := 0x0, lo := 1, w := 1, acc := .w1p, rst := 0x0 }
def ic_ICCTRL_CLRCNT : Fld := { blk := .icache, off := 0x0, lo := 2, w := 1, acc := .w1p, rst := 0x0 }
def ic_ICINV_WORD : Fld := { blk := .icache, off := 0x4, lo := 0, w := 15, acc := .wo, rst := 0x0 }
def ic_ICHITS_COUNT : Fld := { blk := .icache, off := 0x8, lo := 0, w := 32, acc := .ro, rst := 0x0 }
def ic_ICMISS_COUNT : Fld := { blk := .icache, off := 0xC, lo := 0, w := 32, acc := .ro, rst := 0x0 }
def ic_ICSNOOP_COUNT : Fld := { blk := .icache, off := 0x10, lo := 0, w := 32, acc := .ro, rst := 0x0 }
def ic_ICERR_COUNT : Fld := { blk := .icache, off := 0x14, lo := 0, w := 32, acc := .ro, rst := 0x0 }
def ic_ICFAULT_RSVW : Fld := { blk := .icache, off := 0x18, lo := 0, w := 1, acc := .w1c, rst := 0x0 }

/-! ### R173: the memory integrity block -/

def mi_MIFAULT_RSVW : Fld := { blk := .integrity, off := 0x0, lo := 0, w := 1, acc := .w1c, rst := 0x0 }
def mi_MIFAULT_IMGW : Fld := { blk := .integrity, off := 0x0, lo := 1, w := 1, acc := .w1c, rst := 0x0 }
def mi_MIFAULT_LOGOVF : Fld := { blk := .integrity, off := 0x0, lo := 2, w := 1, acc := .w1c, rst := 0x0 }
def mi_MIFAULT_BUSYGO : Fld := { blk := .integrity, off := 0x0, lo := 3, w := 1, acc := .w1c, rst := 0x0 }
def mi_MICTRL_RPTTHR : Fld := { blk := .integrity, off := 0x4, lo := 0, w := 4, acc := .rw, rst := 0x3 }
def mi_CECOUNT : Fld := { blk := .integrity, off := 0x8, lo := 0, w := 32, acc := .ro, rst := 0x0 }
def mi_UECOUNT : Fld := { blk := .integrity, off := 0xC, lo := 0, w := 32, acc := .ro, rst := 0x0 }
def mi_AFCOUNT : Fld := { blk := .integrity, off := 0x10, lo := 0, w := 32, acc := .ro, rst := 0x0 }
def mi_REJCOUNT : Fld := { blk := .integrity, off := 0x14, lo := 0, w := 32, acc := .ro, rst := 0x0 }
def mi_LOGLEVEL : Fld := { blk := .integrity, off := 0x18, lo := 0, w := 7, acc := .ro, rst := 0x0 }
def mi_LOSTCOUNT : Fld := { blk := .integrity, off := 0x18, lo := 16, w := 16, acc := .ro, rst := 0x0 }
def mi_LOGPOP : Fld := { blk := .integrity, off := 0x1C, lo := 0, w := 1, acc := .w1p, rst := 0x0 }
def mi_CNTCLR : Fld := { blk := .integrity, off := 0x1C, lo := 1, w := 1, acc := .w1p, rst := 0x0 }
def mi_LOGHEAD : Fld := { blk := .integrity, off := 0x20, lo := 0, w := 128, acc := .ro, rst := 0x0 }
def mi_CIPBANK : Fld := { blk := .integrity, off := 0x40, lo := 0, w := 32, acc := .rw, rst := 0x0 }
def mi_CIPADDR : Fld := { blk := .integrity, off := 0x48, lo := 0, w := 36, acc := .rw, rst := 0x0 }
def mi_CIPGO : Fld := { blk := .integrity, off := 0x50, lo := 0, w := 1, acc := .w1p, rst := 0x0 }
def mi_CIPBUSY : Fld := { blk := .integrity, off := 0x50, lo := 1, w := 1, acc := .ro, rst := 0x0 }
def mi_CIPRES : Fld := { blk := .integrity, off := 0x50, lo := 2, w := 3, acc := .ro, rst := 0x0 }
def mi_FLIPBANK : Fld := { blk := .integrity, off := 0x60, lo := 0, w := 32, acc := .rw, rst := 0x0 }
def mi_FLIPADDR : Fld := { blk := .integrity, off := 0x68, lo := 0, w := 36, acc := .rw, rst := 0x0 }
def mi_FLIPD : Fld := { blk := .integrity, off := 0x70, lo := 0, w := 64, acc := .rw, rst := 0x0 }
def mi_FLIPC : Fld := { blk := .integrity, off := 0x78, lo := 0, w := 8, acc := .rw, rst := 0x0 }
def mi_FLIPV : Fld := { blk := .integrity, off := 0x78, lo := 8, w := 1, acc := .rw, rst := 0x0 }
def mi_FLIPARM : Fld := { blk := .integrity, off := 0x7C, lo := 0, w := 1, acc := .w1p, rst := 0x0 }
def mi_FLIPCAN : Fld := { blk := .integrity, off := 0x7C, lo := 1, w := 1, acc := .w1p, rst := 0x0 }
def mi_FLIPARMED : Fld := { blk := .integrity, off := 0x7C, lo := 2, w := 1, acc := .ro, rst := 0x0 }
def mi_RPRBANK : Fld := { blk := .integrity, off := 0x80, lo := 0, w := 32, acc := .rw, rst := 0x0 }
def mi_RPRADDR : Fld := { blk := .integrity, off := 0x88, lo := 0, w := 36, acc := .rw, rst := 0x0 }
def mi_RPRBIT : Fld := { blk := .integrity, off := 0x90, lo := 0, w := 7, acc := .rw, rst := 0x0 }
def mi_RPRCOL : Fld := { blk := .integrity, off := 0x90, lo := 7, w := 1, acc := .rw, rst := 0x0 }
def mi_RPRGO : Fld := { blk := .integrity, off := 0x94, lo := 0, w := 1, acc := .w1p, rst := 0x0 }
def mi_RPRBUSY : Fld := { blk := .integrity, off := 0x94, lo := 1, w := 1, acc := .ro, rst := 0x0 }
def mi_RPRRES : Fld := { blk := .integrity, off := 0x94, lo := 2, w := 3, acc := .ro, rst := 0x0 }
def mi_FRUSED : Fld := { blk := .integrity, off := 0x98, lo := 0, w := 10, acc := .ro, rst := 0x0 }

/-! ### R190: the port of a producer endpoint -/

def qp_PUSH : Fld := { blk := .prodPort, off := 0x0, lo := 0, w := 64, acc := .wo, rst := 0x0 }
def qp_PFREE : Fld := { blk := .prodPort, off := 0x8, lo := 0, w := 27, acc := .ro, rst := 0x0 }
def qp_PREM : Fld := { blk := .prodPort, off := 0xC, lo := 0, w := 11, acc := .ro, rst := 0x0 }
def qp_HBYTES : Fld := { blk := .prodPort, off := 0xC, lo := 11, w := 2, acc := .ro, rst := 0x0 }
def qp_POPEN : Fld := { blk := .prodPort, off := 0xC, lo := 13, w := 1, acc := .ro, rst := 0x0 }
def qp_BADST : Fld := { blk := .prodPort, off := 0xC, lo := 14, w := 1, acc := .ro, rst := 0x0 }
def qp_LOCKED : Fld := { blk := .prodPort, off := 0xC, lo := 15, w := 1, acc := .ro, rst := 0x0 }
def qp_NEXTSEQ : Fld := { blk := .prodPort, off := 0x10, lo := 0, w := 8, acc := .ro, rst := 0x0 }

/-! ### R193: the port of a consumer endpoint -/

def qc_HDR : Fld := { blk := .consPort, off := 0x0, lo := 0, w := 32, acc := .ro, rst := 0x0 }
def qc_POS : Fld := { blk := .consPort, off := 0x4, lo := 0, w := 11, acc := .ro, rst := 0x0 }
def qc_ARR : Fld := { blk := .consPort, off := 0x6, lo := 0, w := 11, acc := .ro, rst := 0x0 }
def qc_SKIP : Fld := { blk := .consPort, off := 0x8, lo := 0, w := 11, acc := .wo, rst := 0x0 }
def qc_DONE : Fld := { blk := .consPort, off := 0xA, lo := 0, w := 1, acc := .w1p, rst := 0x0 }
def qc_MARK : Fld := { blk := .consPort, off := 0xA, lo := 1, w := 1, acc := .w1p, rst := 0x0 }
def qc_MARKCLR : Fld := { blk := .consPort, off := 0xA, lo := 2, w := 1, acc := .w1p, rst := 0x0 }
def qc_REWIND : Fld := { blk := .consPort, off := 0xA, lo := 3, w := 1, acc := .w1p, rst := 0x0 }
def qc_HEADY : Fld := { blk := .consPort, off := 0xC, lo := 0, w := 1, acc := .ro, rst := 0x0 }
def qc_WHOLE : Fld := { blk := .consPort, off := 0xC, lo := 1, w := 1, acc := .ro, rst := 0x0 }
def qc_POISON : Fld := { blk := .consPort, off := 0xC, lo := 2, w := 1, acc := .ro, rst := 0x0 }
def qc_PAD : Fld := { blk := .consPort, off := 0xC, lo := 3, w := 1, acc := .ro, rst := 0x0 }
def qc_BROKEN : Fld := { blk := .consPort, off := 0xC, lo := 4, w := 1, acc := .ro, rst := 0x0 }
def qc_MARKV : Fld := { blk := .consPort, off := 0xC, lo := 5, w := 1, acc := .ro, rst := 0x0 }
def qc_MARKLOST : Fld := { blk := .consPort, off := 0xC, lo := 6, w := 1, acc := .ro, rst := 0x0 }
def qc_RWFAIL : Fld := { blk := .consPort, off := 0xC, lo := 7, w := 1, acc := .ro, rst := 0x0 }
def qc_ABOVEHI : Fld := { blk := .consPort, off := 0xC, lo := 8, w := 1, acc := .ro, rst := 0x0 }
def qc_BELOWLO : Fld := { blk := .consPort, off := 0xC, lo := 9, w := 1, acc := .ro, rst := 0x0 }
def qc_LEVEL : Fld := { blk := .consPort, off := 0x10, lo := 0, w := 27, acc := .ro, rst := 0x0 }
def qc_HELD : Fld := { blk := .consPort, off := 0x14, lo := 0, w := 27, acc := .ro, rst := 0x0 }
def qc_WIN : Fld := { blk := .consPort, off := 0x40, lo := 0, w := 512, acc := .ro, rst := 0x0 }

/-! ### R209: the configuration area of an endpoint -/

def qx_ROLE : Fld := { blk := .epConfig, off := 0x80, lo := 0, w := 2, acc := .img, rst := 0x0 }
def qx_OWNER : Fld := { blk := .epConfig, off := 0x81, lo := 0, w := 7, acc := .img, rst := 0x0 }
def qx_PEERNODE : Fld := { blk := .epConfig, off := 0x84, lo := 0, w := 16, acc := .img, rst := 0x0 }
def qx_PEEREP : Fld := { blk := .epConfig, off := 0x86, lo := 0, w := 15, acc := .img, rst := 0x0 }
def qx_ENGINE : Fld := { blk := .epConfig, off := 0x88, lo := 0, w := 16, acc := .img, rst := 0x0 }
def qx_EPFAULT_RSVW : Fld := { blk := .epConfig, off := 0x8C, lo := 0, w := 1, acc := .w1c, rst := 0x0 }
def qx_EPFAULT_IMGW : Fld := { blk := .epConfig, off := 0x8C, lo := 1, w := 1, acc := .w1c, rst := 0x0 }
def qx_EPFAULT_BADLEN : Fld := { blk := .epConfig, off := 0x8C, lo := 2, w := 1, acc := .w1c, rst := 0x0 }
def qx_EPFAULT_NOTOWNER : Fld := { blk := .epConfig, off := 0x8C, lo := 3, w := 1, acc := .w1c, rst := 0x0 }
def qx_EPFAULT_EMPTYDONE : Fld := { blk := .epConfig, off := 0x8C, lo := 4, w := 1, acc := .w1c, rst := 0x0 }
def qx_RINGBASE : Fld := { blk := .epConfig, off := 0x90, lo := 0, w := 24, acc := .img, rst := 0x0 }
def qx_RINGLOG2 : Fld := { blk := .epConfig, off := 0x94, lo := 0, w := 5, acc := .img, rst := 0x0 }
def qx_MPOL : Fld := { blk := .epConfig, off := 0x94, lo := 8, w := 1, acc := .img, rst := 0x0 }
def qx_CUT : Fld := { blk := .epConfig, off := 0x98, lo := 0, w := 11, acc := .rw, rst := 0x400 }
def qx_STALLTO : Fld := { blk := .epConfig, off := 0x9C, lo := 0, w := 16, acc := .rw, rst := 0x0 }
def qx_HIWM : Fld := { blk := .epConfig, off := 0xA0, lo := 0, w := 27, acc := .rw, rst := 0x7FFFFFF }
def qx_LOWM : Fld := { blk := .epConfig, off := 0xA4, lo := 0, w := 27, acc := .rw, rst := 0x0 }
def qx_NOTE_HIGH : Fld := { blk := .epConfig, off := 0xA8, lo := 0, w := 1, acc := .w1c, rst := 0x0 }
def qx_NOTE_LOW : Fld := { blk := .epConfig, off := 0xA8, lo := 1, w := 1, acc := .w1c, rst := 0x0 }
def qx_NOTE_STALL : Fld := { blk := .epConfig, off := 0xA8, lo := 2, w := 1, acc := .w1c, rst := 0x0 }
def qx_NOTE_OPENSTALL : Fld := { blk := .epConfig, off := 0xA8, lo := 3, w := 1, acc := .w1c, rst := 0x0 }
def qx_NOTE_BRKN : Fld := { blk := .epConfig, off := 0xA8, lo := 4, w := 1, acc := .w1c, rst := 0x0 }
def qx_NOTE_LOSTM : Fld := { blk := .epConfig, off := 0xA8, lo := 5, w := 1, acc := .w1c, rst := 0x0 }
def qx_CCTL_QRESET : Fld := { blk := .epConfig, off := 0xAC, lo := 0, w := 1, acc := .w1p, rst := 0x0 }
def qx_PCTL_RESYNC : Fld := { blk := .epConfig, off := 0xAC, lo := 1, w := 1, acc := .w1p, rst := 0x0 }
def qx_CCTL_CLRPEAK : Fld := { blk := .epConfig, off := 0xAC, lo := 2, w := 1, acc := .w1p, rst := 0x0 }
def qx_CLAUSES : Fld := { blk := .epConfig, off := 0xB0, lo := 0, w := 32, acc := .ro, rst := 0x0 }
def qx_WAITS : Fld := { blk := .epConfig, off := 0xB4, lo := 0, w := 32, acc := .ro, rst := 0x0 }
def qx_PEAK : Fld := { blk := .epConfig, off := 0xB8, lo := 0, w := 27, acc := .ro, rst := 0x0 }
def qx_EPDB_SRC : Fld := { blk := .epConfig, off := 0xBC, lo := 0, w := 6, acc := .img, rst := 0x0 }
def qx_EPDB_HERD : Fld := { blk := .epConfig, off := 0xBC, lo := 6, w := 9, acc := .img, rst := 0x0 }
def qx_EPDB_MAPPED : Fld := { blk := .epConfig, off := 0xBC, lo := 15, w := 1, acc := .img, rst := 0x0 }

/-! ### R221: the HDC block of herd h -/

def hd_PEND : Fld := { blk := .hdc, off := 0x0, lo := 0, w := 8, acc := .rw, rst := 0x0, count := 32, stride := 0x1 }
def hd_MASK : Fld := { blk := .hdc, off := 0x20, lo := 0, w := 8, acc := .rw, rst := 0xFF, count := 32, stride := 0x1, rstAt := [(0, 0x0), (1, 0x0)] }
def hd_ACTIVE : Fld := { blk := .hdc, off := 0x40, lo := 0, w := 8, acc := .ro, rst := 0x0, count := 32, stride := 0x1 }
def hd_ARRC : Fld := { blk := .hdc, off := 0x60, lo := 0, w := 8, acc := .ro, rst := 0x0, count := 32, stride := 0x1 }
def hd_RING : Fld := { blk := .hdc, off := 0x80, lo := 0, w := 8, acc := .wo, rst := 0x0 }
def hd_CMPL : Fld := { blk := .hdc, off := 0x81, lo := 0, w := 8, acc := .wo, rst := 0x0 }
def hd_LASTCLAIM_SRC : Fld := { blk := .hdc, off := 0x84, lo := 0, w := 8, acc := .ro, rst := 0x0 }
def hd_LASTCLAIM_KID : Fld := { blk := .hdc, off := 0x84, lo := 8, w := 6, acc := .ro, rst := 0x0 }
def hd_LASTCLAIM_V : Fld := { blk := .hdc, off := 0x84, lo := 15, w := 1, acc := .ro, rst := 0x0 }
def hd_CLAIMS : Fld := { blk := .hdc, off := 0x88, lo := 0, w := 32, acc := .ro, rst := 0x0 }
def hd_SPURCMP : Fld := { blk := .hdc, off := 0x8C, lo := 0, w := 32, acc := .ro, rst := 0x0 }
def hd_LATEMASK : Fld := { blk := .hdc, off := 0x90, lo := 0, w := 32, acc := .ro, rst := 0x0 }
def hd_HDCCTL_CNTCLR : Fld := { blk := .hdc, off := 0x94, lo := 0, w := 1, acc := .w1p, rst := 0x0 }
def hd_HDCFAULT_RSVW : Fld := { blk := .hdc, off := 0x98, lo := 0, w := 1, acc := .w1c, rst := 0x0 }
def hd_HDCFAULT_DEVRING : Fld := { blk := .hdc, off := 0x98, lo := 1, w := 1, acc := .w1c, rst := 0x0 }
def hd_HDCFAULT_IMGW : Fld := { blk := .hdc, off := 0x98, lo := 2, w := 1, acc := .w1c, rst := 0x0 }
def hd_OXDB_SRC : Fld := { blk := .hdc, off := 0x9C, lo := 0, w := 6, acc := .img, rst := 0x0 }
def hd_OXDB_MAPPED : Fld := { blk := .hdc, off := 0x9C, lo := 6, w := 1, acc := .img, rst := 0x0 }

/-! ### R226: the level-bridge block -/

def br_SOURCE : Fld := { blk := .bridges, off := 0x0, lo := 0, w := 8, acc := .img, rst := 0x0, count := 16, stride := 0x4 }
def br_HERD : Fld := { blk := .bridges, off := 0x0, lo := 8, w := 9, acc := .img, rst := 0x0, count := 16, stride := 0x4 }
def br_POL : Fld := { blk := .bridges, off := 0x0, lo := 24, w := 1, acc := .img, rst := 0x0, count := 16, stride := 0x4 }
def br_MAPPED : Fld := { blk := .bridges, off := 0x0, lo := 25, w := 1, acc := .img, rst := 0x0, count := 16, stride := 0x4 }
def br_LEVEL : Fld := { blk := .bridges, off := 0x0, lo := 26, w := 1, acc := .ro, rst := 0x0, count := 16, stride := 0x4 }
def br_WAITING : Fld := { blk := .bridges, off := 0x0, lo := 27, w := 1, acc := .ro, rst := 0x0, count := 16, stride := 0x4 }
def br_REARM : Fld := { blk := .bridges, off := 0x0, lo := 28, w := 1, acc := .w1p, rst := 0x0, count := 16, stride := 0x4 }
def br_RESENDS : Fld := { blk := .bridges, off := 0x40, lo := 0, w := 32, acc := .ro, rst := 0x0 }
def br_BFAULT_RSVW : Fld := { blk := .bridges, off := 0x44, lo := 0, w := 1, acc := .w1c, rst := 0x0 }
def br_BFAULT_IMGW : Fld := { blk := .bridges, off := 0x44, lo := 1, w := 1, acc := .w1c, rst := 0x0 }

/-! ### R231: the registers of slot j of herd h (instance h * 64 + j) -/

def ox_STAT_PENDING : Fld := { blk := .oryxSlot, off := 0x30, lo := 0, w := 5, acc := .ro, rst := 0x0 }
def ox_STAT_BUSY : Fld := { blk := .oryxSlot, off := 0x30, lo := 5, w := 1, acc := .ro, rst := 0x0 }
def ox_STAT_VALID : Fld := { blk := .oryxSlot, off := 0x30, lo := 6, w := 1, acc := .ro, rst := 0x0 }
def ox_STAT_ERR : Fld := { blk := .oryxSlot, off := 0x30, lo := 8, w := 4, acc := .ro, rst := 0x0 }
def ox_STAT_SATF : Fld := { blk := .oryxSlot, off := 0x30, lo := 16, w := 1, acc := .ro, rst := 0x0 }
def ox_STAT_INV : Fld := { blk := .oryxSlot, off := 0x30, lo := 17, w := 1, acc := .ro, rst := 0x0 }
def ox_STAT_OVF : Fld := { blk := .oryxSlot, off := 0x30, lo := 18, w := 1, acc := .ro, rst := 0x0 }
def ox_STAT_DOM : Fld := { blk := .oryxSlot, off := 0x30, lo := 19, w := 1, acc := .ro, rst := 0x0 }
def ox_STAT_RNG : Fld := { blk := .oryxSlot, off := 0x30, lo := 20, w := 1, acc := .ro, rst := 0x0 }
def ox_STAT_AWU : Fld := { blk := .oryxSlot, off := 0x30, lo := 21, w := 1, acc := .ro, rst := 0x0 }
def ox_STAT_TAG : Fld := { blk := .oryxSlot, off := 0x30, lo := 24, w := 8, acc := .ro, rst := 0x0 }
def ox_WAIT : Fld := { blk := .oryxSlot, off := 0x34, lo := 0, w := 32, acc := .ro, rst := 0x0 }
def ox_DONES : Fld := { blk := .oryxSlot, off := 0x38, lo := 0, w := 16, acc := .ro, rst := 0x0 }
def ox_ERRS : Fld := { blk := .oryxSlot, off := 0x38, lo := 16, w := 8, acc := .ro, rst := 0x0 }
def ox_OXENG_LEVEL : Fld := { blk := .oryxSlot, off := 0x3C, lo := 0, w := 5, acc := .ro, rst := 0x0 }
def ox_OXENG_RUN : Fld := { blk := .oryxSlot, off := 0x3C, lo := 5, w := 1, acc := .ro, rst := 0x0 }
def ox_OXFAULT_RSVW : Fld := { blk := .oryxSlot, off := 0x3C, lo := 8, w := 1, acc := .w1c, rst := 0x0 }
def ox_OXFAULT_UECC : Fld := { blk := .oryxSlot, off := 0x3C, lo := 9, w := 1, acc := .w1c, rst := 0x0 }

/-! ### R279: the registers of axis port p -/

def ax_PSTATE : Fld := { blk := .axisPort, off := 0x0, lo := 0, w := 3, acc := .ro, rst := 0x0 }
def ax_CHIPS : Fld := { blk := .axisPort, off := 0x0, lo := 8, w := 5, acc := .ro, rst := 0x0 }
def ax_PCTL_START : Fld := { blk := .axisPort, off := 0x4, lo := 0, w := 1, acc := .w1p, rst := 0x0 }
def ax_PCTL_STOP : Fld := { blk := .axisPort, off := 0x4, lo := 1, w := 1, acc := .w1p, rst := 0x0 }
def ax_PCTL_RUN : Fld := { blk := .axisPort, off := 0x4, lo := 2, w := 1, acc := .w1p, rst := 0x0 }
def ax_PCTL_FAWNRUN : Fld := { blk := .axisPort, off := 0x4, lo := 3, w := 1, acc := .w1p, rst := 0x0 }
def ax_PCFG_RATE : Fld := { blk := .axisPort, off := 0x8, lo := 0, w := 1, acc := .img, rst := 0x0 }
def ax_PCFG_SVC1M : Fld := { blk := .axisPort, off := 0x8, lo := 1, w := 1, acc := .img, rst := 0x0 }
def ax_PCFG_LEAD : Fld := { blk := .axisPort, off := 0x8, lo := 2, w := 4, acc := .img, rst := 0x0 }
def ax_PCFG_CMDLEAD : Fld := { blk := .axisPort, off := 0x8, lo := 6, w := 2, acc := .img, rst := 0x1 }
def ax_PCFG_EXPCHIPS : Fld := { blk := .axisPort, off := 0x8, lo := 8, w := 5, acc := .img, rst := 0x0 }
def ax_PCFG_CMDLATE : Fld := { blk := .axisPort, off := 0x8, lo := 16, w := 8, acc := .img, rst := 0x0 }
def ax_CYCPHASE : Fld := { blk := .axisPort, off := 0xC, lo := 0, w := 15, acc := .img, rst := 0x0 }
def ax_PSAMP : Fld := { blk := .axisPort, off := 0x10, lo := 0, w := 16, acc := .ro, rst := 0x0 }
def ax_RTT : Fld := { blk := .axisPort, off := 0x14, lo := 0, w := 32, acc := .ro, rst := 0x0 }
def ax_CYCLES : Fld := { blk := .axisPort, off := 0x18, lo := 0, w := 32, acc := .ro, rst := 0x0 }
def ax_CRCERR : Fld := { blk := .axisPort, off := 0x1C, lo := 0, w := 32, acc := .ro, rst := 0x0 }
def ax_FBMISS : Fld := { blk := .axisPort, off := 0x20, lo := 0, w := 32, acc := .ro, rst := 0x0 }
def ax_UNDERRUN : Fld := { blk := .axisPort, off := 0x24, lo := 0, w := 32, acc := .ro, rst := 0x0 }
def ax_ALIGNLOSS : Fld := { blk := .axisPort, off := 0x28, lo := 0, w := 32, acc := .ro, rst := 0x0 }
def ax_SVCREQ_CHIP : Fld := { blk := .axisPort, off := 0x40, lo := 0, w := 4, acc := .rw, rst := 0x0 }
def ax_SVCREQ_OP : Fld := { blk := .axisPort, off := 0x40, lo := 4, w := 2, acc := .rw, rst := 0x0 }
def ax_SVCREQ_REG : Fld := { blk := .axisPort, off := 0x40, lo := 8, w := 8, acc := .rw, rst := 0x0 }
def ax_SVCWDATA : Fld := { blk := .axisPort, off := 0x44, lo := 0, w := 32, acc := .rw, rst := 0x0 }
def ax_SVCGO : Fld := { blk := .axisPort, off := 0x48, lo := 0, w := 1, acc := .w1p, rst := 0x0 }
def ax_SVCBUSY : Fld := { blk := .axisPort, off := 0x48, lo := 1, w := 1, acc := .ro, rst := 0x0 }
def ax_SVCRES : Fld := { blk := .axisPort, off := 0x48, lo := 2, w := 3, acc := .ro, rst := 0x0 }
def ax_SVCRDATA : Fld := { blk := .axisPort, off := 0x4C, lo := 0, w := 32, acc := .ro, rst := 0x0 }
def ax_EVCOUNT : Fld := { blk := .axisPort, off := 0x50, lo := 0, w := 32, acc := .ro, rst := 0x0 }
def ax_EVLAST : Fld := { blk := .axisPort, off := 0x54, lo := 0, w := 64, acc := .ro, rst := 0x0 }
def ax_PFAWN_RXCAUSE : Fld := { blk := .axisPort, off := 0x60, lo := 0, w := 6, acc := .ro, rst := 0x0 }
def ax_PFAWN_RXADDR : Fld := { blk := .axisPort, off := 0x60, lo := 6, w := 10, acc := .ro, rst := 0x0 }
def ax_PFAWN_TXCAUSE : Fld := { blk := .axisPort, off := 0x60, lo := 16, w := 6, acc := .ro, rst := 0x0 }
def ax_PFAWN_TXADDR : Fld := { blk := .axisPort, off := 0x60, lo := 22, w := 10, acc := .ro, rst := 0x0 }
def ax_PFAULT_RSVW : Fld := { blk := .axisPort, off := 0x70, lo := 0, w := 1, acc := .w1c, rst := 0x0 }
def ax_PFAULT_IMGW : Fld := { blk := .axisPort, off := 0x70, lo := 1, w := 1, acc := .w1c, rst := 0x0 }
def ax_PFAULT_CHIPMIS : Fld := { blk := .axisPort, off := 0x70, lo := 2, w := 1, acc := .w1c, rst := 0x0 }
def ax_PFAULT_CHAINBRK : Fld := { blk := .axisPort, off := 0x70, lo := 3, w := 1, acc := .w1c, rst := 0x0 }
def ax_PFAULT_ALIGN : Fld := { blk := .axisPort, off := 0x70, lo := 4, w := 1, acc := .w1c, rst := 0x0 }
def ax_PFAULT_BUSYGO : Fld := { blk := .axisPort, off := 0x70, lo := 5, w := 1, acc := .w1c, rst := 0x0 }
def ax_PFAULT_CTLREF : Fld := { blk := .axisPort, off := 0x70, lo := 6, w := 1, acc := .w1c, rst := 0x0 }
def ax_PDB_SRC : Fld := { blk := .axisPort, off := 0x74, lo := 0, w := 6, acc := .img, rst := 0x0 }
def ax_PDB_HERD : Fld := { blk := .axisPort, off := 0x74, lo := 6, w := 9, acc := .img, rst := 0x0 }
def ax_PDB_MAPPED : Fld := { blk := .axisPort, off := 0x74, lo := 15, w := 1, acc := .img, rst := 0x0 }
def ax_TSLOT : Fld := { blk := .axisPort, off := 0x80, lo := 0, w := 4, acc := .rw, rst := 0x0, count := 2, stride := 0x20 }
def ax_TMODE : Fld := { blk := .axisPort, off := 0x80, lo := 4, w := 2, acc := .rw, rst := 0x0, count := 2, stride := 0x20 }
def ax_TDIR : Fld := { blk := .axisPort, off := 0x80, lo := 6, w := 2, acc := .rw, rst := 0x0, count := 2, stride := 0x20 }
def ax_TWIDTH : Fld := { blk := .axisPort, off := 0x80, lo := 8, w := 8, acc := .rw, rst := 0x0, count := 2, stride := 0x20 }
def ax_TARM : Fld := { blk := .axisPort, off := 0x80, lo := 16, w := 1, acc := .w1p, rst := 0x0, count := 2, stride := 0x20 }
def ax_TARMED : Fld := { blk := .axisPort, off := 0x80, lo := 17, w := 1, acc := .ro, rst := 0x0, count := 2, stride := 0x20 }
def ax_TPOS : Fld := { blk := .axisPort, off := 0x84, lo := 0, w := 32, acc := .rw, rst := 0x0, count := 2, stride := 0x20 }
def ax_TINT : Fld := { blk := .axisPort, off := 0x88, lo := 0, w := 32, acc := .rw, rst := 0x0, count := 2, stride := 0x20 }
def ax_TCNT : Fld := { blk := .axisPort, off := 0x8C, lo := 0, w := 32, acc := .ro, rst := 0x0, count := 2, stride := 0x20 }
def ax_TTIME : Fld := { blk := .axisPort, off := 0x90, lo := 0, w := 64, acc := .ro, rst := 0x0, count := 2, stride := 0x20 }
def ax_TCAM : Fld := { blk := .axisPort, off := 0x98, lo := 0, w := 3, acc := .img, rst := 0x0, count := 2, stride := 0x20 }
def ax_TLINK : Fld := { blk := .axisPort, off := 0x98, lo := 3, w := 1, acc := .img, rst := 0x0, count := 2, stride := 0x20 }
def ax_EXPID : Fld := { blk := .axisPort, off := 0x100, lo := 0, w := 32, acc := .img, rst := 0x0, count := 16, stride := 0x8 }
def ax_CHIPSLOTS : Fld := { blk := .axisPort, off := 0x104, lo := 0, w := 16, acc := .img, rst := 0x0, count := 16, stride := 0x8 }

/-! ### R304: the global registers of the guard -/

def gg_GFAULT_RSVW : Fld := { blk := .guard, off := 0x0, lo := 0, w := 1, acc := .w1c, rst := 0x0 }
def gg_GFAULT_IMGW : Fld := { blk := .guard, off := 0x0, lo := 1, w := 1, acc := .w1c, rst := 0x0 }
def gg_GFAULT_LOGOVF : Fld := { blk := .guard, off := 0x0, lo := 2, w := 1, acc := .w1c, rst := 0x0 }
def gg_GFAULT_ENAREF : Fld := { blk := .guard, off := 0x0, lo := 3, w := 1, acc := .w1c, rst := 0x0 }
def gg_GFAULT_UECC : Fld := { blk := .guard, off := 0x0, lo := 4, w := 1, acc := .w1c, rst := 0x0 }
def gg_GCTL_LOGPOP : Fld := { blk := .guard, off := 0x4, lo := 0, w := 1, acc := .w1p, rst := 0x0 }
def gg_GCTL_CNTCLR : Fld := { blk := .guard, off := 0x4, lo := 1, w := 1, acc := .w1p, rst := 0x0 }
def gg_NRWREF : Fld := { blk := .guard, off := 0x8, lo := 0, w := 32, acc := .ro, rst := 0x0 }
def gg_REFUSED : Fld := { blk := .guard, off := 0xC, lo := 0, w := 32, acc := .ro, rst := 0x0 }
def gg_SUBS : Fld := { blk := .guard, off := 0x10, lo := 0, w := 32, acc := .ro, rst := 0x0 }
def gg_DISCARDS : Fld := { blk := .guard, off := 0x14, lo := 0, w := 32, acc := .ro, rst := 0x0 }
def gg_LOGLEVEL : Fld := { blk := .guard, off := 0x18, lo := 0, w := 6, acc := .ro, rst := 0x0 }
def gg_LOSTCOUNT : Fld := { blk := .guard, off := 0x18, lo := 16, w := 16, acc := .ro, rst := 0x0 }
def gg_LOGHEAD : Fld := { blk := .guard, off := 0x20, lo := 0, w := 128, acc := .ro, rst := 0x0 }
def gg_BRCLASS : Fld := { blk := .guard, off := 0x30, lo := 0, w := 2, acc := .img, rst := 0x1 }
def gg_BRACTIVE : Fld := { blk := .guard, off := 0x30, lo := 2, w := 1, acc := .ro, rst := 0x0 }
def gg_BRSEEN : Fld := { blk := .guard, off := 0x30, lo := 3, w := 1, acc := .w1c, rst := 0x0 }
def gg_ENAST : Fld := { blk := .guard, off := 0x40, lo := 0, w := 64, acc := .ro, rst := 0x0 }
def gg_ENAREL : Fld := { blk := .guard, off := 0x48, lo := 0, w := 64, acc := .w1p, rst := 0x0 }
def gg_ENADROP : Fld := { blk := .guard, off := 0x50, lo := 0, w := 64, acc := .w1p, rst := 0x0 }

/-! ### R305: the envelope block of axis a -/

def ge_PMIN : Fld := { blk := .envelope, off := 0x0, lo := 0, w := 32, acc := .nrw, rst := 0x7FFFFFFF }
def ge_PMAX : Fld := { blk := .envelope, off := 0x4, lo := 0, w := 32, acc := .nrw, rst := 0x80000000 }
def ge_VMAX : Fld := { blk := .envelope, off := 0x8, lo := 0, w := 24, acc := .nrw, rst := 0x0 }
def ge_AMAX : Fld := { blk := .envelope, off := 0xC, lo := 0, w := 24, acc := .nrw, rst := 0x0 }
def ge_JMAX : Fld := { blk := .envelope, off := 0x10, lo := 0, w := 24, acc := .nrw, rst := 0x0 }
def ge_FFMAX : Fld := { blk := .envelope, off := 0x14, lo := 0, w := 16, acc := .nrw, rst := 0x0 }
def ge_STALE : Fld := { blk := .envelope, off := 0x18, lo := 0, w := 16, acc := .nrw, rst := 0x0 }
def ge_MISSMAX : Fld := { blk := .envelope, off := 0x18, lo := 16, w := 4, acc := .nrw, rst := 0x0 }
def ge_DEC : Fld := { blk := .envelope, off := 0x1C, lo := 0, w := 24, acc := .img, rst := 0x1 }
def ge_ASSIGNED : Fld := { blk := .envelope, off := 0x20, lo := 0, w := 1, acc := .img, rst := 0x0 }
def ge_CLSENV : Fld := { blk := .envelope, off := 0x20, lo := 1, w := 2, acc := .img, rst := 0x1 }
def ge_CLSSTALE : Fld := { blk := .envelope, off := 0x20, lo := 3, w := 2, acc := .img, rst := 0x1 }
def ge_STOPGRP : Fld := { blk := .envelope, off := 0x20, lo := 5, w := 6, acc := .img, rst := 0x0 }
def ge_ENADLY : Fld := { blk := .envelope, off := 0x20, lo := 11, w := 8, acc := .img, rst := 0x0 }
def ge_CMDEP : Fld := { blk := .envelope, off := 0x24, lo := 0, w := 15, acc := .img, rst := 0x0 }
def ge_SUPHERD : Fld := { blk := .envelope, off := 0x24, lo := 16, w := 9, acc := .img, rst := 0x0 }
def ge_ACTL_STOPR : Fld := { blk := .envelope, off := 0x28, lo := 0, w := 1, acc := .w1p, rst := 0x0 }
def ge_ACTL_STOPD : Fld := { blk := .envelope, off := 0x28, lo := 1, w := 1, acc := .w1p, rst := 0x0 }
def ge_ACTL_RELEASE : Fld := { blk := .envelope, off := 0x28, lo := 2, w := 1, acc := .w1p, rst := 0x0 }

/-! ### R306: the state block of axis a -/

def gs_ASTATE : Fld := { blk := .axisState, off := 0x0, lo := 0, w := 3, acc := .ro, rst := 0x0 }
def gs_SEEDED : Fld := { blk := .axisState, off := 0x0, lo := 3, w := 1, acc := .ro, rst := 0x0 }
def gs_STOPKIND : Fld := { blk := .axisState, off := 0x0, lo := 4, w := 4, acc := .ro, rst := 0x0 }
def gs_STOPCLS : Fld := { blk := .axisState, off := 0x0, lo := 8, w := 2, acc := .ro, rst := 0x0 }
def gs_RELREF : Fld := { blk := .axisState, off := 0x0, lo := 10, w := 1, acc := .w1c, rst := 0x0 }
def gs_LATE : Fld := { blk := .axisState, off := 0x0, lo := 11, w := 1, acc := .ro, rst := 0x0 }
def gs_P1 : Fld := { blk := .axisState, off := 0x4, lo := 0, w := 32, acc := .ro, rst := 0x0 }
def gs_V : Fld := { blk := .axisState, off := 0x8, lo := 0, w := 32, acc := .ro, rst := 0x0 }
def gs_STOPP : Fld := { blk := .axisState, off := 0xC, lo := 0, w := 32, acc := .ro, rst := 0x0 }
def gs_MISSRUN : Fld := { blk := .axisState, off := 0x10, lo := 0, w := 4, acc := .ro, rst := 0x0 }
def gs_LASTCSEQ : Fld := { blk := .axisState, off := 0x10, lo := 8, w := 8, acc := .ro, rst := 0x0 }
def gs_ACCEPTS : Fld := { blk := .axisState, off := 0x14, lo := 0, w := 32, acc := .ro, rst := 0x0 }
def gs_AREFUSED : Fld := { blk := .axisState, off := 0x18, lo := 0, w := 32, acc := .ro, rst := 0x0 }

/-! ### R307: the block of constraint j -/

def gc_CVALID : Fld := { blk := .constraint, off := 0x0, lo := 0, w := 1, acc := .img, rst := 0x0 }
def gc_CCLASS : Fld := { blk := .constraint, off := 0x0, lo := 1, w := 2, acc := .img, rst := 0x1 }
def gc_HOME : Fld := { blk := .constraint, off := 0x0, lo := 3, w := 2, acc := .ro, rst := 0x0 }
def gc_AX : Fld := { blk := .constraint, off := 0x4, lo := 0, w := 10, acc := .img, rst := 0x0, count := 4, stride := 0x4 }
def gc_C : Fld := { blk := .constraint, off := 0x4, lo := 16, w := 8, acc := .img, rst := 0x0, count := 4, stride := 0x4 }
def gc_VIOLS : Fld := { blk := .constraint, off := 0x14, lo := 0, w := 16, acc := .ro, rst := 0x0 }
def gc_DMIN : Fld := { blk := .constraint, off := 0x18, lo := 0, w := 48, acc := .nrw, rst := 0x7FFFFFFFFFFF }

/-! ### R324: the registers of camera port c -/

def cm_CSTATE : Fld := { blk := .camera, off := 0x0, lo := 0, w := 2, acc := .ro, rst := 0x0 }
def cm_CCTL_START : Fld := { blk := .camera, off := 0x4, lo := 0, w := 1, acc := .w1p, rst := 0x0 }
def cm_CCTL_STOP : Fld := { blk := .camera, off := 0x4, lo := 1, w := 1, acc := .w1p, rst := 0x0 }
def cm_CCTL_FAWNRUN : Fld := { blk := .camera, off := 0x4, lo := 2, w := 1, acc := .w1p, rst := 0x0 }
def cm_CCTL_CNTCLR : Fld := { blk := .camera, off := 0x4, lo := 3, w := 1, acc := .w1p, rst := 0x0 }
def cm_CCFG_LANES : Fld := { blk := .camera, off := 0x8, lo := 0, w := 3, acc := .img, rst := 0x4 }
def cm_CCFG_VC : Fld := { blk := .camera, off := 0x8, lo := 3, w := 2, acc := .img, rst := 0x0 }
def cm_POSEEP : Fld := { blk := .camera, off := 0xC, lo := 0, w := 15, acc := .img, rst := 0x0 }
def cm_ROIX : Fld := { blk := .camera, off := 0x10, lo := 0, w := 13, acc := .rw, rst := 0x0 }
def cm_ROIY : Fld := { blk := .camera, off := 0x10, lo := 16, w := 13, acc := .rw, rst := 0x0 }
def cm_ROIW : Fld := { blk := .camera, off := 0x14, lo := 0, w := 13, acc := .rw, rst := 0x0 }
def cm_ROIH : Fld := { blk := .camera, off := 0x14, lo := 16, w := 13, acc := .rw, rst := 0x0 }
def cm_EDGETHR : Fld := { blk := .camera, off := 0x18, lo := 0, w := 12, acc := .rw, rst := 0x100 }
def cm_TMPLSEL : Fld := { blk := .camera, off := 0x18, lo := 12, w := 3, acc := .rw, rst := 0x0 }
def cm_MODE : Fld := { blk := .camera, off := 0x18, lo := 15, w := 1, acc := .rw, rst := 0x0 }
def cm_MATCHRAD : Fld := { blk := .camera, off := 0x18, lo := 16, w := 8, acc := .rw, rst := 0x10 }
def cm_MATCHANG : Fld := { blk := .camera, off := 0x18, lo := 24, w := 8, acc := .rw, rst := 0x40 }
def cm_MINSCORE : Fld := { blk := .camera, off := 0x1C, lo := 0, w := 16, acc := .rw, rst := 0x8000 }
def cm_FSWIN : Fld := { blk := .camera, off := 0x1C, lo := 16, w := 16, acc := .rw, rst := 0x64 }
def cm_NOMX : Fld := { blk := .camera, off := 0x20, lo := 0, w := 17, acc := .rw, rst := 0x0 }
def cm_NOMY : Fld := { blk := .camera, off := 0x24, lo := 0, w := 17, acc := .rw, rst := 0x0 }
def cm_FRAMES : Fld := { blk := .camera, off := 0x28, lo := 0, w := 32, acc := .ro, rst := 0x0 }
def cm_POSES : Fld := { blk := .camera, off := 0x2C, lo := 0, w := 32, acc := .ro, rst := 0x0 }
def cm_DROPPED : Fld := { blk := .camera, off := 0x30, lo := 0, w := 32, acc := .ro, rst := 0x0 }
def cm_PKTERR : Fld := { blk := .camera, off := 0x34, lo := 0, w := 32, acc := .ro, rst := 0x0 }
def cm_OTHERPKT : Fld := { blk := .camera, off := 0x38, lo := 0, w := 32, acc := .ro, rst := 0x0 }
def cm_EDGEOVF : Fld := { blk := .camera, off := 0x3C, lo := 0, w := 16, acc := .ro, rst := 0x0 }
def cm_EDGELATE : Fld := { blk := .camera, off := 0x3C, lo := 16, w := 16, acc := .ro, rst := 0x0 }
def cm_CFAWN_SUCAUSE : Fld := { blk := .camera, off := 0x40, lo := 0, w := 6, acc := .ro, rst := 0x0 }
def cm_CFAWN_SUADDR : Fld := { blk := .camera, off := 0x40, lo := 6, w := 10, acc := .ro, rst := 0x0 }
def cm_CFAWN_STCAUSE : Fld := { blk := .camera, off := 0x40, lo := 16, w := 6, acc := .ro, rst := 0x0 }
def cm_CFAWN_STADDR : Fld := { blk := .camera, off := 0x40, lo := 22, w := 10, acc := .ro, rst := 0x0 }
def cm_CFAULT_RSVW : Fld := { blk := .camera, off := 0x44, lo := 0, w := 1, acc := .w1c, rst := 0x0 }
def cm_CFAULT_IMGW : Fld := { blk := .camera, off := 0x44, lo := 1, w := 1, acc := .w1c, rst := 0x0 }
def cm_CFAULT_NOCLK : Fld := { blk := .camera, off := 0x44, lo := 2, w := 1, acc := .w1c, rst := 0x0 }
def cm_CFAULT_DESKEW : Fld := { blk := .camera, off := 0x44, lo := 3, w := 1, acc := .w1c, rst := 0x0 }
def cm_CFAULT_UECC : Fld := { blk := .camera, off := 0x44, lo := 4, w := 1, acc := .w1c, rst := 0x0 }
def cm_CDB_SRC : Fld := { blk := .camera, off := 0x48, lo := 0, w := 6, acc := .img, rst := 0x0 }
def cm_CDB_HERD : Fld := { blk := .camera, off := 0x48, lo := 6, w := 9, acc := .img, rst := 0x0 }
def cm_CDB_MAPPED : Fld := { blk := .camera, off := 0x48, lo := 15, w := 1, acc := .img, rst := 0x0 }
def cm_TMPLHDR_NFEAT : Fld := { blk := .camera, off := 0x200, lo := 0, w := 10, acc := .rw, rst := 0x0, count := 8, stride := 0x4 }

/-! ### R336: the timebase block -/

def tb_TBNOW : Fld := { blk := .timebase, off := 0x0, lo := 0, w := 64, acc := .ro, rst := 0x0 }
def tb_TBCTL_CAP : Fld := { blk := .timebase, off := 0x8, lo := 0, w := 1, acc := .w1p, rst := 0x0 }
def tb_TBCTL_SET : Fld := { blk := .timebase, off := 0x8, lo := 1, w := 1, acc := .w1p, rst := 0x0 }
def tb_TBCAPT : Fld := { blk := .timebase, off := 0x10, lo := 0, w := 64, acc := .ro, rst := 0x0 }
def tb_TBSETV : Fld := { blk := .timebase, off := 0x18, lo := 0, w := 64, acc := .rw, rst := 0x0 }
def tb_TBSTAT_LOCK : Fld := { blk := .timebase, off := 0x20, lo := 0, w := 1, acc := .ro, rst := 0x0 }
def tb_TBSTAT_SYNC : Fld := { blk := .timebase, off := 0x20, lo := 1, w := 1, acc := .ro, rst := 0x0 }
def tb_TBSTAT_HOLD : Fld := { blk := .timebase, off := 0x20, lo := 2, w := 1, acc := .ro, rst := 0x0 }
def tb_TBSTAT_HOPS : Fld := { blk := .timebase, off := 0x20, lo := 3, w := 4, acc := .ro, rst := 0x0 }
def tb_TBFAULT_RSVW : Fld := { blk := .timebase, off := 0x24, lo := 0, w := 1, acc := .w1c, rst := 0x0 }
def tb_TBFAULT_IMGW : Fld := { blk := .timebase, off := 0x24, lo := 1, w := 1, acc := .w1c, rst := 0x0 }
def tb_TBFAULT_UNLOCK : Fld := { blk := .timebase, off := 0x24, lo := 2, w := 1, acc := .w1c, rst := 0x0 }
def tb_TBFAULT_NORESP : Fld := { blk := .timebase, off := 0x24, lo := 3, w := 1, acc := .w1c, rst := 0x0 }
def tb_TBFAULT_OFFLIM : Fld := { blk := .timebase, off := 0x24, lo := 4, w := 1, acc := .w1c, rst := 0x0 }
def tb_TBFAULT_LOOP : Fld := { blk := .timebase, off := 0x24, lo := 5, w := 1, acc := .w1c, rst := 0x0 }
def tb_TBFAULT_SETREF : Fld := { blk := .timebase, off := 0x24, lo := 6, w := 1, acc := .w1c, rst := 0x0 }
def tb_TBSRC : Fld := { blk := .timebase, off := 0x28, lo := 0, w := 4, acc := .img, rst := 0xF }
def tb_TXINT : Fld := { blk := .timebase, off := 0x2C, lo := 0, w := 16, acc := .rw, rst := 0x3E8 }
def tb_LOCKTHR : Fld := { blk := .timebase, off := 0x2C, lo := 16, w := 16, acc := .rw, rst := 0x8 }
def tb_OFFSET : Fld := { blk := .timebase, off := 0x30, lo := 0, w := 32, acc := .ro, rst := 0x0 }
def tb_DELAY : Fld := { blk := .timebase, off := 0x34, lo := 0, w := 32, acc := .ro, rst := 0x0 }
def tb_EXCH : Fld := { blk := .timebase, off := 0x38, lo := 0, w := 32, acc := .ro, rst := 0x0 }
def tb_ASYM : Fld := { blk := .timebase, off := 0x40, lo := 0, w := 16, acc := .img, rst := 0x0, count := 12, stride := 0x4 }
def tb_ALMT : Fld := { blk := .timebase, off := 0x80, lo := 0, w := 64, acc := .rw, rst := 0x0, count := 8, stride := 0x10 }
def tb_ALMPER : Fld := { blk := .timebase, off := 0x88, lo := 0, w := 32, acc := .rw, rst := 0x0, count := 8, stride := 0x10 }
def tb_ALM_SRC : Fld := { blk := .timebase, off := 0x8C, lo := 0, w := 6, acc := .img, rst := 0x0, count := 8, stride := 0x10 }
def tb_ALM_HERD : Fld := { blk := .timebase, off := 0x8C, lo := 6, w := 9, acc := .img, rst := 0x0, count := 8, stride := 0x10 }
def tb_ALM_EN : Fld := { blk := .timebase, off := 0x8C, lo := 15, w := 1, acc := .rw, rst := 0x0, count := 8, stride := 0x10 }
def tb_ALM_FIRED : Fld := { blk := .timebase, off := 0x8C, lo := 16, w := 1, acc := .w1c, rst := 0x0, count := 8, stride := 0x10 }
def tb_ALM_MAPPED : Fld := { blk := .timebase, off := 0x8C, lo := 17, w := 1, acc := .img, rst := 0x0, count := 8, stride := 0x10 }
def tb_ALM_MISSED : Fld := { blk := .timebase, off := 0x8C, lo := 24, w := 8, acc := .ro, rst := 0x0, count := 8, stride := 0x10 }

/-! ### R357: the registers of link l -/

def lk_LSTATE : Fld := { blk := .link, off := 0x0, lo := 0, w := 2, acc := .ro, rst := 0x0 }
def lk_TPHASE : Fld := { blk := .link, off := 0x0, lo := 2, w := 2, acc := .ro, rst := 0x0 }
def lk_LANELOCK : Fld := { blk := .link, off := 0x0, lo := 4, w := 4, acc := .ro, rst := 0x0 }
def lk_LANEINV : Fld := { blk := .link, off := 0x0, lo := 8, w := 4, acc := .ro, rst := 0x0 }
def lk_LCTL_START : Fld := { blk := .link, off := 0x4, lo := 0, w := 1, acc := .w1p, rst := 0x0 }
def lk_LCTL_STOP : Fld := { blk := .link, off := 0x4, lo := 1, w := 1, acc := .w1p, rst := 0x0 }
def lk_LCTL_RESET : Fld := { blk := .link, off := 0x4, lo := 2, w := 1, acc := .w1p, rst := 0x0 }
def lk_LCTL_FAWNRUN : Fld := { blk := .link, off := 0x4, lo := 3, w := 1, acc := .w1p, rst := 0x0 }
def lk_LCTL_CNTCLR : Fld := { blk := .link, off := 0x4, lo := 4, w := 1, acc := .w1p, rst := 0x0 }
def lk_LCFG_EN : Fld := { blk := .link, off := 0x8, lo := 0, w := 1, acc := .img, rst := 0x0 }
def lk_LCFG_AUTO : Fld := { blk := .link, off := 0x8, lo := 1, w := 1, acc := .img, rst := 0x0 }
def lk_LCFG_PEERCHK : Fld := { blk := .link, off := 0x8, lo := 2, w := 1, acc := .img, rst := 0x0 }
def lk_EXPPEER : Fld := { blk := .link, off := 0xC, lo := 0, w := 16, acc := .img, rst := 0x0 }
def lk_EXPLINK : Fld := { blk := .link, off := 0xC, lo := 16, w := 4, acc := .img, rst := 0x0 }
def lk_PEERNODE : Fld := { blk := .link, off := 0x10, lo := 0, w := 16, acc := .ro, rst := 0x0 }
def lk_PEERLINK : Fld := { blk := .link, off := 0x10, lo := 16, w := 4, acc := .ro, rst := 0x0 }
def lk_RETRYMAX : Fld := { blk := .link, off := 0x14, lo := 0, w := 8, acc := .rw, rst := 0x10 }
def lk_FLITSTX : Fld := { blk := .link, off := 0x18, lo := 0, w := 32, acc := .ro, rst := 0x0 }
def lk_FLITSRX : Fld := { blk := .link, off := 0x1C, lo := 0, w := 32, acc := .ro, rst := 0x0 }
def lk_RETRIES : Fld := { blk := .link, off := 0x20, lo := 0, w := 32, acc := .ro, rst := 0x0 }
def lk_FECCORR : Fld := { blk := .link, off := 0x24, lo := 0, w := 32, acc := .ro, rst := 0x0 }
def lk_FECUNC : Fld := { blk := .link, off := 0x28, lo := 0, w := 32, acc := .ro, rst := 0x0 }
def lk_CRCERR : Fld := { blk := .link, off := 0x2C, lo := 0, w := 32, acc := .ro, rst := 0x0 }
def lk_RETRAINS : Fld := { blk := .link, off := 0x30, lo := 0, w := 32, acc := .ro, rst := 0x0 }
def lk_CRED_REQ : Fld := { blk := .link, off := 0x34, lo := 0, w := 8, acc := .ro, rst := 0x0 }
def lk_CRED_RSP : Fld := { blk := .link, off := 0x34, lo := 8, w := 8, acc := .ro, rst := 0x0 }
def lk_UNACK : Fld := { blk := .link, off := 0x34, lo := 16, w := 10, acc := .ro, rst := 0x0 }
def lk_LFAWN_RXCAUSE : Fld := { blk := .link, off := 0x38, lo := 0, w := 6, acc := .ro, rst := 0x0 }
def lk_LFAWN_RXADDR : Fld := { blk := .link, off := 0x38, lo := 6, w := 10, acc := .ro, rst := 0x0 }
def lk_LFAWN_TXCAUSE : Fld := { blk := .link, off := 0x38, lo := 16, w := 6, acc := .ro, rst := 0x0 }
def lk_LFAWN_TXADDR : Fld := { blk := .link, off := 0x38, lo := 22, w := 10, acc := .ro, rst := 0x0 }
def lk_LFAULT_RSVW : Fld := { blk := .link, off := 0x3C, lo := 0, w := 1, acc := .w1c, rst := 0x0 }
def lk_LFAULT_IMGW : Fld := { blk := .link, off := 0x3C, lo := 1, w := 1, acc := .w1c, rst := 0x0 }
def lk_LFAULT_TRAINTO : Fld := { blk := .link, off := 0x3C, lo := 2, w := 1, acc := .w1c, rst := 0x0 }
def lk_LFAULT_PEERMIS : Fld := { blk := .link, off := 0x3C, lo := 3, w := 1, acc := .w1c, rst := 0x0 }
def lk_LFAULT_LANESWAP : Fld := { blk := .link, off := 0x3C, lo := 4, w := 1, acc := .w1c, rst := 0x0 }
def lk_LFAULT_MKLOST : Fld := { blk := .link, off := 0x3C, lo := 5, w := 1, acc := .w1c, rst := 0x0 }
def lk_LFAULT_RETRY : Fld := { blk := .link, off := 0x3C, lo := 6, w := 1, acc := .w1c, rst := 0x0 }
def lk_LFAULT_PROTO : Fld := { blk := .link, off := 0x3C, lo := 7, w := 1, acc := .w1c, rst := 0x0 }
def lk_LFAULT_RESEQ : Fld := { blk := .link, off := 0x3C, lo := 8, w := 1, acc := .w1c, rst := 0x0 }
def lk_LFAULT_STALL : Fld := { blk := .link, off := 0x3C, lo := 9, w := 1, acc := .w1c, rst := 0x0 }
def lk_LFAULT_UECC : Fld := { blk := .link, off := 0x3C, lo := 10, w := 1, acc := .w1c, rst := 0x0 }

/-! ### R358: the routing registers -/

def rt_RNODE : Fld := { blk := .routing, off := 0x4000, lo := 0, w := 16, acc := .img, rst := 0x0, count := 4096, stride := 0x4 }
def rt_RPLEN : Fld := { blk := .routing, off := 0x4000, lo := 16, w := 5, acc := .img, rst := 0x0, count := 4096, stride := 0x4 }
def rt_RLINK : Fld := { blk := .routing, off := 0x4000, lo := 21, w := 4, acc := .img, rst := 0x0, count := 4096, stride := 0x4 }
def rt_RVALID : Fld := { blk := .routing, off := 0x4000, lo := 25, w := 1, acc := .img, rst := 0x0, count := 4096, stride := 0x4 }
def rt_NODEID : Fld := { blk := .routing, off := 0x8000, lo := 0, w := 16, acc := .img, rst := 0x0 }
def rt_DEFLINK : Fld := { blk := .routing, off := 0x8004, lo := 0, w := 4, acc := .img, rst := 0xF }
def rt_CMPTO : Fld := { blk := .routing, off := 0x8008, lo := 0, w := 16, acc := .rw, rst := 0x64 }
def rt_LSTALLTO : Fld := { blk := .routing, off := 0x8008, lo := 16, w := 16, acc := .rw, rst := 0x0 }
def rt_NOROUTE : Fld := { blk := .routing, off := 0x800C, lo := 0, w := 32, acc := .ro, rst := 0x0 }
def rt_HOPDROP : Fld := { blk := .routing, off := 0x8010, lo := 0, w := 32, acc := .ro, rst := 0x0 }
def rt_TIMEOUTS : Fld := { blk := .routing, off := 0x8014, lo := 0, w := 32, acc := .ro, rst := 0x0 }
def rt_LATECMP : Fld := { blk := .routing, off := 0x8018, lo := 0, w := 32, acc := .ro, rst := 0x0 }
def rt_BADQ : Fld := { blk := .routing, off := 0x801C, lo := 0, w := 32, acc := .ro, rst := 0x0 }
def rt_RLOGLEVEL : Fld := { blk := .routing, off := 0x8020, lo := 0, w := 6, acc := .ro, rst := 0x0 }
def rt_RLOST : Fld := { blk := .routing, off := 0x8020, lo := 16, w := 16, acc := .ro, rst := 0x0 }
def rt_RCTL_LOGPOP : Fld := { blk := .routing, off := 0x8024, lo := 0, w := 1, acc := .w1p, rst := 0x0 }
def rt_RCTL_CNTCLR : Fld := { blk := .routing, off := 0x8024, lo := 1, w := 1, acc := .w1p, rst := 0x0 }
def rt_RFAULT_RSVW : Fld := { blk := .routing, off := 0x8028, lo := 0, w := 1, acc := .w1c, rst := 0x0 }
def rt_RFAULT_IMGW : Fld := { blk := .routing, off := 0x8028, lo := 1, w := 1, acc := .w1c, rst := 0x0 }
def rt_RFAULT_LOGOVF : Fld := { blk := .routing, off := 0x8028, lo := 2, w := 1, acc := .w1c, rst := 0x0 }
def rt_RLOGHEAD : Fld := { blk := .routing, off := 0x8030, lo := 0, w := 128, acc := .ro, rst := 0x0 }

/-! ### R374: the host and boot block -/

def hb_BOOTSTAT_PHASE : Fld := { blk := .hostBoot, off := 0x0, lo := 0, w := 4, acc := .ro, rst := 0x1 }
def hb_BOOTSTAT_CODE : Fld := { blk := .hostBoot, off := 0x0, lo := 8, w := 8, acc := .ro, rst := 0x0 }
def hb_BOOTSTAT_SRC : Fld := { blk := .hostBoot, off := 0x0, lo := 16, w := 1, acc := .ro, rst := 0x0 }
def hb_BOOTSTAT_SLOT : Fld := { blk := .hostBoot, off := 0x0, lo := 17, w := 1, acc := .ro, rst := 0x0 }
def hb_BOOTSTAT_SEL : Fld := { blk := .hostBoot, off := 0x0, lo := 18, w := 2, acc := .ro, rst := 0x0 }
def hb_BOOTCTL_GO : Fld := { blk := .hostBoot, off := 0x4, lo := 0, w := 1, acc := .w1p, rst := 0x0 }
def hb_HIMGLEN : Fld := { blk := .hostBoot, off := 0x8, lo := 0, w := 29, acc := .rw, rst := 0x0 }
def hb_BOOTTIME : Fld := { blk := .hostBoot, off := 0x10, lo := 0, w := 64, acc := .ro, rst := 0x0 }
def hb_HERRCNT : Fld := { blk := .hostBoot, off := 0x20, lo := 0, w := 32, acc := .ro, rst := 0x0 }
def hb_HTOCNT : Fld := { blk := .hostBoot, off := 0x24, lo := 0, w := 32, acc := .ro, rst := 0x0 }
def hb_HRDTO : Fld := { blk := .hostBoot, off := 0x28, lo := 0, w := 16, acc := .rw, rst := 0x32 }
def hb_HERRLAST : Fld := { blk := .hostBoot, off := 0x30, lo := 0, w := 64, acc := .ro, rst := 0x0 }
def hb_HOSTRING : Fld := { blk := .hostBoot, off := 0x40, lo := 0, w := 6, acc := .wo, rst := 0x0 }
def hb_HFAULT_RSVW : Fld := { blk := .hostBoot, off := 0x50, lo := 0, w := 1, acc := .w1c, rst := 0x0 }
def hb_HFAULT_IMGW : Fld := { blk := .hostBoot, off := 0x50, lo := 1, w := 1, acc := .w1c, rst := 0x0 }
def hb_HFAULT_BUSYGO : Fld := { blk := .hostBoot, off := 0x50, lo := 2, w := 1, acc := .w1c, rst := 0x0 }
def hb_HFAULT_APINV : Fld := { blk := .hostBoot, off := 0x50, lo := 3, w := 1, acc := .w1c, rst := 0x0 }
def hb_HFAULT_RSVV : Fld := { blk := .hostBoot, off := 0x50, lo := 4, w := 1, acc := .w1c, rst := 0x0 }
def hb_APBASE : Fld := { blk := .hostBoot, off := 0x100, lo := 0, w := 12, acc := .rw, rst := 0x0, count := 16, stride := 0x8 }
def hb_APNODE : Fld := { blk := .hostBoot, off := 0x100, lo := 12, w := 16, acc := .rw, rst := 0x0, count := 16, stride := 0x8 }
def hb_APVALID : Fld := { blk := .hostBoot, off := 0x100, lo := 31, w := 1, acc := .rw, rst := 0x0, count := 16, stride := 0x8, rstAt := [(0, 0x1)] }
def hb_MSIXADDR : Fld := { blk := .hostBoot, off := 0x8000, lo := 0, w := 64, acc := .rw, rst := 0x0, count := 64, stride := 0x10 }
def hb_MSIXDATA : Fld := { blk := .hostBoot, off := 0x8008, lo := 0, w := 32, acc := .rw, rst := 0x0, count := 64, stride := 0x10 }
def hb_MSIXMASK : Fld := { blk := .hostBoot, off := 0x800C, lo := 0, w := 1, acc := .rw, rst := 0x1, count := 64, stride := 0x10 }
def hb_MSIXPBA : Fld := { blk := .hostBoot, off := 0x9000, lo := 0, w := 64, acc := .ro, rst := 0x0 }

/-! ### R382, R397: the image and lifecycle block -/

def lc_FCFG_RINGHERD : Fld := { blk := .lifecycle, off := 0x400, lo := 0, w := 9, acc := .img, rst := 0x0, count := 168, stride := 0x4 }
def lc_FCFG_RINGEN : Fld := { blk := .lifecycle, off := 0x400, lo := 9, w := 1, acc := .img, rst := 0x0, count := 168, stride := 0x4 }
def lc_FCFG_HOSTEN : Fld := { blk := .lifecycle, off := 0x400, lo := 10, w := 1, acc := .img, rst := 0x0, count := 168, stride := 0x4 }
def lc_LCSTATE : Fld := { blk := .lifecycle, off := 0x0, lo := 0, w := 3, acc := .ro, rst := 0x0 }
def lc_LCPEND : Fld := { blk := .lifecycle, off := 0x0, lo := 3, w := 1, acc := .ro, rst := 0x0 }
def lc_RETURNS : Fld := { blk := .lifecycle, off := 0x0, lo := 4, w := 4, acc := .ro, rst := 0x0 }
def lc_SLOTS : Fld := { blk := .lifecycle, off := 0x0, lo := 8, w := 4, acc := .ro, rst := 0x0 }
def lc_REVOKED : Fld := { blk := .lifecycle, off := 0x0, lo := 12, w := 4, acc := .ro, rst := 0x0 }
def lc_SVN : Fld := { blk := .lifecycle, off := 0x4, lo := 0, w := 32, acc := .ro, rst := 0x0 }
def lc_IMGSLOT : Fld := { blk := .lifecycle, off := 0x8, lo := 0, w := 3, acc := .ro, rst := 0x0 }
def lc_IMGHASH : Fld := { blk := .lifecycle, off := 0x20, lo := 0, w := 256, acc := .ro, rst := 0x0 }
def lc_VDETAIL_REASON : Fld := { blk := .lifecycle, off := 0x40, lo := 0, w := 8, acc := .ro, rst := 0x0 }
def lc_VDETAIL_SECTION : Fld := { blk := .lifecycle, off := 0x40, lo := 8, w := 12, acc := .ro, rst := 0x0 }
def lc_FAULTHERD : Fld := { blk := .lifecycle, off := 0x44, lo := 0, w := 9, acc := .img, rst := 0x0 }
def lc_DBGLEVEL : Fld := { blk := .lifecycle, off := 0x48, lo := 0, w := 2, acc := .ro, rst := 0x0 }
def lc_LCOP : Fld := { blk := .lifecycle, off := 0x50, lo := 0, w := 4, acc := .rw, rst := 0x0 }
def lc_LCGO : Fld := { blk := .lifecycle, off := 0x50, lo := 4, w := 1, acc := .w1p, rst := 0x0 }
def lc_LCBUSY : Fld := { blk := .lifecycle, off := 0x50, lo := 5, w := 1, acc := .ro, rst := 0x0 }
def lc_LCRES : Fld := { blk := .lifecycle, off := 0x50, lo := 8, w := 4, acc := .ro, rst := 0x0 }
def lc_LCFAULT_RSVW : Fld := { blk := .lifecycle, off := 0x54, lo := 0, w := 1, acc := .w1c, rst := 0x0 }
def lc_LCFAULT_IMGW : Fld := { blk := .lifecycle, off := 0x54, lo := 1, w := 1, acc := .w1c, rst := 0x0 }
def lc_LCFAULT_BUSYGO : Fld := { blk := .lifecycle, off := 0x54, lo := 2, w := 1, acc := .w1c, rst := 0x0 }
def lc_PROVGO : Fld := { blk := .lifecycle, off := 0x58, lo := 0, w := 1, acc := .w1p, rst := 0x0 }
def lc_DBGNONCE : Fld := { blk := .lifecycle, off := 0x60, lo := 0, w := 256, acc := .ro, rst := 0x0 }
def lc_NONCE : Fld := { blk := .lifecycle, off := 0x80, lo := 0, w := 256, acc := .rw, rst := 0x0 }
def lc_VKEYHASH : Fld := { blk := .lifecycle, off := 0xA0, lo := 0, w := 256, acc := .rw, rst := 0x0 }
def lc_WBASE : Fld := { blk := .lifecycle, off := 0x100, lo := 0, w := 24, acc := .img, rst := 0x0, count := 16, stride := 0x8 }
def lc_WLEN : Fld := { blk := .lifecycle, off := 0x100, lo := 24, w := 24, acc := .img, rst := 0x0, count := 16, stride := 0x8 }
def lc_REQBUF : Fld := { blk := .lifecycle, off := 0x1000, lo := 0, w := 64, acc := .rw, rst := 0x0, count := 512, stride := 0x8 }
def lc_REPORT : Fld := { blk := .lifecycle, off := 0x2000, lo := 0, w := 64, acc := .ro, rst := 0x0, count := 80, stride := 0x8 }
def lc_DEVKEY : Fld := { blk := .lifecycle, off := 0x3000, lo := 0, w := 32, acc := .ro, rst := 0x0, count := 97, stride := 0x4 }

/-! ### R417: the power and margin block -/

def pm_PMFAULT_RSVW : Fld := { blk := .power, off := 0x0, lo := 0, w := 1, acc := .w1c, rst := 0x0 }
def pm_PMFAULT_IMGW : Fld := { blk := .power, off := 0x0, lo := 1, w := 1, acc := .w1c, rst := 0x0 }
def pm_PMFAULT_BUSYGO : Fld := { blk := .power, off := 0x0, lo := 2, w := 1, acc := .w1c, rst := 0x0 }
def pm_PMCTL_REQ : Fld := { blk := .power, off := 0x4, lo := 0, w := 3, acc := .rw, rst := 0x0 }
def pm_PMCTL_GO : Fld := { blk := .power, off := 0x4, lo := 3, w := 1, acc := .w1p, rst := 0x0 }
def pm_PMSTAT_STATE : Fld := { blk := .power, off := 0x8, lo := 0, w := 3, acc := .ro, rst := 0x0 }
def pm_PMSTAT_BUSY : Fld := { blk := .power, off := 0x8, lo := 3, w := 1, acc := .ro, rst := 0x0 }
def pm_PMSTAT_RES : Fld := { blk := .power, off := 0x8, lo := 4, w := 3, acc := .ro, rst := 0x0 }
def pm_PMSTAT_LASTFAIL : Fld := { blk := .power, off := 0x8, lo := 8, w := 4, acc := .ro, rst := 0x0 }
def pm_MPERIOD : Fld := { blk := .power, off := 0xC, lo := 0, w := 8, acc := .rw, rst := 0xA }
def pm_GBAND : Fld := { blk := .power, off := 0xC, lo := 8, w := 5, acc := .rw, rst := 0x5 }
def pm_HYST : Fld := { blk := .power, off := 0xC, lo := 13, w := 5, acc := .rw, rst := 0x4 }
def pm_SLACKMIN : Fld := { blk := .power, off := 0x10, lo := 0, w := 8, acc := .rw, rst := 0x14 }
def pm_SLACKHYS : Fld := { blk := .power, off := 0x10, lo := 8, w := 8, acc := .rw, rst := 0xA }
def pm_VSTEP : Fld := { blk := .power, off := 0x10, lo := 16, w := 4, acc := .rw, rst := 0x5 }
def pm_VSETTLE : Fld := { blk := .power, off := 0x10, lo := 24, w := 8, acc := .rw, rst := 0x14 }
def pm_VWDUR : Fld := { blk := .power, off := 0x14, lo := 0, w := 16, acc := .img, rst := 0x14 }
def pm_DOZEIDLE : Fld := { blk := .power, off := 0x14, lo := 16, w := 16, acc := .rw, rst := 0xA }
def pm_WAKETO : Fld := { blk := .power, off := 0x18, lo := 0, w := 16, acc := .img, rst := 0x5 }
def pm_WPERIOD : Fld := { blk := .power, off := 0x18, lo := 16, w := 16, acc := .rw, rst := 0xA }
def pm_WAKEMAP_SRC : Fld := { blk := .power, off := 0x1C, lo := 0, w := 6, acc := .img, rst := 0x0 }
def pm_WAKEMAP_HERD : Fld := { blk := .power, off := 0x1C, lo := 6, w := 9, acc := .img, rst := 0x0 }
def pm_WAKEMAP_MAPPED : Fld := { blk := .power, off := 0x1C, lo := 15, w := 1, acc := .img, rst := 0x0 }
def pm_DEEPWAKE : Fld := { blk := .power, off := 0x1C, lo := 16, w := 16, acc := .img, rst := 0x0 }
def pm_MNOTE_LOW : Fld := { blk := .power, off := 0x20, lo := 0, w := 1, acc := .w1c, rst := 0x0 }
def pm_MNOTE_REPLAN : Fld := { blk := .power, off := 0x20, lo := 1, w := 1, acc := .w1c, rst := 0x0 }
def pm_MNOTE_TRIMFAIL : Fld := { blk := .power, off := 0x20, lo := 2, w := 1, acc := .w1c, rst := 0x0 }
def pm_MNOTE_AVSERR : Fld := { blk := .power, off := 0x20, lo := 3, w := 1, acc := .w1c, rst := 0x0 }
def pm_MNOTE_RETLOST : Fld := { blk := .power, off := 0x20, lo := 4, w := 1, acc := .w1c, rst := 0x0 }
def pm_MNOTE_THERM : Fld := { blk := .power, off := 0x20, lo := 5, w := 1, acc := .w1c, rst := 0x0 }
def pm_TWARN : Fld := { blk := .power, off := 0x24, lo := 0, w := 8, acc := .img, rst := 0x5F }
def pm_TEMP : Fld := { blk := .power, off := 0x30, lo := 0, w := 16, acc := .ro, rst := 0x0, count := 5, stride := 0x2 }
def pm_VSET : Fld := { blk := .power, off := 0x40, lo := 0, w := 12, acc := .ro, rst := 0x0, count := 6, stride := 0x8 }
def pm_VMIN : Fld := { blk := .power, off := 0x40, lo := 12, w := 12, acc := .img, rst := 0x226, count := 6, stride := 0x8, rstAt := [(5, 0x2EE)] }
def pm_VMAX : Fld := { blk := .power, off := 0x44, lo := 0, w := 12, acc := .img, rst := 0x3B6, count := 6, stride := 0x8 }
def pm_AVSERR : Fld := { blk := .power, off := 0x44, lo := 12, w := 1, acc := .ro, rst := 0x0, count := 6, stride := 0x8 }
def pm_SUPSTAT : Fld := { blk := .power, off := 0x80, lo := 0, w := 9, acc := .ro, rst := 0x0 }
def pm_WARNCNT : Fld := { blk := .power, off := 0x84, lo := 0, w := 32, acc := .ro, rst := 0x0, count := 9, stride := 0x4 }
def pm_BROWNCNT : Fld := { blk := .power, off := 0xA8, lo := 0, w := 32, acc := .ro, rst := 0x0 }
def pm_SUPLAST : Fld := { blk := .power, off := 0xB0, lo := 0, w := 128, acc := .ro, rst := 0x0 }
def pm_RETLOST : Fld := { blk := .power, off := 0xC0, lo := 0, w := 32, acc := .ro, rst := 0x0 }
def pm_RETLAST : Fld := { blk := .power, off := 0xC4, lo := 0, w := 32, acc := .ro, rst := 0x0 }
def pm_WSEL : Fld := { blk := .power, off := 0x200, lo := 0, w := 2, acc := .rw, rst := 0x0, count := 16, stride := 0x10 }
def pm_WIDX : Fld := { blk := .power, off := 0x200, lo := 2, w := 10, acc := .rw, rst := 0x0, count := 16, stride := 0x10 }
def pm_WREL : Fld := { blk := .power, off := 0x200, lo := 12, w := 1, acc := .rw, rst := 0x0, count := 16, stride := 0x10 }
def pm_WHIT : Fld := { blk := .power, off := 0x200, lo := 13, w := 1, acc := .w1c, rst := 0x0, count := 16, stride := 0x10 }
def pm_WERR : Fld := { blk := .power, off := 0x200, lo := 14, w := 1, acc := .w1c, rst := 0x0, count := 16, stride := 0x10 }
def pm_WLO : Fld := { blk := .power, off := 0x204, lo := 0, w := 32, acc := .rw, rst := 0x80000000, count := 16, stride := 0x10 }
def pm_WHI : Fld := { blk := .power, off := 0x208, lo := 0, w := 32, acc := .rw, rst := 0x7FFFFFFF, count := 16, stride := 0x10 }
def pm_WREF : Fld := { blk := .power, off := 0x20C, lo := 0, w := 32, acc := .ro, rst := 0x0, count := 16, stride := 0x10 }

/-! ### R418: the block of domain d -/

def pd_DCTL_IDLE : Fld := { blk := .domain, off := 0x0, lo := 0, w := 16, acc := .rw, rst := 0x64 }
def pd_DCTL_RETRY : Fld := { blk := .domain, off := 0x0, lo := 16, w := 1, acc := .w1p, rst := 0x0 }
def pd_DSTAT_PSTATE : Fld := { blk := .domain, off := 0x4, lo := 0, w := 2, acc := .ro, rst := 0x0 }
def pd_DSTAT_HELD : Fld := { blk := .domain, off := 0x4, lo := 2, w := 1, acc := .ro, rst := 0x0 }
def pd_DSTAT_LOW : Fld := { blk := .domain, off := 0x4, lo := 3, w := 1, acc := .ro, rst := 0x0 }
def pd_DSTAT_TRIMFAIL : Fld := { blk := .domain, off := 0x4, lo := 4, w := 1, acc := .ro, rst := 0x0 }
def pd_DSTAT_TAP : Fld := { blk := .domain, off := 0x4, lo := 8, w := 4, acc := .ro, rst := 0xF }
def pd_DSTAT_TAP0 : Fld := { blk := .domain, off := 0x4, lo := 12, w := 4, acc := .ro, rst := 0x0 }
def pd_CEILK : Fld := { blk := .domain, off := 0x8, lo := 0, w := 16, acc := .img, rst := 0x190 }
def pd_CEILO : Fld := { blk := .domain, off := 0x8, lo := 16, w := 16, acc := .img, rst := 0x1F4 }
def pd_TPREDK : Fld := { blk := .domain, off := 0xC, lo := 0, w := 16, acc := .ro, rst := 0x0 }
def pd_TPREDO : Fld := { blk := .domain, off := 0xC, lo := 16, w := 16, acc := .ro, rst := 0x0 }
def pd_SLACK : Fld := { blk := .domain, off := 0x10, lo := 0, w := 16, acc := .ro, rst := 0x0 }
def pd_AGEIDX : Fld := { blk := .domain, off := 0x10, lo := 16, w := 16, acc := .ro, rst := 0x0 }
def pd_WAKES : Fld := { blk := .domain, off := 0x14, lo := 0, w := 32, acc := .ro, rst := 0x0 }
def pd_GATES : Fld := { blk := .domain, off := 0x18, lo := 0, w := 32, acc := .ro, rst := 0x0 }

/-! ### R424: the kid-control block of kid k -/

def kc_KCTL_RUN : Fld := { blk := .kidCtl, off := 0x0, lo := 0, w := 1, acc := .w1p, rst := 0x0 }
def kc_KCTL_HALT : Fld := { blk := .kidCtl, off := 0x0, lo := 1, w := 1, acc := .w1p, rst := 0x0 }
def kc_KCTL_RESET : Fld := { blk := .kidCtl, off := 0x0, lo := 2, w := 1, acc := .w1p, rst := 0x0 }
def kc_KCTL_STEP : Fld := { blk := .kidCtl, off := 0x0, lo := 3, w := 1, acc := .w1p, rst := 0x0 }
def kc_KCTL_RSTHOLD : Fld := { blk := .kidCtl, off := 0x0, lo := 4, w := 1, acc := .rw, rst := 0x1 }
def kc_KSTAT_STATE : Fld := { blk := .kidCtl, off := 0x1, lo := 0, w := 2, acc := .ro, rst := 0x3 }
def kc_KSTAT_WHY : Fld := { blk := .kidCtl, off := 0x1, lo := 2, w := 2, acc := .ro, rst := 0x0 }
def kc_KCFAULT_RSVW : Fld := { blk := .kidCtl, off := 0x2, lo := 0, w := 1, acc := .w1c, rst := 0x0 }
def kc_KCFAULT_CTLREF : Fld := { blk := .kidCtl, off := 0x2, lo := 1, w := 1, acc := .w1c, rst := 0x0 }
def kc_KRESETS : Fld := { blk := .kidCtl, off := 0x4, lo := 0, w := 32, acc := .ro, rst := 0x0 }

/-! ### R427: the reset control block -/

def rs_RSTCTL_WARM : Fld := { blk := .resetCtl, off := 0x0, lo := 0, w := 1, acc := .w1p, rst := 0x0 }
def rs_RSTCTL_HERDGO : Fld := { blk := .resetCtl, off := 0x0, lo := 1, w := 1, acc := .w1p, rst := 0x0 }
def rs_RSTCTL_DOMGO : Fld := { blk := .resetCtl, off := 0x0, lo := 2, w := 1, acc := .w1p, rst := 0x0 }
def rs_RSTHERD : Fld := { blk := .resetCtl, off := 0x4, lo := 0, w := 9, acc := .rw, rst := 0x0 }
def rs_RSTDOM : Fld := { blk := .resetCtl, off := 0x4, lo := 16, w := 8, acc := .rw, rst := 0x0 }
def rs_LASTRST : Fld := { blk := .resetCtl, off := 0x8, lo := 0, w := 4, acc := .ro, rst := 0x1 }
def rs_LASTRSTT : Fld := { blk := .resetCtl, off := 0x10, lo := 0, w := 64, acc := .ro, rst := 0x0 }
def rs_COLDS : Fld := { blk := .resetCtl, off := 0x18, lo := 0, w := 16, acc := .ro, rst := 0x0 }
def rs_WARMS : Fld := { blk := .resetCtl, off := 0x18, lo := 16, w := 16, acc := .ro, rst := 0x0 }
def rs_RSTFAULT_RSVW : Fld := { blk := .resetCtl, off := 0x1C, lo := 0, w := 1, acc := .w1c, rst := 0x0 }
def rs_RSTFAULT_IMGW : Fld := { blk := .resetCtl, off := 0x1C, lo := 1, w := 1, acc := .w1c, rst := 0x0 }
def rs_RSTFAULT_REFUSED : Fld := { blk := .resetCtl, off := 0x1C, lo := 2, w := 1, acc := .w1c, rst := 0x0 }
def rs_RSTFAULT_BUSYGO : Fld := { blk := .resetCtl, off := 0x1C, lo := 3, w := 1, acc := .w1c, rst := 0x0 }

/-! ### R434: the herd status and fence block -/

def hf_HSTAT_FENCE : Fld := { blk := .herdFence, off := 0x0, lo := 0, w := 2, acc := .ro, rst := 0x0 }
def hf_HSTAT_BISTRUN : Fld := { blk := .herdFence, off := 0x0, lo := 2, w := 1, acc := .ro, rst := 0x0 }
def hf_HCTL_FENCE : Fld := { blk := .herdFence, off := 0x4, lo := 0, w := 1, acc := .w1p, rst := 0x0 }
def hf_HCTL_LIFT : Fld := { blk := .herdFence, off := 0x4, lo := 1, w := 1, acc := .w1p, rst := 0x0 }
def hf_HCTL_BISTGO : Fld := { blk := .herdFence, off := 0x4, lo := 2, w := 1, acc := .w1p, rst := 0x0 }
def hf_BISTRES : Fld := { blk := .herdFence, off := 0x8, lo := 0, w := 3, acc := .ro, rst := 0x0 }
def hf_BISTKIDF : Fld := { blk := .herdFence, off := 0x10, lo := 0, w := 64, acc := .ro, rst := 0x0 }
def hf_BISTMEMF_SHARED : Fld := { blk := .herdFence, off := 0x20, lo := 0, w := 16, acc := .ro, rst := 0x0 }
def hf_BISTMEMF_CACHE : Fld := { blk := .herdFence, off := 0x20, lo := 16, w := 1, acc := .ro, rst := 0x0 }
def hf_BISTMEMF_MBOX : Fld := { blk := .herdFence, off := 0x20, lo := 17, w := 1, acc := .ro, rst := 0x0 }
def hf_BISTMEMF_COEF : Fld := { blk := .herdFence, off := 0x20, lo := 18, w := 1, acc := .ro, rst := 0x0 }
def hf_BISTMEMF_QBUF : Fld := { blk := .herdFence, off := 0x20, lo := 19, w := 1, acc := .ro, rst := 0x0 }
def hf_BISTROW : Fld := { blk := .herdFence, off := 0x24, lo := 0, w := 13, acc := .ro, rst := 0x0 }
def hf_BISTBIT : Fld := { blk := .herdFence, off := 0x24, lo := 13, w := 7, acc := .ro, rst := 0x0 }
def hf_BISTBANK : Fld := { blk := .herdFence, off := 0x24, lo := 20, w := 4, acc := .ro, rst := 0x0 }
def hf_SPAREBAD : Fld := { blk := .herdFence, off := 0x28, lo := 0, w := 2, acc := .ro, rst := 0x0 }
def hf_HFFAULT_RSVW : Fld := { blk := .herdFence, off := 0x30, lo := 0, w := 1, acc := .w1c, rst := 0x0 }
def hf_HFFAULT_IMGW : Fld := { blk := .herdFence, off := 0x30, lo := 1, w := 1, acc := .w1c, rst := 0x0 }
def hf_HFFAULT_BUSYGO : Fld := { blk := .herdFence, off := 0x30, lo := 2, w := 1, acc := .w1c, rst := 0x0 }

/-! ### R440: the test and service block -/

def ts_FENCEP : Fld := { blk := .testService, off := 0x0, lo := 0, w := 64, acc := .rw, rst := 0x0 }
def ts_FENCEC : Fld := { blk := .testService, off := 0x8, lo := 0, w := 8, acc := .rw, rst := 0x0 }
def ts_FENCEL : Fld := { blk := .testService, off := 0x8, lo := 8, w := 12, acc := .rw, rst := 0x0 }
def ts_FPSEL : Fld := { blk := .testService, off := 0x10, lo := 0, w := 8, acc := .rw, rst := 0x0 }
def ts_FPADDR : Fld := { blk := .testService, off := 0x10, lo := 8, w := 10, acc := .rw, rst := 0x0 }
def ts_FPDATA : Fld := { blk := .testService, off := 0x10, lo := 18, w := 12, acc := .rw, rst := 0x0 }
def ts_FPGO : Fld := { blk := .testService, off := 0x10, lo := 30, w := 1, acc := .w1p, rst := 0x0 }
def ts_HBMFSTK : Fld := { blk := .testService, off := 0x18, lo := 0, w := 2, acc := .rw, rst := 0x0 }
def ts_HBMFMASK : Fld := { blk := .testService, off := 0x1C, lo := 0, w := 32, acc := .rw, rst := 0x0 }
def ts_HBMFST : Fld := { blk := .testService, off := 0x20, lo := 0, w := 32, acc := .ro, rst := 0x0 }
def ts_HBMXADDR : Fld := { blk := .testService, off := 0x28, lo := 3, w := 37, acc := .rw, rst := 0x0 }
def ts_HBMXBANK : Fld := { blk := .testService, off := 0x30, lo := 0, w := 32, acc := .ro, rst := 0x0 }
def ts_SUBKID : Fld := { blk := .testService, off := 0x40, lo := 0, w := 15, acc := .rw, rst := 0x0 }
def ts_SUBSPARE : Fld := { blk := .testService, off := 0x40, lo := 15, w := 1, acc := .rw, rst := 0x0 }
def ts_SUBCOPY : Fld := { blk := .testService, off := 0x40, lo := 16, w := 3, acc := .rw, rst := 0x7 }
def ts_SUBGO : Fld := { blk := .testService, off := 0x44, lo := 0, w := 1, acc := .w1p, rst := 0x0 }
def ts_SUBBUSY : Fld := { blk := .testService, off := 0x44, lo := 1, w := 1, acc := .ro, rst := 0x0 }
def ts_SUBRES : Fld := { blk := .testService, off := 0x44, lo := 2, w := 3, acc := .ro, rst := 0x0 }
def ts_PHYSKID : Fld := { blk := .testService, off := 0x48, lo := 0, w := 15, acc := .rw, rst := 0x0 }
def ts_PHYSPOS : Fld := { blk := .testService, off := 0x4C, lo := 0, w := 7, acc := .ro, rst := 0x7F }
def ts_TAPIR : Fld := { blk := .testService, off := 0x50, lo := 0, w := 8, acc := .ro, rst := 0x1 }
def ts_TSTFAULT_RSVW : Fld := { blk := .testService, off := 0x54, lo := 0, w := 1, acc := .w1c, rst := 0x0 }
def ts_TSTFAULT_IMGW : Fld := { blk := .testService, off := 0x54, lo := 1, w := 1, acc := .w1c, rst := 0x0 }
def ts_TSTFAULT_NOTFENCED : Fld := { blk := .testService, off := 0x54, lo := 2, w := 1, acc := .w1c, rst := 0x0 }
def ts_TSTFAULT_TAPREF : Fld := { blk := .testService, off := 0x54, lo := 3, w := 1, acc := .w1c, rst := 0x0 }
def ts_TSTFAULT_BUSYGO : Fld := { blk := .testService, off := 0x54, lo := 4, w := 1, acc := .w1c, rst := 0x0 }

/-- The fields of a block, in the order of its table. -/
def fieldsOf : Blk → List Fld
  | .kidSr =>
    [kd_KMODE_SUP, kd_KMODE_DET, kd_KMODE_DBE, kd_KMODE_INDB, kd_KMODE_INTR, kd_KMODE_TCAP, kd_KMODE_SCLR, kd_KPRIO_LEVEL,
     kd_KCAUSE_CODE, kd_KCAUSE_DEFER, kd_KCAUSE_DB, kd_KSRC_SRC, kd_KEPC_ADDR, kd_KIPC_ADDR, kd_KSELF_KID, kd_KHWIN_BLK,
     kd_KFAULT_RSVW, kd_KFAULT_XWR, kd_KFAULT_WAITNE, kd_KFAULT_DTRAP, kd_KGWINLO_BASE, kd_KGWINHI_NODE, kd_KRPT_COUNT, kd_KRPT_ECOUNT,
     kd_KRPT_ICOUNT, kd_KSTEPC_COUNT, kd_KTIME, kd_KFEAT0_DIEREV, kd_KFEAT1_ISAVER, kd_KFEAT2, kd_KFEAT3]
  | .devfeat =>
    [df_PRODUCT, df_VENDOR, df_DIEREV, df_PKGREV, df_KIDS, df_HERDS, df_FAWNS, df_AXPORTS,
     df_CAMPORTS, df_LINKS, df_TILES, df_HBMGIB, df_HSMKIB, df_ISAVER, df_SPARES, df_UID,
     df_FAULT_RSVW, df_FAULT_IMGW]
  | .icache =>
    [ic_ICCTRL_EN, ic_ICCTRL_INVALL, ic_ICCTRL_CLRCNT, ic_ICINV_WORD, ic_ICHITS_COUNT, ic_ICMISS_COUNT, ic_ICSNOOP_COUNT, ic_ICERR_COUNT,
     ic_ICFAULT_RSVW]
  | .integrity =>
    [mi_MIFAULT_RSVW, mi_MIFAULT_IMGW, mi_MIFAULT_LOGOVF, mi_MIFAULT_BUSYGO, mi_MICTRL_RPTTHR, mi_CECOUNT, mi_UECOUNT, mi_AFCOUNT,
     mi_REJCOUNT, mi_LOGLEVEL, mi_LOSTCOUNT, mi_LOGPOP, mi_CNTCLR, mi_LOGHEAD, mi_CIPBANK, mi_CIPADDR,
     mi_CIPGO, mi_CIPBUSY, mi_CIPRES, mi_FLIPBANK, mi_FLIPADDR, mi_FLIPD, mi_FLIPC, mi_FLIPV,
     mi_FLIPARM, mi_FLIPCAN, mi_FLIPARMED, mi_RPRBANK, mi_RPRADDR, mi_RPRBIT, mi_RPRCOL, mi_RPRGO,
     mi_RPRBUSY, mi_RPRRES, mi_FRUSED]
  | .prodPort =>
    [qp_PUSH, qp_PFREE, qp_PREM, qp_HBYTES, qp_POPEN, qp_BADST, qp_LOCKED, qp_NEXTSEQ]
  | .consPort =>
    [qc_HDR, qc_POS, qc_ARR, qc_SKIP, qc_DONE, qc_MARK, qc_MARKCLR, qc_REWIND,
     qc_HEADY, qc_WHOLE, qc_POISON, qc_PAD, qc_BROKEN, qc_MARKV, qc_MARKLOST, qc_RWFAIL,
     qc_ABOVEHI, qc_BELOWLO, qc_LEVEL, qc_HELD, qc_WIN]
  | .epConfig =>
    [qx_ROLE, qx_OWNER, qx_PEERNODE, qx_PEEREP, qx_ENGINE, qx_EPFAULT_RSVW, qx_EPFAULT_IMGW, qx_EPFAULT_BADLEN,
     qx_EPFAULT_NOTOWNER, qx_EPFAULT_EMPTYDONE, qx_RINGBASE, qx_RINGLOG2, qx_MPOL, qx_CUT, qx_STALLTO, qx_HIWM,
     qx_LOWM, qx_NOTE_HIGH, qx_NOTE_LOW, qx_NOTE_STALL, qx_NOTE_OPENSTALL, qx_NOTE_BRKN, qx_NOTE_LOSTM, qx_CCTL_QRESET,
     qx_PCTL_RESYNC, qx_CCTL_CLRPEAK, qx_CLAUSES, qx_WAITS, qx_PEAK, qx_EPDB_SRC, qx_EPDB_HERD, qx_EPDB_MAPPED]
  | .hdc =>
    [hd_PEND, hd_MASK, hd_ACTIVE, hd_ARRC, hd_RING, hd_CMPL, hd_LASTCLAIM_SRC, hd_LASTCLAIM_KID,
     hd_LASTCLAIM_V, hd_CLAIMS, hd_SPURCMP, hd_LATEMASK, hd_HDCCTL_CNTCLR, hd_HDCFAULT_RSVW, hd_HDCFAULT_DEVRING, hd_HDCFAULT_IMGW,
     hd_OXDB_SRC, hd_OXDB_MAPPED]
  | .bridges =>
    [br_SOURCE, br_HERD, br_POL, br_MAPPED, br_LEVEL, br_WAITING, br_REARM, br_RESENDS,
     br_BFAULT_RSVW, br_BFAULT_IMGW]
  | .oryxSlot =>
    [ox_STAT_PENDING, ox_STAT_BUSY, ox_STAT_VALID, ox_STAT_ERR, ox_STAT_SATF, ox_STAT_INV, ox_STAT_OVF, ox_STAT_DOM,
     ox_STAT_RNG, ox_STAT_AWU, ox_STAT_TAG, ox_WAIT, ox_DONES, ox_ERRS, ox_OXENG_LEVEL, ox_OXENG_RUN,
     ox_OXFAULT_RSVW, ox_OXFAULT_UECC]
  | .axisPort =>
    [ax_PSTATE, ax_CHIPS, ax_PCTL_START, ax_PCTL_STOP, ax_PCTL_RUN, ax_PCTL_FAWNRUN, ax_PCFG_RATE, ax_PCFG_SVC1M,
     ax_PCFG_LEAD, ax_PCFG_CMDLEAD, ax_PCFG_EXPCHIPS, ax_PCFG_CMDLATE, ax_CYCPHASE, ax_PSAMP, ax_RTT, ax_CYCLES,
     ax_CRCERR, ax_FBMISS, ax_UNDERRUN, ax_ALIGNLOSS, ax_SVCREQ_CHIP, ax_SVCREQ_OP, ax_SVCREQ_REG, ax_SVCWDATA,
     ax_SVCGO, ax_SVCBUSY, ax_SVCRES, ax_SVCRDATA, ax_EVCOUNT, ax_EVLAST, ax_PFAWN_RXCAUSE, ax_PFAWN_RXADDR,
     ax_PFAWN_TXCAUSE, ax_PFAWN_TXADDR, ax_PFAULT_RSVW, ax_PFAULT_IMGW, ax_PFAULT_CHIPMIS, ax_PFAULT_CHAINBRK, ax_PFAULT_ALIGN, ax_PFAULT_BUSYGO,
     ax_PFAULT_CTLREF, ax_PDB_SRC, ax_PDB_HERD, ax_PDB_MAPPED, ax_TSLOT, ax_TMODE, ax_TDIR, ax_TWIDTH,
     ax_TARM, ax_TARMED, ax_TPOS, ax_TINT, ax_TCNT, ax_TTIME, ax_TCAM, ax_TLINK,
     ax_EXPID, ax_CHIPSLOTS]
  | .guard =>
    [gg_GFAULT_RSVW, gg_GFAULT_IMGW, gg_GFAULT_LOGOVF, gg_GFAULT_ENAREF, gg_GFAULT_UECC, gg_GCTL_LOGPOP, gg_GCTL_CNTCLR, gg_NRWREF,
     gg_REFUSED, gg_SUBS, gg_DISCARDS, gg_LOGLEVEL, gg_LOSTCOUNT, gg_LOGHEAD, gg_BRCLASS, gg_BRACTIVE,
     gg_BRSEEN, gg_ENAST, gg_ENAREL, gg_ENADROP]
  | .envelope =>
    [ge_PMIN, ge_PMAX, ge_VMAX, ge_AMAX, ge_JMAX, ge_FFMAX, ge_STALE, ge_MISSMAX,
     ge_DEC, ge_ASSIGNED, ge_CLSENV, ge_CLSSTALE, ge_STOPGRP, ge_ENADLY, ge_CMDEP, ge_SUPHERD,
     ge_ACTL_STOPR, ge_ACTL_STOPD, ge_ACTL_RELEASE]
  | .axisState =>
    [gs_ASTATE, gs_SEEDED, gs_STOPKIND, gs_STOPCLS, gs_RELREF, gs_LATE, gs_P1, gs_V,
     gs_STOPP, gs_MISSRUN, gs_LASTCSEQ, gs_ACCEPTS, gs_AREFUSED]
  | .constraint =>
    [gc_CVALID, gc_CCLASS, gc_HOME, gc_AX, gc_C, gc_VIOLS, gc_DMIN]
  | .camera =>
    [cm_CSTATE, cm_CCTL_START, cm_CCTL_STOP, cm_CCTL_FAWNRUN, cm_CCTL_CNTCLR, cm_CCFG_LANES, cm_CCFG_VC, cm_POSEEP,
     cm_ROIX, cm_ROIY, cm_ROIW, cm_ROIH, cm_EDGETHR, cm_TMPLSEL, cm_MODE, cm_MATCHRAD,
     cm_MATCHANG, cm_MINSCORE, cm_FSWIN, cm_NOMX, cm_NOMY, cm_FRAMES, cm_POSES, cm_DROPPED,
     cm_PKTERR, cm_OTHERPKT, cm_EDGEOVF, cm_EDGELATE, cm_CFAWN_SUCAUSE, cm_CFAWN_SUADDR, cm_CFAWN_STCAUSE, cm_CFAWN_STADDR,
     cm_CFAULT_RSVW, cm_CFAULT_IMGW, cm_CFAULT_NOCLK, cm_CFAULT_DESKEW, cm_CFAULT_UECC, cm_CDB_SRC, cm_CDB_HERD, cm_CDB_MAPPED,
     cm_TMPLHDR_NFEAT]
  | .timebase =>
    [tb_TBNOW, tb_TBCTL_CAP, tb_TBCTL_SET, tb_TBCAPT, tb_TBSETV, tb_TBSTAT_LOCK, tb_TBSTAT_SYNC, tb_TBSTAT_HOLD,
     tb_TBSTAT_HOPS, tb_TBFAULT_RSVW, tb_TBFAULT_IMGW, tb_TBFAULT_UNLOCK, tb_TBFAULT_NORESP, tb_TBFAULT_OFFLIM, tb_TBFAULT_LOOP, tb_TBFAULT_SETREF,
     tb_TBSRC, tb_TXINT, tb_LOCKTHR, tb_OFFSET, tb_DELAY, tb_EXCH, tb_ASYM, tb_ALMT,
     tb_ALMPER, tb_ALM_SRC, tb_ALM_HERD, tb_ALM_EN, tb_ALM_FIRED, tb_ALM_MAPPED, tb_ALM_MISSED]
  | .link =>
    [lk_LSTATE, lk_TPHASE, lk_LANELOCK, lk_LANEINV, lk_LCTL_START, lk_LCTL_STOP, lk_LCTL_RESET, lk_LCTL_FAWNRUN,
     lk_LCTL_CNTCLR, lk_LCFG_EN, lk_LCFG_AUTO, lk_LCFG_PEERCHK, lk_EXPPEER, lk_EXPLINK, lk_PEERNODE, lk_PEERLINK,
     lk_RETRYMAX, lk_FLITSTX, lk_FLITSRX, lk_RETRIES, lk_FECCORR, lk_FECUNC, lk_CRCERR, lk_RETRAINS,
     lk_CRED_REQ, lk_CRED_RSP, lk_UNACK, lk_LFAWN_RXCAUSE, lk_LFAWN_RXADDR, lk_LFAWN_TXCAUSE, lk_LFAWN_TXADDR, lk_LFAULT_RSVW,
     lk_LFAULT_IMGW, lk_LFAULT_TRAINTO, lk_LFAULT_PEERMIS, lk_LFAULT_LANESWAP, lk_LFAULT_MKLOST, lk_LFAULT_RETRY, lk_LFAULT_PROTO, lk_LFAULT_RESEQ,
     lk_LFAULT_STALL, lk_LFAULT_UECC]
  | .routing =>
    [rt_RNODE, rt_RPLEN, rt_RLINK, rt_RVALID, rt_NODEID, rt_DEFLINK, rt_CMPTO, rt_LSTALLTO,
     rt_NOROUTE, rt_HOPDROP, rt_TIMEOUTS, rt_LATECMP, rt_BADQ, rt_RLOGLEVEL, rt_RLOST, rt_RCTL_LOGPOP,
     rt_RCTL_CNTCLR, rt_RFAULT_RSVW, rt_RFAULT_IMGW, rt_RFAULT_LOGOVF, rt_RLOGHEAD]
  | .hostBoot =>
    [hb_BOOTSTAT_PHASE, hb_BOOTSTAT_CODE, hb_BOOTSTAT_SRC, hb_BOOTSTAT_SLOT, hb_BOOTSTAT_SEL, hb_BOOTCTL_GO, hb_HIMGLEN, hb_BOOTTIME,
     hb_HERRCNT, hb_HTOCNT, hb_HRDTO, hb_HERRLAST, hb_HOSTRING, hb_HFAULT_RSVW, hb_HFAULT_IMGW, hb_HFAULT_BUSYGO,
     hb_HFAULT_APINV, hb_HFAULT_RSVV, hb_APBASE, hb_APNODE, hb_APVALID, hb_MSIXADDR, hb_MSIXDATA, hb_MSIXMASK,
     hb_MSIXPBA]
  | .lifecycle =>
    [lc_FCFG_RINGHERD, lc_FCFG_RINGEN, lc_FCFG_HOSTEN, lc_LCSTATE, lc_LCPEND, lc_RETURNS, lc_SLOTS, lc_REVOKED,
     lc_SVN, lc_IMGSLOT, lc_IMGHASH, lc_VDETAIL_REASON, lc_VDETAIL_SECTION, lc_FAULTHERD, lc_DBGLEVEL, lc_LCOP,
     lc_LCGO, lc_LCBUSY, lc_LCRES, lc_LCFAULT_RSVW, lc_LCFAULT_IMGW, lc_LCFAULT_BUSYGO, lc_PROVGO, lc_DBGNONCE,
     lc_NONCE, lc_VKEYHASH, lc_WBASE, lc_WLEN, lc_REQBUF, lc_REPORT, lc_DEVKEY]
  | .power =>
    [pm_PMFAULT_RSVW, pm_PMFAULT_IMGW, pm_PMFAULT_BUSYGO, pm_PMCTL_REQ, pm_PMCTL_GO, pm_PMSTAT_STATE, pm_PMSTAT_BUSY, pm_PMSTAT_RES,
     pm_PMSTAT_LASTFAIL, pm_MPERIOD, pm_GBAND, pm_HYST, pm_SLACKMIN, pm_SLACKHYS, pm_VSTEP, pm_VSETTLE,
     pm_VWDUR, pm_DOZEIDLE, pm_WAKETO, pm_WPERIOD, pm_WAKEMAP_SRC, pm_WAKEMAP_HERD, pm_WAKEMAP_MAPPED, pm_DEEPWAKE,
     pm_MNOTE_LOW, pm_MNOTE_REPLAN, pm_MNOTE_TRIMFAIL, pm_MNOTE_AVSERR, pm_MNOTE_RETLOST, pm_MNOTE_THERM, pm_TWARN, pm_TEMP,
     pm_VSET, pm_VMIN, pm_VMAX, pm_AVSERR, pm_SUPSTAT, pm_WARNCNT, pm_BROWNCNT, pm_SUPLAST,
     pm_RETLOST, pm_RETLAST, pm_WSEL, pm_WIDX, pm_WREL, pm_WHIT, pm_WERR, pm_WLO,
     pm_WHI, pm_WREF]
  | .domain =>
    [pd_DCTL_IDLE, pd_DCTL_RETRY, pd_DSTAT_PSTATE, pd_DSTAT_HELD, pd_DSTAT_LOW, pd_DSTAT_TRIMFAIL, pd_DSTAT_TAP, pd_DSTAT_TAP0,
     pd_CEILK, pd_CEILO, pd_TPREDK, pd_TPREDO, pd_SLACK, pd_AGEIDX, pd_WAKES, pd_GATES]
  | .kidCtl =>
    [kc_KCTL_RUN, kc_KCTL_HALT, kc_KCTL_RESET, kc_KCTL_STEP, kc_KCTL_RSTHOLD, kc_KSTAT_STATE, kc_KSTAT_WHY, kc_KCFAULT_RSVW,
     kc_KCFAULT_CTLREF, kc_KRESETS]
  | .resetCtl =>
    [rs_RSTCTL_WARM, rs_RSTCTL_HERDGO, rs_RSTCTL_DOMGO, rs_RSTHERD, rs_RSTDOM, rs_LASTRST, rs_LASTRSTT, rs_COLDS,
     rs_WARMS, rs_RSTFAULT_RSVW, rs_RSTFAULT_IMGW, rs_RSTFAULT_REFUSED, rs_RSTFAULT_BUSYGO]
  | .herdFence =>
    [hf_HSTAT_FENCE, hf_HSTAT_BISTRUN, hf_HCTL_FENCE, hf_HCTL_LIFT, hf_HCTL_BISTGO, hf_BISTRES, hf_BISTKIDF, hf_BISTMEMF_SHARED,
     hf_BISTMEMF_CACHE, hf_BISTMEMF_MBOX, hf_BISTMEMF_COEF, hf_BISTMEMF_QBUF, hf_BISTROW, hf_BISTBIT, hf_BISTBANK, hf_SPAREBAD,
     hf_HFFAULT_RSVW, hf_HFFAULT_IMGW, hf_HFFAULT_BUSYGO]
  | .testService =>
    [ts_FENCEP, ts_FENCEC, ts_FENCEL, ts_FPSEL, ts_FPADDR, ts_FPDATA, ts_FPGO, ts_HBMFSTK,
     ts_HBMFMASK, ts_HBMFST, ts_HBMXADDR, ts_HBMXBANK, ts_SUBKID, ts_SUBSPARE, ts_SUBCOPY, ts_SUBGO,
     ts_SUBBUSY, ts_SUBRES, ts_PHYSKID, ts_PHYSPOS, ts_TAPIR, ts_TSTFAULT_RSVW, ts_TSTFAULT_IMGW, ts_TSTFAULT_NOTFENCED,
     ts_TSTFAULT_TAPREF, ts_TSTFAULT_BUSYGO]

end Sys2Proof.Machine
end

