-- ==== Sys2Proof/Syntax.lean ====
section
/-!
DEFINITION. The commands of the block: one constructor of Instr for each row of the opcode table.
A command is one whole and indivisible step of the part: an instruction that a kid or a fawn executes, a
write that reaches a register with a row of its own, an event on a pin or a line, or the end of something
an engine does. What the world outside supplies with an event (a frame, a measurement) is its operand.
-/

namespace Sys2Proof

/-- Who executes a class-0b00 instruction: a kid or a fawn (R93). -/
inductive Who where
  | kid (k : KidId)
  | fawn (f : FawnId)
deriving DecidableEq, Repr

/-- The short or the long form of an encoding (R93, R98). -/
inductive Form where
  | short
  | long
deriving DecidableEq, Repr

/-- The operand of REP (R109). -/
inductive RepArg where
  | imm (c8 : Byte)
  | reg (b : Fin 16)
deriving DecidableEq, Repr

/-- The access sizes of R29. -/
inductive Size where
  | b1 | b2 | b4 | b8
deriving DecidableEq, Repr

/-- Bytes of an access. -/
def Size.bytes : Size → Nat
  | .b1 => 1 | .b2 => 2 | .b4 => 4 | .b8 => 8

/-- The agent of an access (R32 to R34, R174).
A link request carries the requester's SUP (R33, R347). `image` is APPLY, `tap` is TESTREG (R444). -/
inductive Agent where
  | kid (k : KidId)
  | fawn (f : FawnId)
  | host
  | link (l : LinkId) (sup : Bool)
  | engine
  | image
  | tap
deriving DecidableEq, Repr

/-- Whether an agent is a kid. -/
def Agent.isKid : Agent → Bool
  | .kid _ => true
  | _ => false

/-- One canary measurement of a domain (R412): the least slack is taken over `slack`, in ps. -/
structure Meas where
  dom   : DomId
  slack : List Int
  step  : Nat
  ostep : Nat
  age   : Nat
deriving DecidableEq, Repr

/-- What a chip answered in the automatic sequence of CONFIG (R273). -/
inductive ChipAns where
  | eid (v : BitVec 32)
  | refused
  | timeout
deriving DecidableEq, Repr

/-- What one watched port gave in a sample pass (R408): the feedback slots, or a failure. -/
structure WatchSample where
  port : PortId
  good : Bool
  fb   : List (BitVec 64)
deriving DecidableEq, Repr

/-- How a lifecycle operation that the silicon times ended is seen in the events; a wake-up's failing banks (R407). -/
abbrev BankId := BitVec 32

/-- The commands, in the order of the opcode table. -/
inductive Instr where
  -- Kid and fawn instructions (R95 to R114)
  | nop (c : Who) | wait (c : Who) | fence (c : Who)
  | not (c : Who) (fm : Form) (d : Fin 16)
  | jr (c : Who) (s : Fin 8) | jalr (c : Who) (s : Fin 8)
  | addw (c : Who) (fm : Form) (d s : Fin 8) | subw (c : Who) (fm : Form) (d s : Fin 8)
  | movw (c : Who) (fm : Form) (d s : Fin 8)
  | addiB (c : Who) (fm : Form) (d : Fin 16) (imm : BitVec 4)
  | addiW (c : Who) (fm : Form) (d : Fin 8) (imm : BitVec 4)
  | jal (c : Who) (off : BitVec 8)
  | jalTwoWord (k : KidId) (link : Bool) (t : BitVec 15)
  | beqz (c : Who) (fm : Form) (a : Fin 16) (off : BitVec 5)
  | bnez (c : Who) (fm : Form) (a : Fin 16) (off : BitVec 5)
  | mov (c : Who) (fm : Form) (d s : Fin 16)
  | movi (c : Who) (d : Fin 8) (imm : Byte)
  | add (c : Who) (fm : Form) (d s : Fin 16) | sub (c : Who) (fm : Form) (d s : Fin 16)
  | and (c : Who) (fm : Form) (d s : Fin 16) | or (c : Who) (fm : Form) (d s : Fin 16)
  | xor (c : Who) (fm : Form) (d s : Fin 16) | cry (c : Who) (fm : Form) (d s : Fin 16)
  | brw (c : Who) (fm : Form) (d s : Fin 16)
  | shl (c : Who) (fm : Form) (d : Fin 16) (n : Fin 8) | shr (c : Who) (fm : Form) (d : Fin 16) (n : Fin 8)
  | sar (c : Who) (fm : Form) (d : Fin 16) (n : Fin 8) | rol (c : Who) (fm : Form) (d : Fin 16) (n : Fin 8)
  | ld (c : Who) (fm : Form) (d : Fin 16) (wa : Fin 8) | st (c : Who) (fm : Form) (s : Fin 16) (wa : Fin 8)
  | ldw (c : Who) (d wa : Fin 8) | stw (c : Who) (s wa : Fin 8)
  | beq (k : KidId) (a b : Fin 8) (off : BitVec 4) | bne (k : KidId) (a b : Fin 8) (off : BitVec 4)
  | blt (k : KidId) (a b : Fin 8) (off : BitVec 4) | bge (k : KidId) (a b : Fin 8) (off : BitVec 4)
  | bltu (k : KidId) (a b : Fin 8) (off : BitVec 4) | bgeu (k : KidId) (a b : Fin 8) (off : BitVec 4)
  | mfs (k : KidId) (d : Fin 8) (sr : BitVec 6) | mts (k : KidId) (sr : BitVec 6) (s : Fin 8)
  | mul (k : KidId) (d : Fin 8) (s : Fin 16) | div (k : KidId) (d : Fin 8) (s : Fin 16)
  | rep (k : KidId) (arg : RepArg)
  | pml (k : KidId) (d wa : Fin 8) | pmw (k : KidId) (s wa : Fin 8)
  | synci (k : KidId) | reti (k : KidId) | trap (k : KidId)
  | reservedEncoding (c : Who)
  -- What comes about in a kid between instructions
  | deferredTrap (k : KidId) | doorbellEntry (k : KidId) | kmodeWrite (k : KidId)
  | tcap (k : KidId) | sclr (k : KidId) | storeBufferDrain (k : KidId)
  | lineFill (h : HerdId) (line : Fin 4096)
  | iccInvall (h : HerdId) | iccClrcnt (h : HerdId) | icinv (h : HerdId) (w : BitVec 15)
  | registerWrite (ag : Agent) (a : Addr) (sz : Size) (v : BitVec 64)
  -- Memory integrity (R163 to R182)
  | mergeCommit (w : Nat)
  | cipgo | correctInPlace | fliparm | flipcan | logpop | cntclr | rprgo | hppr
  -- Queues (R183 to R211)
  | push (ag : Agent) (e : EpId) (off : Fin 8) (sz : Size) (v : BitVec 64)
  | reservation (e : EpId) | routeBytes (e : EpId) (n : Nat) | refill (e : EpId)
  | hdr (c : Who) | win (c : Who)
  | skip (e : EpId) (v : BitVec 11) | done (e : EpId) | mark (e : EpId) | markclr (e : EpId) | rewind (e : EpId)
  | demand (e : EpId) | storageReturn (e : EpId) | qreset (e : EpId) | resync (e : EpId) | clrpeak (e : EpId)
  | stall (e : EpId) | openstall (e : EpId)
  -- Doorbells (R212 to R228)
  | ring (h : HerdId) (src : Byte) | cmpl (h : HerdId) (src : Byte)
  | pend (h : HerdId) (i : Fin 32) (v : Byte) | mask (h : HerdId) (i : Fin 32) (v : Byte)
  | claimPoint (h : HerdId) | hdcctlCntclr (h : HerdId)
  | levelAssert (i : Fin 16) | levelNegate (i : Fin 16) | rearm (i : Fin 16)
  -- Oryx (R229 to R249)
  | post (ag : Agent) (h : HerdId) (j : Fin 64) (off : Fin 16) (sz : Size) (v : BitVec 64)
  | capture (h : HerdId) | slotWait (c : Who)
  | oryxNop (h : HerdId) | seg (h : HerdId) | xf2 (h : HerdId) | xf3 (h : HerdId) | ss (h : HerdId) | pid (h : HerdId)
  | cordicCosSin (h : HerdId) | cordicAtan2 (h : HerdId) | matmul (h : HerdId) | interp (h : HerdId)
  | vecAdd (h : HerdId) | vecSub (h : HerdId) | vecMul (h : HerdId) | axpy (h : HerdId) | dot (h : HerdId)
  | put (h : HerdId) | get (h : HerdId)
  -- Axis ports (R250 to R281)
  | pctlStart (p : PortId) | pctlStop (p : PortId) | pctlRun (p : PortId) | pctlFawnrun (p : PortId)
  | align (p : PortId) (line : List (BitVec 10)) | alignTimeout (p : PortId)
  | enumr (p : PortId) (line : List (BitVec 10)) (rtt : BitVec 32) | enumrTimeout (p : PortId)
  | configSequence (p : PortId) (ans : List ChipAns)
  | sync (p : PortId) | cmd (p : PortId) | fetchPoint (p : PortId) (i : Fin 16)
  | fb (p : PortId) (line : List (BitVec 10))
  | triggerEdge (p : PortId) (t : Fin 2) | tarm (p : PortId) (t : Fin 2)
  | svcgo (p : PortId) | alignloss (p : PortId) (line : List (BitVec 10))
  -- Antler guard (R282 to R311)
  | commandClause (e : EpId) | check (a : AxisId) | groupStop (tile : Fin 4) | enadly (p : PortId)
  | enarel (m : BitVec 64) | enadrop (m : BitVec 64)
  | stopr (a : AxisId) | stopd (a : AxisId) | release (a : AxisId)
  | nrwWrite (ag : Agent) (a : Addr) (sz : Size) (v : BitVec 64)
  | gctlLogpop | gctlCntclr
  -- Sighting (R312 to R325)
  | cctlStart (c : CamId) | cctlStop (c : CamId) | cctlFawnrun (c : CamId) | cctlCntclr (c : CamId)
  | frameStart (c : CamId) (pkt : BitVec 32)
  | longPacket (c : CamId) (pkt : List Byte)
  | frameEnd (c : CamId) (pkt : BitVec 32) | fit (c : CamId) | noclk (c : CamId) | deskew (c : CamId)
  -- Timebase (R326 to R336)
  | tbctlCap | tbctlSet | exchange | noresp | slew (up : Bool) | unlock
  | alarm (i : Fin 8) | almt (i : Fin 8) (v : BitVec 64) | almEn (i : Fin 8)
  -- Jalari links (R337 to R361)
  | lctlStart (l : LinkId) | lctlStop (l : LinkId) | lctlReset (l : LinkId) | lctlFawnrun (l : LinkId) | lctlCntclr (l : LinkId)
  | trainingFrame (l : LinkId) (lane : Fin 4) (frame : BitVec 1360)
  | trainto (l : LinkId) | auto (l : LinkId)
  | codeword (l : LinkId) (lanes : List (List (BitVec 2)))
  | read (l : Option LinkId) | write (l : Option LinkId) | atomic (l : Option LinkId) | doorbell (l : Option LinkId)
  | clause (l : Option LinkId) | qret (l : Option LinkId)
  | rdcmp (l : Option LinkId) | wrcmp (l : Option LinkId)
  | timereq (l : LinkId) | timersp (l : LinkId)
  | timeout (tag : BitVec 12) | linkStall (l : LinkId) | rctlLogpop | rctlCntclr
  -- Host and boot (R362 to R375)
  | barRead (bar2 : Bool) (off : BitVec 32) (n : BitVec 13) | barWrite (bar2 : Bool) (off : BitVec 32) (data : List Byte)
  | hrdto | hostring (v : BitVec 6) | perstN (high : Bool)
  | powerOnReset | resetN (high : Bool) | powerGood (i : Fin 10) (up : Bool) | pllLock | pllLockFail
  | wipe | fetch (slotB : Bool) (locator : List Byte) (image : List Byte) | dataStrobeTimeout | bootctlGo | verify | apply
  -- Lifecycle (R387 to R398)
  | claim | advance | revoke | debug | attest | provgo
  -- Power (R399 to R419)
  | reqRun | reqDoze | reqWatch | reqDeep
  | gate (d : DomId) | wakeUp (d : DomId) (bad : List BankId) (m : Meas)
  | samplePass (temps : List (BitVec 16)) (pins : BitVec 16) (ports : List WatchSample)
  | deepwake (src : Option (Fin 16)) | waketo (i : Fin 10)
  | supplyWarning (m : Fin 9) | warningEnds (m : Fin 9) (low : Byte) (dur : BitVec 24) | tapsReturn (m : Fin 9) (ms : List Meas)
  | brownStop (m : Fin 9) | vrst (m : Fin 9) | twarn (t : Fin 4) (temp : BitVec 16) | thermtripN
  | marginLoop (ms : List Meas) | avsRetry (port : Fin 4) (ok : Bool) | retry (d : DomId) (m : Meas)
  -- Resets (R420 to R428)
  | warm (byKid : Bool) | herdgo | herdResetEnds (h : HerdId) | domgo | domainResetEnds (d : DomId)
  | kctlRun (k : KidId) | kctlHalt (k : KidId) | kctlReset (k : KidId) | kctlStep (k : KidId)
  | kctlRsthold (k : KidId) (v : Bool) | kidResetEnds (k : KidId)
  -- Test and service (R429 to R444)
  | hctlFence (h : HerdId) | fenced (h : HerdId) | hctlLift (h : HerdId) | hctlBistgo (h : HerdId)
  | selfTest (h : HerdId) (kidf : BitVec 64) (memf : BitVec 20) (row : BitVec 24) (spareFail : BitVec 2)
  | subgo | substitution
  | fencep (m : BitVec 64) | fencec (m : BitVec 8) | fencel (m : BitVec 12) | fpgo
  | hbmfmask (m : BitVec 32) | hbmDrain (stack : Fin 4) (pc : Fin 32) | hbmxaddr (a : BitVec 37)
  | extest (cells : List Bool) | idcode | samplePreload (cells : List Bool) | extestPulse (cells : List Bool)
  | extestTrain (cells : List Bool) | testreg (v : BitVec 108) | hbm1500 | bypass (opcode : Byte)
  | init (bootsel : BitVec 2) | errorCompletion (h : HerdId)
  | thermalWarningEnd (t : Fin 4) (temp : BitVec 16) | trstN | pcieConfigReady
deriving DecidableEq, Repr

end Sys2Proof
end

