-- ==== Sys2Proof/Machine/State.lean ====
section
/-!
DEFINITION. The state of the block as plain data, its reset, and the reasons a command can stop.
Every register of the register tables lives in `regs`, keyed by block, number in the block's family, element and place;
a register that shows something the block holds elsewhere (a level, a log head) is read from there and has no copy.
-/

namespace Sys2Proof.Machine

/-! ### Sparse maps -/

/-- The value at a key. -/
def alGet {κ α : Type} [DecidableEq κ] : List (κ × α) → κ → Option α
  | [], _ => none
  | e :: m, k => if e.1 = k then some e.2 else alGet m k

/-- The map without a key. -/
def alDel {κ α : Type} [DecidableEq κ] (m : List (κ × α)) (k : κ) : List (κ × α) := m.filter (fun e => decide (e.1 ≠ k))

/-- The map with a value at a key. -/
def alSet {κ α : Type} [DecidableEq κ] (m : List (κ × α)) (k : κ) (v : α) : List (κ × α) := (k, v) :: alDel m k

/-- Where a register field lives: block, number in the family, element of a repeated row, offset and low bit. -/
structure RegKey where
  blk  : Blk
  inst : Nat
  elem : Nat
  off  : Nat
  lo   : Nat
deriving DecidableEq, Repr

/-- The key of element `i` of field `F` of block instance `n`. -/
def Fld.key (F : Fld) (n i : Nat) : RegKey := ⟨F.blk, n, i, F.off, F.lo⟩

/-! ### Memory words and integrity (R151 to R182) -/

/-- What a stored code word holds beside its data: the two valid copies (R160) and the syndrome that a read of the
word at its own address computes (R157). A word that is not listed holds `WMeta.blank` of its array. -/
structure WMeta where
  v0   : Bool
  v1   : Bool
  synd : Nat
deriving DecidableEq, Repr

/-- The requester of an array access as the log records it (R174): REQCLASS and REQID. -/
structure Rq where
  cls : Nat
  id  : Nat
deriving DecidableEq, Repr

/-- One entry of a merge buffer (R164): the word, the requester, the bytes gathered so far, and
`off`: the BAR offset of a host request for HERRLAST (R365); of a kid's, 1 once the kid has been reset or halted (R172). -/
structure MergeEnt where
  word : Nat
  rq   : Rq
  got  : List (Nat × Byte)
  off  : Nat
deriving DecidableEq, Repr

/-- One entry of a repeat table (R168); the list of a bank is kept with the entry that rose last at its end. -/
structure RptEnt where
  addr    : Nat
  count   : Nat
  noticed : Bool
deriving DecidableEq, Repr

/-- The armed flip-mask (R177). -/
structure Flip where
  bank : Nat
  addr : Nat
  d    : Nat
  c    : Nat
  v    : Bool
deriving DecidableEq, Repr

/-- A field-repair entry or an SRAM spare recorded (R179). -/
structure Repair where
  bank : Nat
  addr : Nat
  bitp : Nat
  col  : Bool
deriving DecidableEq, Repr

/-! ### Kids and fawns -/

/-- A global address (R30): `here` says that its node is NODEID, so that no link is needed (R31). -/
structure GAddr where
  here : Bool
  node : Nat
  a    : Nat
deriving DecidableEq, Repr

/-- One store-buffer entry (R134); `tag` is the request a remote drain has sent. -/
structure StoreEnt where
  ga   : GAddr
  n    : Nat
  v    : Nat
  sup  : Bool
  tag  : Option Nat
deriving DecidableEq, Repr

/-- Where a load writes. -/
inductive Dst where
  | byte (r : Fin 16)
  | pair (w : Fin 8)
deriving DecidableEq, Repr

/-- The handshake that a kid or a fawn waits on (R145 cases 5 and 6); `drain` is that of the store buffer (R137), `fill` that of
the cache line that holds word `w`. -/
inductive Wait where
  | load (d : Dst) (a : Word16)
  | store (v n : Nat) (a : Word16)
  | fill (w : Nat)
  | remote (tag : Nat) (d : Dst)
  | drain
  | event
deriving DecidableEq, Repr

/-- A word in the prefetch queue (R115, R119): its address, the word (none where it is uncorrectable), whether it was fetched
directly from the herd program store and its steps are still to count (R132), and the target that fetch has followed behind it
(R131). -/
structure QWord where
  a      : Word16
  w      : Option PWord
  direct : Bool
  hit    : Option Word16
deriving DecidableEq, Repr

/-- A pair whose slot 0 has issued (R126 to R129): the address of slot 0, what a withdrawal of the whole pair restores (R145
case 5: registers, pending KMODE writes, step counter and the queue's word), and whether slot 1 has issued too and waits. -/
structure Slot0 where
  pc     : Word16
  before : Vector Byte 16
  kpend  : List (Byte × Nat)
  stepc  : BitVec 32
  q      : QWord
  paired : Bool
deriving DecidableEq, Repr

/-- What a kid holds beside its special registers and its kid-control block: registers, program counter, live step counter,
pending KMODE writes with the instructions still to run before each, a claimed delivery and whether it has arrived, deferred
traps, the store buffer, the prefetch queue in fetch order, where fetch goes on, the word whose access waits for a cache line,
the target buffer (latest used first), the handshake it waits
on, whether a repeat is under way, a STEP, a halt that waits with its KSTAT.WHY, whether a wait has ended whose instruction has
not completed (R145 case 6), the pair that has issued in part, the KMODE pulses and the KPRIO that others
have written during its instruction (R88), its physical position where that is a spare's, and when its latest access that can
wait was made. -/
structure Kid where
  b        : Vector Byte 16 := Vector.replicate 16 0
  pc       : Word16 := 0
  stepc    : BitVec 32 := 0
  kpend    : List (Byte × Nat) := []
  deliv    : Option (Byte × Bool) := none
  deferred : List Nat := []
  sbuf     : List StoreEnt := []
  pq       : List QWord := []
  fpc      : Word16 := 0
  fetching : Option Nat := none
  tbuf     : List (Word16 × Word16) := []
  wait     : Option Wait := none
  rep      : Bool := false
  stepping : Bool := false
  haltReq  : Option Nat := none
  must     : Bool := false
  slot0    : Option Slot0 := none
  pulse    : Byte := 0
  prio     : Option Byte := none
  pos      : Option Nat := none
  since    : Time := 0
deriving DecidableEq, Repr

/-- Whether a fawn runs: `off` before its start (R378), `stopped` with a cause (R114), `fenced` with its unit (R437). -/
inductive FawnSt where
  | off | running | stopped | fenced
deriving DecidableEq, Repr

/-- What a fawn holds (R112), with the request area of a link's transmit fawn: the bytes of 0x1000 to 0x101F, the completion
header and data that have come, the tag of the request that is outstanding (R356), and when its latest access was made. -/
structure Fawn where
  b    : Vector Byte 16 := Vector.replicate 16 0
  pc   : BitVec 10 := 0
  st   : FawnSt := .off
  wait : Option Wait := none
  area : List (Nat × Byte) := []
  cmp  : Option (Nat × List Byte) := none
  req  : Option Nat := none
  since : Time := 0
deriving DecidableEq, Repr

/-- An instruction cache line (R121 to R125): way, set, tag. -/
structure ICLine where
  way  : Nat
  line : Nat
deriving DecidableEq, Repr

/-- The instruction cache of a herd: valid lines, the next way of each set, and the fills in progress with whether
each may still be installed. -/
structure ICache where
  lines : List ICLine := []
  next  : List (Nat × Nat) := []
  fills : List (Nat × Bool) := []
deriving DecidableEq, Repr

/-! ### Queues (R183 to R211) -/

/-- Where the answer of an access goes: to nobody but `reply`, to a kid or a fawn that waits, to a BAR read, to the
requester of a link request (the link it came by and its header), to the TAP, or to the store buffer of a kid whose oldest
entry drains. -/
inductive Ret where
  | none
  | kid (k : KidId)
  | fawn (f : FawnId)
  | host (bar2 : Bool) (off id at_ : Nat)
  | link (l : Option LinkId) (h : Nat)
  | tap
  | drain (k : KidId)
deriving DecidableEq, Repr

/-- A PUSH store that waits (R191, R192): its bytes, least significant first, and whether it has found PFREE too small. -/
structure PushReq where
  ag    : Agent
  n     : Nat
  v     : Nat
  ret   : Ret
  short : Bool
deriving DecidableEq, Repr

/-- The producer side of a queue: the header bytes accepted, PREM, the bad-length state, the kid that holds the lock, PFREE,
NEXTSEQ, the stores that wait and a demand on its way. The bytes themselves lie in the tail buffer, an array (R210); this says
whose they are: `cls` are the clauses with bytes there, front first, each with its LEN and whether a reset completed it, `base`
the storage position of the first of them (R184), `out` the bytes of it that have gone on the route, and `padn` the zero bytes
of a clause that a reset completed which have not found room yet (R211 case 1). -/
structure Prod where
  hdr   : List Byte := []
  rem   : Nat := 0
  bad   : Bool := false
  lock  : Option Nat := none
  cls   : List (Nat × Bool) := []
  base  : Nat := 0
  out   : Nat := 0
  padn  : Nat := 0
  pfree : Nat := 0
  seq   : Byte := 0
  waitq : List PushReq := []
  asked : Bool := false
deriving DecidableEq, Repr

/-- A clause at the consumer: its header, its place in the stream of storage bytes, the payload bytes that have arrived,
whether a reset completed it, whether it lost bytes, whether any byte of it was spilled, and when its header arrived. -/
structure Clz where
  hdr     : Nat
  pos     : Nat
  arr     : Nat
  pad     : Bool
  poison  : Bool
  spilled : Bool
  at_     : Time
deriving DecidableEq, Repr

/-- An 8-byte storage word that the head buffer holds: its number in the stream, which of the 32 places of the buffer it has,
and whether the ring holds it too (R198). -/
structure HbWord where
  q8   : Nat
  slot : Nat
  ring : Bool
deriving DecidableEq, Repr

/-- The consumer side of a queue. `ahdr` are the bytes of a header that is arriving (none where lost, R210), `held` the
clauses released behind the mark, `cls` the unreleased ones, head first. Storage bytes are numbered from the start: `apos` is
the next to arrive and `hbEnd` the next that the head buffer takes; what lies between is in the ring. `slots` are the words in
the head buffer, whose bytes are an array's (R210), and `part` the bytes of the word that is arriving.
`drop` bytes of a released clause are still to arrive, and `dropRet` is returned with the last of them (R208). `demand` is the
time from which the outstanding demand is measured (R207). -/
structure Cons where
  ahdr    : List (Option Byte) := []
  cls     : List Clz := []
  held    : List Clz := []
  drop    : Nat := 0
  dropRet : Nat := 0
  apos    : Nat := 0
  hbEnd   : Nat := 0
  slots   : List HbWord := []
  part    : List Byte := []
  pos     : Nat := 0
  mark    : Bool := false
  lost    : Bool := false
  rwfail  : Bool := false
  broken  : Bool := false
  ret     : List Nat := []
  demand  : Option Time := none
  above   : Bool := false
  below   : Bool := false
deriving DecidableEq, Repr

/-! ### Doorbells -/

/-- What an HDC holds beside its block: the rotation pointer (R216), the kid recorded for each active source (R218),
and the messages that wait at the boundary of a held herd (R420). -/
structure Hdc where
  rot  : Nat := 0
  recd : List (Nat × Nat) := []
  msgs : List Byte := []
deriving DecidableEq, Repr

/-! ### Oryx -/

/-- A captured descriptor (R232): slot, DESC, OPND, and whether a captured word was uncorrectable. -/
structure Desc where
  slot : Nat
  d    : Nat
  opnd : List Byte
  ueD  : Bool
  ueO  : Bool
deriving DecidableEq, Repr

/-- A posting write that waits for a free FIFO entry (R233). -/
structure PostReq where
  ag   : Agent
  slot : Nat
  off  : Nat
  n    : Nat
  v    : Nat
  ret  : Ret
deriving DecidableEq, Repr

/-- The engine of a herd: its FIFO, the running descriptor first, and the posting writes that wait. -/
structure Oryx where
  fifo  : List Desc := []
  posts : List PostReq := []
deriving DecidableEq, Repr

/-! ### Axis ports and guard -/

/-- A service transaction (R270): the request as sent, its TAG, the attempts made, and the cycle its answer is due in. -/
structure Svc where
  chip : Nat
  op   : Nat
  reg  : Nat
  data : Nat
  tag  : Byte
  tries : Nat
  due  : Option Nat
deriving DecidableEq, Repr

/-- A compare unit (R276): the previous valid position and the edges that are scheduled. -/
structure Cmp where
  p0    : Option Int := none
  edges : List Time := []
deriving DecidableEq, Repr

/-- How far a CMD frame has come: it is being sent, has been ended with ABORT, or has gone whole (R265, R266). -/
inductive FrameSt where
  | going | aborted | gone
deriving DecidableEq, Repr

/-- The CMD frame of a cycle (R265): the cycle that its H1 names, when its SOF leaves, when the next SYNC falls due, whether the
port fills it itself (CONFIG), the service request that it then carries, its bytes so far, the positions gone, whether it carries
the request of software, and its state. -/
structure TxFrame where
  target : Nat
  sof    : Time
  sync   : Time
  own    : Bool
  svcw   : Nat
  bytes  : List Byte
  sent   : Nat
  carries : Bool
  st     : FrameSt
deriving DecidableEq, Repr

/-- What an axis port holds beside its registers. `tx` names the bytes of the TX buffer written and not yet sent, `rxLen`
the bytes of the latest FB frame, `subs` the slots fetched, each with its value and the bytes of it that the
transmit fawn has read, `gone` the positions
fetched for the frame last opened, `pre` those fetched for the next one. `fbLast` is the latest cycle whose FB frame was good;
`out` is the latest frame that the port has sent, `cut` says that ABORT ended it, and `conf` are the endpoint registers that the
start-up sequence has written: chip, number, value (R273). -/
structure Port where
  seqDone : Bool := false
  runHeld : Bool := false
  svc     : Option Svc := none
  tag     : Byte := 0
  cyc     : Nat := 0
  frame   : Option TxFrame := none
  opened  : Bool := false
  tx      : List Nat := []
  rxLen   : Nat := 0
  rxStat  : Nat := 0
  txUnder : Bool := false
  gone    : List Nat := []
  pre     : List Nat := []
  subs    : List (Nat × Nat × Nat) := []
  fbLast  : Nat := 0
  out     : List Byte := []
  cut     : Bool := false
  conf    : List (Nat × Nat × Nat) := []
  cyct    : Time := 0
  sampt   : Time := 0
  fbend   : Time := 0
  unit0   : Cmp := {}
  unit1   : Cmp := {}
  ena     : Option Nat := none
  still   : Option Nat := none
deriving DecidableEq, Repr

/-- A command as the guard holds it (R283, R287): the slot, BASIS, and the target and stop position it gives. -/
structure Cmd where
  slot  : Nat
  basis : Nat
  p0    : Int
  stop  : Int
deriving DecidableEq, Repr

/-- The limits that a check has read (R302, R311 case 1). -/
structure Limits where
  pmin : Int
  pmax : Int
  vmax : Int
  amax : Int
  jmax : Int
  ffmax : Int
  stale : Nat
  dec  : Nat
  dmin : List (Nat × Int)
deriving DecidableEq, Repr

/-- A check in progress (R293). `late` says that its fetch point has passed, `again` that it is the second check of
R294, `dead` that its axis has stopped since (R284). -/
structure Chk where
  cmd   : Cmd
  lim   : Limits
  late  : Bool
  again : Bool
  dead  : Bool
deriving DecidableEq, Repr

/-- What the guard holds of an axis beside its blocks (R286, R292, R294). -/
structure Axis where
  p1    : Int := 0
  p2    : Int := 0
  p3    : Int := 0
  pst   : Int := 0
  stopp : Int := 0
  chk   : Option Chk := none
  rel   : Option Cmd := none
  run   : Bool := false
deriving DecidableEq, Repr

/-- A group stop on its way to another slice (R298). -/
structure GStop where
  tile : Nat
  grp  : Nat
  kind : Nat
  cls  : Nat
  from_ : Nat
deriving DecidableEq, Repr

/-! ### Sighting -/

/-- The registers marked "next frame" as the frame has them (R325 case 3). -/
structure CamRegs where
  roix : Nat
  roiy : Nat
  roiw : Nat
  roih : Nat
  edgethr : Nat
  tmpl : Nat
  mode : Nat
  rad  : Nat
  ang  : Nat
  minscore : Nat
  nomx : Nat
  nomy : Nat
deriving DecidableEq, Repr

/-- A frame in one of the two edge lists: its time and flags, the next line, the lines of its ROI that have arrived (a
missing line is `none`), and whether its last ROI line or its end has come. -/
structure Frame where
  r     : CamRegs
  time  : Time
  trig  : Bool
  num   : Nat
  y     : Nat
  lines : List (Option (List (BitVec 12)))
  partl : Bool
  pkt   : Bool
  ended : Bool
  uecc  : Bool := false
deriving DecidableEq, Repr

/-- What a sighting engine holds beside its block: pending edges, the frame being filled, the frame in the fit stage. -/
structure Cam where
  edges : List Time := []
  frame : Option Frame := none
  fit   : Option Frame := none
deriving DecidableEq, Repr

/-! ### Jalari links -/

/-- A message: its 16-byte header as one number, and its data bytes (R347). -/
structure Msg where
  h : Nat
  d : List Byte
deriving DecidableEq, Repr

/-- A TIME message with the time of the codeword that carried it (R346). -/
structure TimeMsg where
  m : Msg
  t : Time
deriving DecidableEq, Repr

/-- A flit kept in the replay buffer: FSEQ, FTYPE, body (R343, R344). -/
structure Flit where
  seq  : Nat
  ty   : Nat
  body : List Byte
deriving DecidableEq, Repr

/-- The fields of a training frame (R339). -/
structure TFrame where
  lane    : Nat
  phase   : Nat
  reqPre  : Nat
  reqPost : Nat
  stPre   : Nat
  stPost  : Nat
  reseq   : Bool
  node    : BitVec 16
  linkNum : BitVec 4
deriving DecidableEq, Repr

/-- What a link holds beside its block (R339 to R355). `has` says that it holds sequence state: the next FSEQ to send and
the one expected, the replay buffer, credits, the last credit values seen and given, and the received bytes not yet freed of
each buffer. Retry: whether the next flit sent carries NAK, the 1 GHz periods since the last NAK while no flit has been accepted, a
further discard since then, the place in the replay buffer that a resend has reached, the ACKSEQ of the NAK that started it,
resends without progress, and whether the partner's first ACKSEQ after UP is awaited. `reqBytes` and `rspBytes` are the streams not
yet cut into messages; `reqMsgs`, `rspMsgs` and `timeMsgs` are the messages that wait to be served, `outReq` and `outRsp` the flit
bodies that wait to be sent, each with whether a message starts in it; `outTime` the TIME messages that wait. The line: the fifths
of an LSB until the next training frame or codeword leaves, the number of the next codeword, the flits of the last one, and those of
the frames last sent. In training: RESEQ sent and received, the frames of each lane sent in a row with hold on both taps, the lanes
aligned, whether READY has been sent, the frames of each lane received in a row with READY, the taps in steps of 0.02 (R467) with
the status of the last request on each, and the PRBS generator. `age` counts 1 GHz periods in the present LSTATE, `dry` those in
which REQ flits have waited without credit (R340, R352, R353). -/
structure Link where
  has      : Bool := false
  txSeq    : Nat := 0
  rxSeq    : Nat := 0
  replay   : List Flit := []
  credReq  : Nat := 128
  credRsp  : Nat := 128
  seenReq  : Nat := 0
  seenRsp  : Nat := 0
  giveReq  : Nat := 0
  giveRsp  : Nat := 0
  bufReq   : List Nat := []
  bufRsp   : List Nat := []
  nak      : Bool := false
  nakAge   : Option Nat := none
  again    : Bool := false
  resendAt : Option Nat := none
  lastNak  : Option Nat := none
  resends  : Nat := 0
  resync   : Bool := false
  reqBytes : List Byte := []
  rspBytes : List Byte := []
  reqMsgs  : List Msg := []
  rspMsgs  : List Msg := []
  timeMsgs : List TimeMsg := []
  outReq   : List (Bool × List Byte) := []
  outRsp   : List (Bool × List Byte) := []
  outTime  : List Msg := []
  lineIn   : Nat := 0
  txCw     : Nat := 0
  lastCw   : List (List Byte) := []
  frames   : List TFrame := []
  cwseq    : Nat := 0
  marks    : List Bool := []
  reseq    : Bool := false
  peerReseq : Bool := false
  holds    : List Nat := [0, 0, 0, 0]
  aligned  : Nat := 0
  sentReady : Bool := false
  ready    : List Nat := [0, 0, 0, 0]
  taps     : List (Nat × Nat) := [(2, 5), (2, 5), (2, 5), (2, 5)]
  stat     : List (Nat × Nat) := [(0, 0), (0, 0), (0, 0), (0, 0)]
  prbs     : Nat := 0x1FFF
  age      : Nat := 0
  dry      : Nat := 0
deriving DecidableEq, Repr

/-- An outstanding request (R349, R350): who made it, its header, the link it leaves on, where its answer goes; whether it has
ended without its completion, whether its CMPTO has passed, and whether its completion has come; whether its first flit has left,
and the 1 GHz periods until its TIMEOUT. -/
structure Req where
  ag    : Agent
  h     : Nat
  link  : Nat
  ret   : Ret
  dead  : Bool
  timed : Bool
  came  : Bool
  left  : Bool := false
  ttl   : Nat := 0
deriving DecidableEq, Repr

/-! ### Service die -/

/-- The one-time-programmable memory (R383, R387 to R395) and field-repair region (R178), as a part leaves Krytoon. -/
structure Otp where
  lcstate : Nat := 1
  pend    : Option (Nat × Option (Nat × Nat)) := none
  keys    : List (Nat × Nat) := [(0, Config.vendorKeyHash)]
  revoked : List Nat := []
  svn     : Nat := 0
  returns : Nat := 7
  devKey  : Option Nat := some 0
  repairs : List Repair := []
deriving DecidableEq, Repr

/-- Which request runs (R389), as the device copied it. -/
inductive LcReq where
  | claim | advance | revoke | debug | attest
deriving DecidableEq, Repr

/-- The image and lifecycle engine beside its block: the debug level, the number of the random value that DBGNONCE holds, the
request that runs with the buffer as the device copied it (R389, R396), and whether it writes the pending record of OTP (R392). The level at reset is that of VENDOR. -/
structure Lc where
  dbg   : Nat := 1
  nonce : Nat := 0
  busy  : Option (LcReq × List Byte) := none
  writing : Bool := false
deriving DecidableEq, Repr

/-- An access that waits at a boundary: of a gated domain, of a herd in reset, or of a fenced herd (R401, R420, R430). -/
structure BusReq where
  ag  : Agent
  a   : Nat
  n   : Nat
  wr  : Option Nat
  ret : Ret
deriving DecidableEq, Repr

/-- A BAR read that has not been completed (R366): its number, its bytes, those that have come, each run with its place, length and
value, and its age in 1 GHz periods. -/
structure HostRead where
  id   : Nat
  bar2 : Bool
  off  : Nat
  n    : Nat
  got  : List (Nat × Nat × Nat)
  age  : Nat
deriving DecidableEq, Repr

/-- How a BAR read is completed (R365): with data, as Unsupported Request, or with Completer Abort. -/
inductive HostEnd where
  | data (v : Nat)
  | ur
  | ca
deriving DecidableEq, Repr

/-- A transaction of the xSPI master (R369, R370). -/
inductive XspiOp where
  /-- Read in 1S-1S-1S at 25 MHz: command, address, bytes. -/
  | read1 (cmd addr n : Nat)
  /-- Write Enable, in 1S-1S-1S. -/
  | writeEnable (cmd : Nat)
  /-- The command that enters 8D-8D-8D, with its address and data byte, in 1S-1S-1S. -/
  | enter (cmd addr val : Nat)
  /-- Read in 8D-8D-8D: command with its extension, address, bytes, dummy cycles, MHz. -/
  | read8 (cmd addr n dummy mhz : Nat)
deriving DecidableEq, Repr

/-- The host side: the reads that wait, the number of the next BAR request, the reads completed since the last period of the
timebase, the latest request counted in HERRCNT, the AER status of Completer Aborts and Unsupported Requests, whether the function is
in D3hot (R362), the BAR offset of the access being served, the MSI-X messages sent, whether the
endpoint answers configuration requests and PERST_N is high, the locator that flash boot goes by, what the xSPI master has sent
in the latest FETCH, whether the boot takes its
image from the host, whether the staged image has just come from flash, and whether HBM has lost its contents or a lifecycle
change asks for it, so that the next WIPE phase makes a full wipe (R162, R371, R420). -/
structure HostSt where
  reads  : List HostRead := []
  nextId : Nat := 1
  ends   : List (Nat × HostEnd) := []
  failed : Option Nat := none
  aerCa  : Bool := false
  aerUr  : Bool := false
  d3hot  : Bool := false
  cur    : Nat := 0
  msgs   : List Nat := []
  cfgOk  : Bool := false
  perst  : Bool := false
  loc    : List Byte := []
  xspi   : List XspiOp := []
  hostBoot : Bool := false
  flashTry : Bool := false
  wipeFull : Bool := true
deriving DecidableEq, Repr

/-- What the model's own clock stamps, so that an event whose time the spec states is not due before it (assumption 64). -/
inductive Mark where
  /-- A supply warning of a monitor has started or ended (R410). -/
  | warn (m : Nat)
  /-- An AVSBus attempt of a port has failed (R416). -/
  | avs (port : Nat)
  /-- The margin loop has passed (R414). -/
  | loop
  /-- WATCH has been entered, or a sample pass made (R408). -/
  | pass
  /-- A wake-up from DEEP or WATCH has been requested (R405, R406). -/
  | rise
  /-- CLOCK has begun (R406). -/
  | clock
  /-- PERST_N has risen (R368). -/
  | perst
  /-- A domain has last been active (R400). -/
  | dom (d : Nat)
  /-- A gated domain has started to wake (R405). -/
  | wake (d : Nat)
  /-- A HERD reset has been requested (R420). -/
  | herd (h : Nat)
  /-- A DOMAIN reset has been requested (R420). -/
  | domReset (d : Nat)
  /-- A KID reset has been requested (R420). -/
  | kid (k : Nat)
  /-- A substitution has started (R435). -/
  | sub
  /-- An OTP write has started (R388, R392). -/
  | otp
deriving DecidableEq, Repr

/-- The model's own clock: 1 GHz periods so far, the period of the last device-wide reset, the latest period of each event, and
the DCTL.IDLE of each domain when it was last active (R419 case 8). -/
structure Clock where
  ticks : Nat := 0
  base  : Nat := 0
  marks : List (Mark × Nat) := []
  idles : List (Nat × Nat) := []
deriving DecidableEq, Repr

/-- Supply and thermal conditions in force and the rest of the power manager (R402 to R416, R471): the warnings with their
start, the monitors whose warning has been signalled as a brown stop, the monitors whose taps wait to return, the tiles above
TWARN, THERMTRIP_N, the failed AVSBus attempts of each port, the VSET that each AVSBus rail last acknowledged, the trimmed tap of each domain, the first sample pass of this
WATCH, DEEP, the state that waits to be entered with whether PMCTL asked for it, the VSET of each rail from before WATCH, and the power-good
inputs not yet asserted since a wake-up raised their rails. -/
structure PowerSt where
  warn  : List (Nat × Time) := []
  brown : List Nat := []
  back  : List Nat := []
  hot   : List Nat := []
  trip  : Bool := false
  tries : List (Nat × Nat) := []
  acked : List (Nat × Nat) := []
  trims : List (Nat × Nat) := []
  first : Bool := false
  deep  : Bool := false
  want  : Option (Nat × Bool) := none
  vsave : List Nat := []
  rising : List Nat := []
deriving DecidableEq, Repr

/-- Reset bookkeeping: herds and domains held by a reset in progress (R420), and whether a device-wide reset has not yet ended
in RUNNING or FAILED. -/
structure RstSt where
  herds : List Nat := []
  doms  : List Nat := []
  inReset : Bool := true
deriving DecidableEq, Repr

/-- The pins as last sampled: DBIN (the level bridges' filtered levels are in their block, R225), the power-good inputs, the low
samples of RESET_N in a row, up to the fifth, which asserts reset (R47), and the trigger outputs that are high with the time at
which each falls. -/
structure Pins where
  dbin  : Nat := 0
  pg    : Nat := 0x3FF
  rstLow : Nat := 0
  trig  : List (Nat × Nat) := []
deriving DecidableEq, Repr

/-- The timebase beside its block: the counter and whether it runs, the runs of exchanges within and above LOCKTHR, the outstanding
exchanges, each with its t1 once its flit has left and its age in 1 GHz periods, the age of the latest one started, the offset still to slew, and the
periods until the next slew is allowed (R331 to R334). -/
structure Tb where
  count  : Time := 0
  runs   : Bool := false
  good   : Nat := 0
  badx   : Nat := 0
  outs   : List (Option Time × Nat) := []
  age    : Option Nat := none
  owed   : Int := 0
  slewIn : Nat := 0
deriving DecidableEq, Repr

/-- The TAP (R441 to R444): instruction, boundary register, TESTREG capture, what the data register of the instruction in force
captured, least significant bit first out, and whether an EXTEST instruction is in force. -/
structure Tap where
  ir    : Nat := 1
  cells : List Bool := []
  cap   : Nat := 0
  dr    : Nat := 0xA4D3_296B
  ext   : Bool := false
deriving DecidableEq, Repr

/-- The answer of the latest access, for the agent that made it (R28, R29, R365). -/
inductive Reply where
  | none
  | data (v : Nat)
  | done
  | waits
  | reserved
  | refused
  | uecc
  | trap (code : Nat)
  | ur
  | ca
deriving DecidableEq, Repr

/-- The state of the block. Beside what its parts say: `spares` are the memories of positions that serve no kid, by herd * 2 +
spare, at their offsets in a kid view; `sbist` the spares of a herd that failed the latest self-test; `sub` the substitution that runs: kid, spare and SUBCOPY; `held` the accesses that
wait at a boundary; `fresh` counts the open values taken (assumption 1). -/
structure State where
  pending : List Instr := []
  regs    : List (RegKey × Nat) := []
  mem     : List Host.Cell := []
  words   : List (Nat × WMeta) := []
  merges  : List MergeEnt := []
  rpts    : List (Nat × List RptEnt) := []
  milog   : List Nat := []
  flip    : Option Flip := none
  hppr    : Option Repair := none
  cip     : Option (Nat × Nat) := none
  kids    : List (Nat × Kid) := []
  fawns   : List (Nat × Fawn) := []
  icaches : List (Nat × ICache) := []
  prods   : List (Nat × Prod) := []
  cons    : List (Nat × Cons) := []
  hdcs    : List (Nat × Hdc) := []
  oryxes  : List (Nat × Oryx) := []
  ports   : List (Nat × Port) := []
  axes    : List (Nat × Axis) := []
  glog    : List Nat := []
  gstops  : List GStop := []
  broken  : List Nat := []
  cams    : List (Nat × Cam) := []
  links   : List (Nat × Link) := []
  localMsgs : List Msg := []
  localRsp : List Msg := []
  reqs    : List (Nat × Req) := []
  rlog    : List Nat := []
  tb      : Tb := {}
  host    : HostSt := {}
  otp     : Otp := {}
  lc      : Lc := {}
  pow     : PowerSt := {}
  clk     : Clock := {}
  rst     : RstSt := {}
  pins    : Pins := {}
  tap     : Tap := {}
  spares  : List (Nat × List Host.Cell × List (Nat × WMeta)) := []
  sbist   : List (Nat × Nat) := []
  sub     : Option (Nat × Nat × Nat) := none
  held    : List BusReq := []
  reply   : Reply := .none
  fresh   : Nat := 0
deriving DecidableEq, Repr

/-- The block right after POWER-ON reset: every field at its Reset column (R11), every memory unlisted, boot in INIT
(R371, R374), no command waiting. -/
def State.reset : State := {}

/-- Why a command stops with a fault. -/
inductive Fault where
  /-- A command whose operands its row does not admit (WellFormed): raised by `step` alone. Safe: no such step exists. -/
  | illFormed
deriving DecidableEq, Repr

/-- Why a command is refused. -/
inductive Refusal where
  /-- An arm of exec that has no meaning: raised by exec alone. Safe. -/
  | notModelled (mnemonic : String)
deriving DecidableEq, Repr

/-- What a command answers. -/
abbrev Out := Host.Outcome State Fault Refusal

end Sys2Proof.Machine
end

