-- ==== Sys2Proof/Machine/Ops.lean ====
section
/-!
DEFINITION. The named operations that every family uses: register fields, the parts of the state, open values,
power domains, doorbell messages, MSI-X vectors, and the entry of a kid into its trap and doorbell handlers.
-/

namespace Sys2Proof.Machine

/-! ### Outcomes -/

/-- An event that can come about only where `c` holds; where it cannot, a command that names it changes nothing. -/
def due (s : State) (c : Bool) (t : State) : Out := .next (if c then t else s)

/-! ### Register fields -/

/-- The value of element `i` of field `F` of block instance `n`. -/
def rd (s : State) (F : Fld) (n : Nat := 0) (i : Nat := 0) : Nat :=
  (alGet s.regs (F.key n i)).getD (F.reset i)

/-- The field as a flag. -/
def rdb (s : State) (F : Fld) (n : Nat := 0) (i : Nat := 0) : Bool := rd s F n i == 1

/-- Write element `i` of field `F` of block instance `n`, at the field's width. -/
def wr (s : State) (F : Fld) (n : Nat) (v : Nat) (i : Nat := 0) : State :=
  { s with regs := alSet s.regs (F.key n i) (v % 2 ^ F.w) }

/-- Write a flag. -/
def wrb (s : State) (F : Fld) (n : Nat) (v : Bool) (i : Nat := 0) : State := wr s F n (b2n v) i

/-- Add 1 to a counter, which wraps. -/
def incr (s : State) (F : Fld) (n : Nat := 0) (i : Nat := 0) : State := wr s F n (rd s F n i + 1) i

/-- Add 1 to a counter, which saturates. -/
def incrSat (s : State) (F : Fld) (n : Nat := 0) (i : Nat := 0) : State :=
  wr s F n (satInc (2 ^ F.w - 1) (rd s F n i)) i

/-- Whether a stored register lies in the given block and instance. -/
def RegKey.inBlk (k : RegKey) (b : Blk) (n : Nat) : Bool := decide (k.blk = b) && k.inst == n

/-- Drop the stored values that a predicate names, so that they read as their Reset column again (R423). -/
def dropRegs (s : State) (p : RegKey → Bool) : State := { s with regs := s.regs.filter (fun e => !p e.1) }

/-- The access code of the field that a key names. -/
def RegKey.acc (k : RegKey) : Acc :=
  (((fieldsOf k.blk).find? (fun F => F.off == k.off && F.lo == k.lo)).map (fun F => F.acc)).getD .ro

/-- Return the fields of one block instance to their Reset column, but for IMG and NRW fields (R423). -/
def resetBlk (s : State) (b : Blk) (n : Nat) : State :=
  dropRegs s (fun k => k.inBlk b n && decide (k.acc ≠ .img) && decide (k.acc ≠ .nrw))

/-! ### Parts of the state -/

/-! What is not listed is as reset leaves it. -/

def kidOf (s : State) (k : Nat) : Kid := (alGet s.kids k).getD {}
def setKid (s : State) (k : Nat) (v : Kid) : State := { s with kids := alSet s.kids k v }
def fawnOf (s : State) (f : Nat) : Fawn := (alGet s.fawns f).getD {}
def setFawn (s : State) (f : Nat) (v : Fawn) : State := { s with fawns := alSet s.fawns f v }
def icacheOf (s : State) (h : Nat) : ICache := (alGet s.icaches h).getD {}
def setIcache (s : State) (h : Nat) (v : ICache) : State := { s with icaches := alSet s.icaches h v }
def prodOf (s : State) (e : Nat) : Prod := (alGet s.prods e).getD {}
def setProd (s : State) (e : Nat) (v : Prod) : State := { s with prods := alSet s.prods e v }
def consOf (s : State) (e : Nat) : Cons := (alGet s.cons e).getD {}
def setCons (s : State) (e : Nat) (v : Cons) : State := { s with cons := alSet s.cons e v }
def hdcOf (s : State) (h : Nat) : Hdc := (alGet s.hdcs h).getD {}
def setHdc (s : State) (h : Nat) (v : Hdc) : State := { s with hdcs := alSet s.hdcs h v }
def oryxOf (s : State) (h : Nat) : Oryx := (alGet s.oryxes h).getD {}
def setOryx (s : State) (h : Nat) (v : Oryx) : State := { s with oryxes := alSet s.oryxes h v }
def portOf (s : State) (p : Nat) : Port := (alGet s.ports p).getD {}
def setPort (s : State) (p : Nat) (v : Port) : State := { s with ports := alSet s.ports p v }
def axisOf (s : State) (a : Nat) : Axis := (alGet s.axes a).getD {}
def setAxis (s : State) (a : Nat) (v : Axis) : State := { s with axes := alSet s.axes a v }
def camOf (s : State) (c : Nat) : Cam := (alGet s.cams c).getD {}
def setCam (s : State) (c : Nat) (v : Cam) : State := { s with cams := alSet s.cams c v }
def linkOf (s : State) (l : Nat) : Link := (alGet s.links l).getD {}
def setLink (s : State) (l : Nat) (v : Link) : State := { s with links := alSet s.links l v }

/-! ### Open values (assumption 1) -/

/-- Take a fresh open number. -/
def freshNat (s : State) : Nat × State := (Config.freeNat s.fresh, { s with fresh := s.fresh + 1 })

/-- Take a fresh open choice. -/
def freshBool (s : State) : Bool × State := (Config.freeBool s.fresh, { s with fresh := s.fresh + 1 })

/-! ### Time -/

/-- The timebase time (R327). -/
def now (s : State) : Nat := s.tb.count.toNat

/-- The time of an event: the counter, refined to the LSB by the clock phase at which the event falls. Commands carry no phase, so
it is an open value from 0 to 7 (R328, assumptions 1 and 42); a counter that does not run has no phases. -/
def stamp (s : State) : Nat × State :=
  if s.tb.runs then
    let (r, s) := freshNat s
    ((now s + r % 8) % 2 ^ 64, s)
  else (now s, s)

/-- Stamp an event with the model's clock. -/
def stampAt (s : State) (m : Mark) : State := { s with clk := { s.clk with marks := alSet s.clk.marks m s.clk.ticks } }

/-- The 1 GHz periods since an event, or since the last device-wide reset. -/
def since (s : State) (m : Mark) : Nat := s.clk.ticks - (alGet s.clk.marks m).getD s.clk.base

/-! ### Power domains (R399) -/

/-- The herd-group domain of herd h. -/
def herdDom (h : Nat) : Nat := h / 128 * 36 + h % 128 / 4
/-- The HBM controller domain of stack s. -/
def hbmDom (st : Nat) : Nat := st * 36 + 33
/-- The link-cluster domain of link l. -/
def linkDom (l : Nat) : Nat := l / 3 * 36 + 34
/-- The port-edge domain of tile t. -/
def edgeDom (t : Nat) : Nat := t * 36 + 35

/-- DSTAT.PSTATE of a domain: 0 on, 1 gated, 2 waking, 3 held in DOMAIN reset. -/
def pstate (s : State) (d : Nat) : Nat := rd s pd_DSTAT_PSTATE d

/-- A handshake arrives at a domain: a gated domain starts to wake (R401). -/
def touch (s : State) (d : Nat) : State := if pstate s d = 1 then stampAt (wr s pd_DSTAT_PSTATE d 2) (.wake d) else s

/-! ### Blocks and their boundaries -/

/-- The device-local address of block instance n (R23, R26 and the base address of each register table). -/
def blkBase (b : Blk) (n : Nat) : Nat := match b with
  | .kidSr => 0x11_0000_4000 + n * 0x1_0000
  | .devfeat => 0x14_0050_0000
  | .icache => 0x12_0000_8000 + n * 0x1_0000
  | .integrity => 0x14_0048_0000
  | .prodPort | .consPort | .epConfig => 0x12_0000_4000 + n / 64 * 0x1_0000 + n % 64 * 0x100
  | .hdc => 0x12_0000_1000 + n * 0x1_0000
  | .bridges => 0x14_0044_0000
  | .oryxSlot => 0x12_0000_2000 + n / 64 * 0x1_0000 + n % 64 * 0x40
  | .axisPort => 0x13_0000_0000 + n * 0x1_0000
  | .guard => 0x13_0100_0000
  | .envelope => 0x13_0101_0000 + n * 0x40
  | .axisState => 0x13_0102_0000 + n * 0x40
  | .constraint => 0x13_0103_0000 + n * 0x20
  | .camera => 0x13_1000_0000 + n * 0x10_0000
  | .timebase => 0x14_0000_0000
  | .link => 0x13_2000_0000 + n * 0x1_0000
  | .routing => 0x13_2000_0000
  | .hostBoot => 0x14_0030_0000
  | .lifecycle => 0x14_0020_0000
  | .power => 0x14_0010_0000
  | .domain => 0x14_0010_1000 + n * 0x20
  | .kidCtl => 0x11_0000_4100 + n * 0x1_0000
  | .resetCtl => 0x14_004C_0000
  | .herdFence => 0x12_0000_0000 + n * 0x1_0000
  | .testService => 0x14_0040_0000

/-- An access waits at a boundary until the block behind it opens (R401, R420, R430). -/
def hold (s : State) (q : BusReq) : State := { s with held := s.held ++ [q], reply := .waits }

/-- A write that reaches a block that no boundary holds: it acts at once. In DEEP no block is powered but the always-on
domain, and no agent runs (R402): no write comes. -/
def served (s : State) (act : State → State) : Out :=
  .next (if s.pow.deep then s else { act s with reply := .done })

/-- A write that reaches a register of a block in domain d: it acts at once, waits at the boundary of a domain that is not
on or of a herd in reset (`shut`), or completes as a reserved address where TRIMFAIL holds the domain (R415 case 4). The act
says how the write is answered. -/
def atBlockAns (s : State) (d : Nat) (shut : Bool) (q : BusReq) (act : State → State) : Out :=
  if s.pow.deep then .next s
  else if rdb s pd_DSTAT_TRIMFAIL d then .next { s with reply := .reserved }
  else if pstate s d ≠ 0 ∨ shut = true then .next (hold (touch s d) q)
  else .next (act s)

/-- A write of which none can wait once it reaches its block. -/
def atBlock (s : State) (d : Nat) (shut : Bool) (q : BusReq) (act : State → State) : Out :=
  atBlockAns s d shut q (fun s => { act s with reply := .done })

/-- The write of value v to a field, as a request of the world outside. -/
def regReq (F : Fld) (n i v nb : Nat) : BusReq :=
  ⟨.host, blkBase F.blk n + F.off + i * F.stride + F.lo / 8, nb, some v, .none⟩

/-! ### Doorbell messages (R212 to R215) -/

/-- Bit `n` of `v` set. -/
def setBit (v n : Nat) : Nat := v ||| 2 ^ n
/-- Bit `n` of `v` clear. -/
def clrBit (v n : Nat) : Nat := if bit v n then v - 2 ^ n else v

/-- Bit of source `src` in one of the HDC's byte families. -/
def srcBit (s : State) (F : Fld) (h src : Nat) : Bool := bit (rd s F h (src / 8)) (src % 8)

/-- A message for source `src` sets PEND and counts in ARRC (R215, R221). -/
def pendSource (s : State) (h src : Nat) : State :=
  let s := wr s hd_PEND h (setBit (rd s hd_PEND h (src / 8)) (src % 8)) (src / 8)
  incr s hd_ARRC h (src / 8)

/-- Whether the herd's HDC is held by a HERD or DOMAIN reset, or gated (R401, R420). -/
def herdHeld (s : State) (h : Nat) : Bool := s.rst.herds.contains h || pstate s (herdDom h) != 0

/-- A doorbell message: accepted, held at the boundary of a herd that is reset or gated, or discarded where the hold of a
TRIMFAIL domain has no set end (R212, R415 case 4, R420). -/
def raise (s : State) (h src : Nat) : State :=
  let d := herdDom h
  if rdb s pd_DSTAT_TRIMFAIL d then s
  else if herdHeld s h then
    let s := touch s d
    let c := hdcOf s h
    setHdc s h { c with msgs := c.msgs ++ [BitVec.ofNat 8 src] }
  else pendSource s h src

/-- A message in the fault herd that the image names (R214). -/
def raiseFault (s : State) (src : Nat) : State := raise s (rd s lc_FAULTHERD) src

/-- A mapped device event: raised only where the image has mapped it. -/
def raiseMapped (s : State) (mapped : Bool) (h src : Nat) : State := if mapped then raise s h src else s

/-! ### Host interrupts (R367) -/

/-- The PCIe endpoint answers: PERST_N is high, configuration has begun, and the function is in D0 (R362, R368). -/
def pcieUp (s : State) : Bool := s.host.perst && s.host.cfgOk && !s.host.d3hot

/-- Raise an MSI-X vector: a masked vector sets its Pending Bit Array bit, an unmasked one sends its message. -/
def msix (s : State) (v : Nat) : State :=
  if !pcieUp s then s
  else if rdb s hb_MSIXMASK 0 v then wr s hb_MSIXPBA 0 1 v
  else { s with host := { s.host with msgs := s.host.msgs ++ [v] } }

/-- Write a host fault bit: a bit that becomes set raises vector 2 (R367). -/
def hfault (s : State) (F : Fld) : State := if rdb s F then s else msix (wr s F 0 1) 2

/-- A BAR request fails: HERRCNT and HERRLAST (R365). -/
def hostErr (s : State) (off : Nat) : State := wr (incr s hb_HERRCNT) hb_HERRLAST 0 off

/-- Enter a boot phase: a change raises vector 0 (R367). -/
def setPhase (s : State) (p : Nat) : State :=
  if rd s hb_BOOTSTAT_PHASE = p then s else msix (wr s hb_BOOTSTAT_PHASE 0 p) 0

/-- Write BOOTSTAT.CODE: a change raises vector 0 (R367). -/
def setCode (s : State) (c : Nat) : State :=
  if rd s hb_BOOTSTAT_CODE = c then s else msix (wr s hb_BOOTSTAT_CODE 0 c) 0

/-! ### Fawns -/

/-- An event of its port or link reaches a fawn: a WAIT ends (R113), and a load of an axis port's fawn that waits is made
again. Which events count is the model's choice (assumption 45): the calls of portEvent, camEvent and linkEvent, and a fetch point
for the transmit fawn. -/
def wakeFawn (s : State) (f : Nat) : State :=
  let w := fawnOf s f
  match w.wait with
  | some .event => setFawn s f { w with wait := none, pc := w.pc + 1 }
  | some (.load _ _) => if f < 128 then setFawn s f { w with wait := none } else s
  | _ => s

/-- The stores of a fawn that wait at endpoints are withdrawn. -/
def dropFawnPushes (s : State) (f : Nat) : State :=
  let own (ag : Agent) : Bool := match ag with
    | .fawn g => g.val == f
    | _ => false
  { s with
    prods := s.prods.map (fun e => (e.1, { e.2 with waitq := e.2.waitq.filter (fun r => !own r.ag) }))
    held := s.held.filter (fun q => !own q.ag) }

/-- A fawn starts at word 0x000. -/
def startFawn (s : State) (f : Nat) : State :=
  let s := dropFawnPushes s f
  setFawn s f { fawnOf s f with pc := 0, st := .running, wait := none }

/-- A fawn that its fence stopped starts again (R437). -/
def unfenceFawn (s : State) (f : Nat) : State := if (fawnOf s f).st = .fenced then startFawn s f else s

/-- A fence stops a fawn without a cause (R437). -/
def fenceFawn (s : State) (f : Nat) : State :=
  let w := fawnOf s f
  if w.st = .off then s else setFawn s f { w with st := .fenced, wait := none }

/-! ### Kids -/

/-- The herd of a kid (R19). -/
def herdOfKid (k : Nat) : Nat := k / 64

/-- KSTAT.STATE: 0 running, 1 in WAIT, 2 halted, 3 in KID reset (R424). -/
def kstate (s : State) (k : Nat) : Nat := rd s kc_KSTAT_STATE k

/-- Read a general register (R54). -/
def Kid.rb (c : Kid) (r : Fin 16) : Byte := c.b[r]
/-- Read a pair register (R54). -/
def Kid.rw (c : Kid) (w : Fin 8) : Word16 := c.b[2 * w.val + 1] ++ c.b[2 * w.val]

/-- The step counter moves on by n (R76). -/
def Kid.step (c : Kid) (n : Nat) : Kid := { c with stepc := c.stepc + BitVec.ofNat 32 n }

/-- The prefetch queue and a fetch access in flight are discarded (R120), and fetch goes on at `dest`. -/
def Kid.refetch (c : Kid) (dest : Word16) : Kid := { c with pq := [], fetching := none, fpc := dest, slot0 := none }

/-- The pulses of a byte written to KMODE: TCAP before SCLR at the same point (R77). -/
def kmodePulse (s : State) (k : Nat) (v : Byte) : State :=
  let c := kidOf s k
  let s := if v.getLsbD 5 then
      let (t, s) := stamp s
      wr (wr s kd_KSTEPC_COUNT k c.stepc.toNat) kd_KTIME k t
    else s
  if v.getLsbD 6 then setKid s k { c with stepc := 0 } else s

/-- A pending KMODE write takes effect: DET and DBE, and the pulses (R72). -/
def kmodeApply (s : State) (k : Nat) (v : Byte) : State :=
  kmodePulse (wrb (wrb s kd_KMODE_DET k (v.getLsbD 1)) kd_KMODE_DBE k (v.getLsbD 2)) k v

/-- All pending KMODE writes take effect, oldest first: before the first instruction of a trap handler (R73). -/
def kmodeFlush (s : State) (k : Nat) : State :=
  let c := kidOf s k
  (c.kpend.foldl (fun s e => kmodeApply (setKid s k { kidOf s k with kpend := [] }) k e.1)
    (setKid s k { c with kpend := [] }))

/-- A rejected commit of a kid that is reset or halted is not reported to it (R172). -/
def unreport (s : State) (k : Nat) : State :=
  { s with merges := s.merges.map (fun m => if m.rq = ⟨2, k⟩ then { m with off := 1 } else m) }

/-- Halt a kid: state 2 with its cause; a claimed delivery that is held is discarded (R86 case 4, R425). The prefetch queue
stays, as a halt is none of the events of R120. The completion of a claimed source is the business of `haltKid`. -/
def stopKid (s : State) (k why : Nat) : State :=
  let s := wr (wr s kc_KSTAT_STATE k 2) kc_KSTAT_WHY k why
  let s := unreport s k
  let c := kidOf s k
  setKid s k { c with wait := none, deliv := none, haltReq := none, stepping := false, must := false, slot0 := none }

/-- Bridge i hears of a completion of its source (R225). -/
def bridgeReport (s : State) (h src : Nat) (i : Nat) : State :=
  if rdb s br_MAPPED 0 i && rd s br_SOURCE 0 i == src && rd s br_HERD 0 i == h && rdb s br_WAITING 0 i then
    if rdb s br_LEVEL 0 i then incr (raise s h src) br_RESENDS else wr s br_WAITING 0 0 i
  else s

/-- ACTIVE of a source is cleared, and the bridges hear of it (R220, R225). -/
def clearActive (s : State) (h src : Nat) : State :=
  let s := wr s hd_ACTIVE h (clrBit (rd s hd_ACTIVE h (src / 8)) (src % 8)) (src / 8)
  let c := hdcOf s h
  let s := setHdc s h { c with recd := alDel c.recd src }
  (List.range 16).foldl (fun s i => bridgeReport s h src i) s

/-- A kid's completion (R220 cases 1 to 3); while the herd is reset it is absorbed (R420). -/
def kidComplete (s : State) (k src : Nat) : State :=
  let h := herdOfKid k
  if s.rst.herds.contains h then s
  else if srcBit s hd_ACTIVE h src && alGet (hdcOf s h).recd src == some k then clearActive s h src
  else incr s hd_SPURCMP h

/-- The source of a delivery that is claimed and not completed: held, or its handler running (R86 case 4). -/
def claimedSrc (s : State) (k : Nat) : Option Nat :=
  match (kidOf s k).deliv with
  | some (b, _) => some b.toNat
  | none => if rdb s kd_KMODE_INDB k then some (rd s kd_KSRC_SRC k) else none

/-- The kid-control logic sends the completion of a claimed delivery (R86 case 4). -/
def completeClaim (s : State) (k : Nat) : State :=
  match claimedSrc s k with
  | some src => kidComplete s k src
  | none => s

/-- A halt takes effect (R86 case 4, R425). -/
def haltKid (s : State) (k why : Nat) : State := stopKid (completeClaim s k) k why

/-- A precise trap while KMODE.INTR is set (R83): the kid is to halt, as HALT halts it, with WHY 2. -/
def trapInTrap (s : State) (k : Nat) : State :=
  let s := wr s kd_KFAULT_DTRAP k 1
  setKid s k { kidOf s k with haltReq := some 2, rep := false, wait := none, must := false, slot0 := none }

/-- Take a trap (R78, R81, R83): code, whether it is deferred, and what KEPC receives. A pending KMODE write is brought forward
before the entry's counted steps, which is the model's choice (R73; assumption 18). -/
def takeTrap (s : State) (k code : Nat) (dfr : Bool) (epc : Nat) : State :=
  if rdb s kd_KMODE_INTR k then trapInTrap s k
  else
    let s := kmodeFlush s k
    let s := wr s kd_KEPC_ADDR k epc
    let s := wr s kd_KRPT_ECOUNT k (rd s kd_KRPT_COUNT k)
    let s := wr s kd_KRPT_COUNT k 0
    let s := wr s kd_KCAUSE_CODE k code
    let s := wrb s kd_KCAUSE_DEFER k dfr
    let s := wr s kd_KCAUSE_DB k 0
    let s := wr s kd_KMODE_INTR k 1
    let c := kidOf s k
    let late := c.deliv.map (fun d => (d.1, true))
    setKid s k { (c.refetch 2).step 4 with pc := 2, rep := false, wait := none, must := false, deliv := late }

/-- Enter the doorbell handler (R78). -/
def takeDoorbell (s : State) (k : Nat) (src : Byte) : State :=
  let c := kidOf s k
  let s := wr s kd_KIPC_ADDR k c.pc.toNat
  let s := wr s kd_KRPT_ICOUNT k (rd s kd_KRPT_COUNT k)
  let s := wr s kd_KRPT_COUNT k 0
  let s := wr s kd_KCAUSE_DB k 1
  let s := wr s kd_KCAUSE_CODE k 0
  let s := wr s kd_KCAUSE_DEFER k 0
  let s := wr s kd_KSRC_SRC k src.toNat
  let s := wr s kd_KMODE_INDB k 1
  let s := wr s kc_KSTAT_STATE k 0
  setKid s k { (c.refetch 4).step 4 with pc := 4, rep := false, wait := none, must := false, deliv := none }

end Sys2Proof.Machine
end

