-- ==== Sys2Proof/Machine/Memory.lean ====
section
/-!
DEFINITION. Memory: the canonical list of bytes, the AF-Hsiao code words over it, the merge buffers, the repeat tables,
the error log, and the requests of the memory-integrity block (R151 to R182, R474, R477, R478).
A byte of an array that lies in the device-local map has its device-local address; arrays without one lie from 2^40 on.
-/

namespace Sys2Proof.Machine

/-! ### Bytes (assumption 2) -/

/-- What an unlisted address reads as: the zero of an unwritten SRAM word (R160) and of zero-filled HBM (R162). -/
def memDefault : Byte := 0

/-- Read one byte. -/
def memGet : List Host.Cell → Nat → Byte
  | [], _ => memDefault
  | (k, v) :: m, a => if k = a then v else memGet m a

/-- Remove an address from a list in canonical form. -/
def memDel : List Host.Cell → Nat → List Host.Cell
  | [], _ => []
  | (k, v) :: m, a => if k = a then m else if a < k then (k, v) :: m else (k, v) :: memDel m a

/-- Put a byte at an address of a list in canonical form. -/
def memIns : List Host.Cell → Nat → Byte → List Host.Cell
  | [], a, b => [(a, b)]
  | (k, v) :: m, a, b => if k = a then (a, b) :: m else if a < k then (a, b) :: (k, v) :: m else (k, v) :: memIns m a b

/-- Write one byte, keeping the canonical form. -/
def memSet (m : List Host.Cell) (a : Nat) (b : Byte) : List Host.Cell :=
  if b = memDefault then memDel m a else memIns m a b

/-- Write bytes at successive addresses. -/
def memSetMany (m : List Host.Cell) (a : Nat) : List Byte → List Host.Cell
  | [] => m
  | b :: bs => memSetMany (memSet m a b) (a + 1) bs

/-- Read n bytes at successive addresses. -/
def memGetMany (m : List Host.Cell) (a n : Nat) : List Byte := (List.range n).map (fun i => memGet m (a + i))

/-- Every address from `lo` on, strictly rising, no byte equal to what an unlisted address reads as. -/
def Memory.wfFrom : Nat → List Host.Cell → Bool
  | _, [] => true
  | lo, (k, v) :: m => decide (lo ≤ k) && decide (v ≠ memDefault) && Memory.wfFrom (k + 1) m

/-- The canonical form of memory. -/
def Memory.wf (m : List Host.Cell) : Bool := Memory.wfFrom 0 m

/-! ### Arrays (R151, R175, R474) -/

/-- The four codes: their data, address and check bits. -/
inductive Code where
  | kidProg | fawnProg | w32 | hbm
deriving DecidableEq, Repr

def Code.dataBits : Code → Nat
  | .kidProg => 14 | .fawnProg => 12 | .w32 => 32 | .hbm => 64
def Code.addrBits : Code → Nat
  | .kidProg => 12 | .fawnProg => 10 | .w32 => 16 | .hbm => 36
def Code.checkBits : Code → Nat
  | .kidProg => 7 | .fawnProg => 6 | .w32 => 7 | .hbm => 8
/-- Bytes of the container of a word (R25, R151). -/
def Code.bytes : Code → Nat
  | .kidProg => 2 | .fawnProg => 2 | .w32 => 4 | .hbm => 8

/-- A word of an array: its bank (R175), its folded address (R151), the address of its first byte and its code. -/
structure Loc where
  bank : Nat
  fold : Nat
  base : Nat
  code : Code
deriving DecidableEq, Repr

/-- Where arrays without a device-local address lie. -/
def fawnProgBase : Nat := 0x100_0000_0000
def queueBufBase : Nat := 0x100_2000_0000
def ioBufBase : Nat := 0x100_8000_0000

/-- The byte address of word w of fawn f's program memory. -/
def fawnProgAddr (f w : Nat) : Nat := fawnProgBase + f * 0x800 + w * 2
/-- The byte address of offset o of an array of type 0x9 whose unit is 0x8000 or more (R279, R310, R324, R360). -/
def ioAddr (unit o : Nat) : Nat := ioBufBase + (unit - 0x8000) * 0x1_0000 + o
/-- The unit that holds the data memory of fawn f, and where it starts there (R279, R324, R360). -/
def fawnUnit (f : Nat) : Nat :=
  if f < 128 then 0x8002 + f / 2 * 4 + f % 2
  else if f < 144 then 0xA003 + (f - 128) / 2 * 4
  else 0xB002 + (f - 144) / 2 * 4 + f % 2
/-- The byte address of fawn f's own data memory; the two fawns of a camera port share one array. -/
def fawnDataAddr (f o : Nat) : Nat := ioAddr (fawnUnit f) ((if 128 ≤ f ∧ f < 144 then f % 2 * 0x100 else 0) + o)

/-- The HBM bank of a device-local address (R474). -/
def hbmBank (a : Nat) : Nat :=
  0x8000_0000 + bits a 35 34 * 2 ^ 11 + bits a 12 8 * 2 ^ 6 + bits a 18 17 * 2 ^ 4 + bits a 16 13

/-- The word that holds a byte, where the byte lies in an array (R23, R24, R26, R151). -/
def locOf (a : Nat) : Option Loc :=
  if a < 0x10_0000_0000 then some ⟨hbmBank a, a / 8, a / 8 * 8, .hbm⟩
  else if a < 0x10_0800_0000 then
    let o := a - 0x10_0000_0000
    some ⟨0x3000_0000 + o / 0x4_0000 * 16 + bits o 17 14, bits o 17 2, a / 4 * 4, .w32⟩
  else if 0x11_0000_0000 ≤ a ∧ a < 0x11_8000_0000 then
    let k := (a - 0x11_0000_0000) / 0x1_0000
    let o := a % 0x1_0000
    if o < 0x800 then some ⟨0x2000_0000 + k, o / 4, a / 4 * 4, .w32⟩
    else if 0x2000 ≤ o ∧ o < 0x4000 then some ⟨0x1000_0000 + k, (o - 0x2000) / 2, a / 2 * 2, .kidProg⟩
    else none
  else if 0x12_0000_0000 ≤ a ∧ a < 0x12_0200_0000 then
    let h := (a - 0x12_0000_0000) / 0x1_0000
    let o := a % 0x1_0000
    if 0x2000 ≤ o ∧ o < 0x3000 then some ⟨0x6000_0000 + h, bits o 11 2, a / 4 * 4, .w32⟩
    else if 0x3000 ≤ o ∧ o < 0x4000 then some ⟨0x7000_0000 + h, bits o 11 2, a / 4 * 4, .w32⟩
    else none
  else if fawnProgBase ≤ a ∧ a < fawnProgBase + 168 * 0x800 then
    let o := a - fawnProgBase
    some ⟨0x4000_0000 + o / 0x800, o % 0x800 / 2, a / 2 * 2, .fawnProg⟩
  else if queueBufBase ≤ a ∧ a < queueBufBase + 32768 * 0x400 ∧ a % 0x400 < 0x100 then
    let o := a - queueBufBase
    some ⟨0x9000_0000 + o / 0x400, o % 0x400 / 4, a / 4 * 4, .w32⟩
  else if ioBufBase ≤ a ∧ a < ioBufBase + 0x3200 * 0x1_0000 then
    let o := a - ioBufBase
    some ⟨0x9000_8000 + o / 0x1_0000, o % 0x1_0000 / 4, a / 4 * 4, .w32⟩
  else if 0x13_1000_0000 ≤ a ∧ a < 0x13_1080_0000 ∧ 0x8000 ≤ a % 0x10_0000 ∧ a % 0x10_0000 < 0x1_0000 then
    some ⟨0x9000_A002 + (a - 0x13_1000_0000) / 0x10_0000 * 4, (a % 0x10_0000 - 0x8000) / 4, a / 4 * 4, .w32⟩
  else none

/-- The units of type 0x9 beside the queue buffers (R279, R310, R324, R360). -/
def ioUnit (r : Nat) : Bool :=
  decide (0x8000 ≤ r ∧ r < 0x8100) || decide (0x9000 ≤ r ∧ r < 0x9010) || decide (0xA000 ≤ r ∧ r < 0xA020) ||
    decide (0xB000 ≤ r ∧ r < 0xB030) || r == 0xB100

/-- Bytes of a unit that an access can name: port buffers, fawn data, templates. -/
def ioUnitBytes (r : Nat) : Nat :=
  if 0x8000 ≤ r ∧ r < 0x8100 then (if r % 4 < 2 then 0x8C else 0x100)
  else if 0xA000 ≤ r ∧ r < 0xA020 then (if r % 4 = 3 then 0x200 else if r % 4 = 2 then 0x8000 else 0)
  else if 0xB000 ≤ r ∧ r < 0xB030 then (if 2 ≤ r % 4 then 0x100 else 0)
  else 0

/-- The first byte of the word that a bank and a folded address name, where R175 and R478 give one. -/
def baseOf (bank fold : Nat) : Option Nat :=
  let t := bank / 2 ^ 28
  let r := bank % 2 ^ 28
  let a : Option Nat :=
    if t = 1 ∧ r < 32768 ∧ fold < 0x1000 then some (0x11_0000_2000 + r * 0x1_0000 + fold * 2)
    else if t = 2 ∧ r < 32768 ∧ fold < 0x200 then some (0x11_0000_0000 + r * 0x1_0000 + fold * 4)
    else if t = 3 ∧ r < 8192 ∧ fold / 0x1000 = r % 16 then some (0x10_0000_0000 + r / 16 * 0x4_0000 + fold * 4)
    else if t = 4 ∧ r < 168 ∧ fold < 0x400 then some (fawnProgAddr r fold)
    else if t = 6 ∧ r < 512 ∧ fold < 0x400 then some (0x12_0000_2000 + r * 0x1_0000 + fold * 4)
    else if t = 7 ∧ r < 512 ∧ fold < 0x400 then some (0x12_0000_3000 + r * 0x1_0000 + fold * 4)
    else if t = 8 ∧ fold < 0x2_0000_0000 ∧ hbmBank (fold * 8) = bank then some (fold * 8)
    else if t = 9 ∧ r < 32768 ∧ fold < 0x40 then some (queueBufBase + r * 0x400 + fold * 4)
    else if t = 9 ∧ fold * 4 < ioUnitBytes r then
      some (if 0xA000 ≤ r ∧ r < 0xA020 ∧ r % 4 = 2 then 0x13_1000_8000 + (r - 0xA000) / 4 * 0x10_0000 + fold * 4
        else ioAddr r (fold * 4))
    else none
  a

/-- Whether R175 gives the bank at all. -/
def bankExists (bank : Nat) : Bool :=
  let t := bank / 2 ^ 28
  let r := bank % 2 ^ 28
  (t == 1 || t == 2 || t == 9) && r < 32768 || t == 3 && r < 8192 || t == 4 && r < 168 ||
    (t == 5 || t == 6 || t == 7) && r < 512 || t == 8 && r < 8192 || t == 9 && ioUnit r

/-! ### The code (R152 to R158) -/

/-- The number of ones. -/
def weight : Nat → Nat → Nat
  | 0, _ => 0
  | n + 1, v => v % 2 + weight n (v / 2)

/-- The columns of a code with k check bits: weight 3 ascending, then weight 5 ascending (R152). -/
def columns (k : Nat) : List Nat :=
  ((List.range (2 ^ k)).filter (fun v => weight k v == 3)) ++ ((List.range (2 ^ k)).filter (fun v => weight k v == 5))

/-- The column of data bit i. -/
def dataCol (c : Code) (i : Nat) : Nat := (columns c.checkBits).getD i 0
/-- The column of address bit j. -/
def addrCol (c : Code) (j : Nat) : Nat := (columns c.checkBits).getD (c.dataBits + j) 0

/-- The exclusive or of the columns that the ones of v select. -/
def xorCols (col : Nat → Nat) (n v : Nat) : Nat :=
  (List.range n).foldl (fun x i => if bit v i then x ^^^ col i else x) 0

/-- The check bits of data at a folded address (R157). -/
def encodeCheck (c : Code) (d a : Nat) : Nat := xorCols (dataCol c) c.dataBits d ^^^ xorCols (addrCol c) c.addrBits a

/-- The decode of a stored word (R158, R160). -/
inductive Dec where
  | clean | unwritten | check | data (i : Nat) | addr (j : Nat) | uncorr | valid
deriving DecidableEq, Repr

/-- Decode a syndrome (R158). -/
def decodeSynd (c : Code) (s : Nat) : Dec :=
  if s = 0 then .clean
  else if weight c.checkBits s = 1 then .check
  else
    let i := (columns c.checkBits).idxOf s
    if i < c.dataBits then .data i
    else if i < c.dataBits + c.addrBits then .addr (i - c.dataBits)
    else .uncorr

/-- What an unlisted word of a code holds: unwritten in SRAM (R160), written and clean in HBM (R162). -/
def WMeta.blank (c : Code) : WMeta := match c with
  | .hbm => ⟨true, true, 0⟩
  | _ => ⟨false, false, 0⟩

def metaOf (s : State) (w : Loc) : WMeta := (alGet s.words w.base).getD (WMeta.blank w.code)

def setMeta (s : State) (w : Loc) (m : WMeta) : State :=
  { s with words := if m = WMeta.blank w.code then alDel s.words w.base else alSet s.words w.base m }

/-- Decode the stored word, valid copies first (R158, R160). -/
def decodeAt (s : State) (w : Loc) : Dec :=
  let m := metaOf s w
  match m.v0, m.v1 with
  | false, false => .unwritten
  | true, true => decodeSynd w.code m.synd
  | _, _ => .valid

/-- The data as stored. -/
def rawData (s : State) (w : Loc) : Nat := ofBytesLE (memGetMany s.mem w.base w.code.bytes)

/-- The data that a read of this decode returns. -/
def Dec.value (d : Dec) (raw : Nat) : Option Nat := match d with
  | .clean | .check => some raw
  | .unwritten => some 0
  | .data i => some (raw ^^^ 2 ^ i)
  | .addr _ | .uncorr | .valid => none

def Dec.correctable : Dec → Bool
  | .check | .data _ => true
  | _ => false
def Dec.bad : Dec → Bool
  | .addr _ | .uncorr | .valid => true
  | _ => false

/-! ### The log (R174) -/

/-- A log entry. -/
def logWord (kind : Nat) (rq : Rq) (w : Loc) (synd time : Nat) : Nat :=
  kind + rq.cls * 2 ^ 4 + w.bank * 2 ^ 8 + w.fold * 2 ^ 40 + synd * 2 ^ 80 + rq.id * 2 ^ 88 + bits time 30 7 * 2 ^ 104

/-- Write a log entry, or lose it where the log is full. -/
def logWrite (s : State) (kind : Nat) (rq : Rq) (w : Loc) (synd : Nat) : State :=
  if s.milog.length < 64 then
    let (t, s) := stamp s
    { s with milog := s.milog ++ [logWord kind rq w synd t] }
  else wr (incrSat s mi_LOSTCOUNT) mi_MIFAULT_LOGOVF 0 1

/-- The herd that owns a bank, where a herd does (R169). -/
def ownerHerd (bank : Nat) : Option Nat :=
  let t := bank / 2 ^ 28
  let r := bank % 2 ^ 28
  if t = 1 ∨ t = 2 then some (r / 64)
  else if t = 3 then some (r / 16)
  else if t = 5 ∨ t = 6 ∨ t = 7 then some r
  else if t = 9 ∧ r < 32768 then some (r / 64)
  else none

/-- Raise source 1 or 2 for a bank (R169). -/
def raiseBank (s : State) (bank src : Nat) : State :=
  match ownerHerd bank with
  | some h => raise s h src
  | none => raiseFault s src

/-! ### The repeat table (R168) -/

def rptOf (s : State) (bank : Nat) : List RptEnt := (alGet s.rpts bank).getD []
def setRpt (s : State) (bank : Nat) (t : List RptEnt) : State :=
  { s with rpts := if t.isEmpty then alDel s.rpts bank else alSet s.rpts bank t }

/-- The entry with the lowest count that has not risen for longest: the first of the lowest. -/
def lowestEnt : List RptEnt → Option RptEnt
  | [] => none
  | e :: t => match lowestEnt t with
    | none => some e
    | some f => if f.count < e.count then some f else some e

/-- A full write, a merge commit or a successful correct-in-place frees the entry. -/
def rptFree (s : State) (w : Loc) : State := setRpt s w.bank ((rptOf s w.bank).filter (fun e => e.addr != w.fold))

/-- A correctable read updates the table and gives at most one notice in the life of an entry. -/
def rptCount (s : State) (w : Loc) (rq : Rq) : State :=
  let t : List RptEnt := rptOf s w.bank
  let (e, t) : RptEnt × List RptEnt := match t.find? (fun e => e.addr == w.fold) with
    | some e => (({ e with count := satInc 15 e.count } : RptEnt), t.filter (fun f : RptEnt => f.addr != w.fold))
    | none =>
      let t := if t.length < 8 then t else match lowestEnt t with
        | some l => t.filter (fun f : RptEnt => f.addr != l.addr)
        | none => t
      ((⟨w.fold, 1, false⟩ : RptEnt), t)
  let thr := rd s mi_MICTRL_RPTTHR
  if thr ≠ 0 ∧ thr ≤ e.count ∧ e.noticed = false then
    let s := setRpt s w.bank (t ++ [{ e with noticed := true }])
    raiseBank (logWrite s 5 rq w 0) w.bank 2
  else setRpt s w.bank (t ++ [e])

/-! ### Reads (R166, R167, R171) -/

/-- Count and log a decode with its syndrome, as a read does. `table` says whether the repeat table is updated (R477). -/
def countSynd (s : State) (w : Loc) (synd : Nat) (d : Dec) (rq : Rq) (table : Bool) : State :=
  if d.correctable then
    let s := incr s mi_CECOUNT
    if table then rptCount s w rq else s
  else match d with
    | .addr _ => raiseBank (logWrite (incr (incr s mi_UECOUNT) mi_AFCOUNT) 2 rq w synd) w.bank 1
    | .uncorr => raiseBank (logWrite (incr s mi_UECOUNT) 1 rq w synd) w.bank 1
    | .valid => raiseBank (logWrite (incr s mi_UECOUNT) 3 rq w 0) w.bank 1
    | _ => s

/-- Count and log the decode of a stored word. -/
def countDec (s : State) (w : Loc) (d : Dec) (rq : Rq) (table : Bool) : State :=
  countSynd s w (metaOf s w).synd d rq table

/-- A word of engine state that no access can name is written and read again. Where a flip-mask is armed on its array, it is
open whether it falls on a word that is written and needed now (assumption 1); the answer says whether what is needed is
uncorrectable (R177, R310, R324, R360). -/
def stateHit (s : State) (bank : Nat) (rq : Rq) : Bool × State :=
  match s.flip with
  | none => (false, s)
  | some f =>
    if f.bank = bank then
      let (b, s) := freshBool s
      if b then
        let synd := xorCols (dataCol .w32) 32 (f.d % 2 ^ 32) ^^^ f.c % 128
        let d : Dec := if f.v then .valid else decodeSynd .w32 synd
        (d.bad, countSynd { s with flip := none } ⟨bank, f.addr, 0, .w32⟩ synd d rq true)
      else (false, s)
    else (false, s)

/-- The bytes gathered for a word in the merge buffers, over the bytes of the word (R166). -/
def overlay (s : State) (w : Loc) (bs : List Byte) : List Byte :=
  match s.merges.find? (fun m => m.word == w.base) with
  | none => bs
  | some m => (List.range bs.length).map (fun i => (m.got.lookup i).getD (bs.getD i 0))

/-- Read a word: its bytes, or none where it is uncorrectable. -/
def readWord (s : State) (w : Loc) (rq : Rq) : Option (List Byte) × State :=
  let d := decodeAt s w
  let s' := countDec s w d rq true
  ((d.value (rawData s w)).map (fun v => overlay s w (bytesLE w.code.bytes v)), s')

/-- Read n bytes from an array at address a: the words in ascending order, none where one is uncorrectable. `fuel`
bounds the words. -/
def readBytes (fuel : Nat) (s : State) (a n : Nat) (rq : Rq) : Option (List Byte) × State :=
  match fuel, n with
  | _, 0 => (some [], s)
  | 0, _ => (none, s)
  | fuel + 1, _ =>
    match locOf a with
    | none => (none, s)
    | some w =>
      let o := a - w.base
      let m := min n (w.code.bytes - o)
      let (r, s) := readWord s w rq
      let (r', s) := readBytes fuel s (a + m) (n - m) rq
      (match r, r' with
        | some x, some y => some ((x.drop o).take m ++ y)
        | _, _ => none, s)

/-- Read n bytes from an array. -/
def memRead (s : State) (a n : Nat) (rq : Rq) : Option (List Byte) × State := readBytes (n + 1) s a n rq

/-! ### Writes (R161, R163 to R165, R177) -/

/-- The bits of a word that its array keeps: containers drop the bits above the word (R25, R138). -/
def maskWord (c : Code) (base v : Nat) : Nat :=
  match c with
  | .kidProg => v % 2 ^ 14
  | .fawnProg => v % 2 ^ 12
  | .hbm => v % 2 ^ 64
  | .w32 =>
    if 0x10_0000_0000 ≤ base ∧ base < 0x10_0800_0000 ∧ 0x3_2000 ≤ base % 0x4_0000 then
      v % 2 ^ 14 + v / 2 ^ 16 % 2 ^ 14 * 2 ^ 16
    else v % 2 ^ 32

/-- A full write: new check bits, both valid copies, the repeat entry freed; an armed flip-mask acts and is consumed. -/
def fullWrite (s : State) (w : Loc) (v : Nat) : State :=
  let v := maskWord w.code w.base v
  let s := rptFree s w
  let put (s : State) (v : Nat) (m : WMeta) : State :=
    setMeta { s with mem := memSetMany s.mem w.base (bytesLE w.code.bytes v) } w m
  match s.flip with
  | some f =>
    if f.bank = w.bank ∧ f.addr = w.fold then
      let d := f.d % 2 ^ w.code.dataBits
      let c := f.c % 2 ^ w.code.checkBits
      put { s with flip := none } (v ^^^ d) ⟨true, !f.v || w.code == .hbm, xorCols (dataCol w.code) w.code.dataBits d ^^^ c⟩
    else put s v ⟨true, true, 0⟩
  | none => put s v ⟨true, true, 0⟩

/-- The report of a rejected commit: a kid that has not been reset or halted since receives a deferred trap 0x06
(R165, R171, R172). -/
def reportReject (s : State) (rq : Rq) (off : Nat) : State :=
  if rq.cls = 2 then
    if off = 1 then s else
    let c := kidOf s rq.id
    setKid s rq.id { c with deferred := c.deferred ++ [6] }
  else if rq.cls = 6 then hostErr s off
  else s

/-- Commit the merge entry of a word (R165). The read of a correctable word counts in CECOUNT, and the write frees the word's
repeat entry at once, so that this read makes no REPEAT notice: the model's choice (assumption 24). -/
def commitWord (s : State) (w : Loc) : State :=
  match s.merges.find? (fun m => m.word == w.base) with
  | none => s
  | some m =>
    let s := { s with merges := s.merges.filter (fun e => e.word != w.base) }
    let n := w.code.bytes
    let d := if (List.range n).all (fun i => (m.got.lookup i).isSome) then .clean else decodeAt s w
    match d.value (rawData s w) with
    | none =>
      let synd := if d = .valid then 0 else (metaOf s w).synd
      reportReject (raiseBank (logWrite (incr s mi_REJCOUNT) 4 m.rq w synd) w.bank 1) m.rq m.off
    | some v =>
      let s := if d.correctable then incr s mi_CECOUNT else s
      fullWrite s w (ofBytesLE ((List.range n).map (fun i => (m.got.lookup i).getD ((bytesLE n v).getD i 0))))

/-- The entries of requester rq whose commit would be rejected now are committed: their reports come (R81, R165). -/
def commitBad (s : State) (rq : Rq) : State :=
  (s.merges.filterMap (fun m => if m.rq = rq then locOf m.word else none)).foldl
    (fun s w => if (decodeAt s w).bad then commitWord s w else s) s

/-- The oldest merge entry of a bank. -/
def oldestMerge (s : State) (bank : Nat) : Option Loc :=
  ((s.merges.filterMap (fun m => locOf m.word)).find? (fun w => w.bank == bank))

/-- Put the bytes of a narrow write over those gathered. -/
def gather (got new : List (Nat × Byte)) : List (Nat × Byte) :=
  got.filter (fun e => (new.lookup e.1).isNone) ++ new

/-- Byte i of a word, without the bits that its container does not keep (R25). -/
def maskByte (w : Loc) (i : Nat) (b : Byte) : Byte :=
  BitVec.ofNat 8 (maskWord w.code w.base (b.toNat * 256 ^ i) / 256 ^ i)

/-- A write of bytes `bs` from byte o of a word: a full write, or a narrow write through the merge buffer. -/
def writeWord (s : State) (w : Loc) (o : Nat) (bs : List Byte) (rq : Rq) : State :=
  let s := if (s.merges.any (fun m => m.word == w.base && (m.rq != rq || bs.length == w.code.bytes)))
    then commitWord s w else s
  if bs.length = w.code.bytes then fullWrite s w (ofBytesLE bs)
  else
    let new := (List.range bs.length).map (fun i => (o + i, maskByte w (o + i) (bs.getD i 0)))
    match s.merges.find? (fun m => m.word == w.base) with
    | some m =>
      let s := { s with merges := s.merges.map (fun e => if e.word = w.base then { e with got := gather m.got new } else e) }
      if (List.range w.code.bytes).all (fun i => ((gather m.got new).lookup i).isSome) then commitWord s w else s
    | none =>
      let here := (s.merges.filterMap (fun m => locOf m.word)).filter (fun l => l.bank == w.bank)
      let s := if 2 ≤ here.length then match oldestMerge s w.bank with
        | some l => commitWord s l
        | none => s
        else s
      { s with merges := s.merges ++ [⟨w.base, rq, new, if rq.cls = 6 then s.host.cur else 0⟩] }

/-- Write bytes to an array at address a, word by word. -/
def writeBytes (fuel : Nat) (s : State) (a : Nat) (bs : List Byte) (rq : Rq) : State :=
  match fuel, bs with
  | _, [] => s
  | 0, _ => s
  | fuel + 1, _ =>
    match locOf a with
    | none => s
    | some w =>
      let o := a - w.base
      let m := min bs.length (w.code.bytes - o)
      writeBytes fuel (writeWord s w o (bs.take m) rq) (a + m) (bs.drop m) rq

/-- Write bytes to an array. -/
def memWrite (s : State) (a : Nat) (bs : List Byte) (rq : Rq) : State := writeBytes (bs.length + 1) s a bs rq

/-! ### Clearing (R161, R162, R423) -/

/-- Drop bytes, code words, merge entries and repeat tables of the arrays that a predicate on addresses names: SRAM words
become unwritten, HBM words clean zero. -/
def clearMem (s : State) (p : Nat → Bool) : State :=
  { s with
    mem := s.mem.filter (fun e => !p e.1)
    words := s.words.filter (fun e => !p e.1)
    merges := s.merges.filter (fun m => !p m.word) }

/-- Discard the merge entries of the banks that a predicate names (R182 case 9). -/
def dropMerges (s : State) (p : Nat → Bool) : State :=
  { s with merges := s.merges.filter (fun m => match locOf m.word with
    | some w => !p w.bank
    | none => true) }

/-- Reset the repeat tables of the banks that a predicate names. -/
def clearRpts (s : State) (p : Nat → Bool) : State := { s with rpts := s.rpts.filter (fun e => !p e.1) }

/-- Every valid bit of a bank is cleared (R407). -/
def clearBank (s : State) (bank : Nat) : State :=
  let s := clearMem s (fun a => match locOf a with
    | some w => w.bank == bank
    | none => false)
  clearRpts s (fun b => b == bank)

end Sys2Proof.Machine
end

