-- ==== Sys2Proof/Machine/Csi.lean ====
section
/-!
DEFINITION. The packets of CSI-2 as a camera port receives them after lane merging: the header with its ECC, the payload and its
CRC, and the pixels (R312, R313, R315; PRESUMED from MIPI CSI-2 v2.1, assumption 75).
-/

namespace Sys2Proof.Machine

/-- What a header says: the virtual channel, the data type, and the word count of a long packet. -/
structure CsiHeader where
  vc : Nat
  dt : Nat
  wc : Nat
deriving DecidableEq, Repr

/-- The 26 bits of a header that its ECC covers: data identifier, word count, channel extension. -/
def csiBits (h : Nat) : Nat := h % 2 ^ 24 + 2 ^ 24 * bits h 31 30

/-- The ECC of those bits: the columns of weight 3, then of weight 5. -/
def csiEcc (d : Nat) : Nat := xorCols (fun i => (columns 6).getD i 0) 26 d

/-- The 26 bits with a single wrong bit corrected, none where the ECC cannot correct them. -/
def csiCorrect (h : Nat) : Option Nat :=
  let d := csiBits h
  let synd := csiEcc d ^^^ bits h 29 24
  let i := (columns 6).idxOf synd
  if synd = 0 ∨ weight 6 synd = 1 then some d
  else if i < 26 then some (d ^^^ 2 ^ i)
  else none

/-- A received header. -/
def csiHeader (h : Nat) : Option CsiHeader :=
  (csiCorrect h).map (fun d => ⟨bits d 7 6 + 4 * bits d 25 24, bits d 5 0, bits d 23 8⟩)

/-- The CRC of a payload: x^16 + x^12 + x^5 + 1, the least significant bit of each byte first, from all ones. -/
def csiCrcBit (c : Nat) : Nat := if bit c 0 then c / 2 ^^^ 0x8408 else c / 2
def csiCrcByte (c : Nat) (b : Byte) : Nat := (List.range 8).foldl (fun c _ => csiCrcBit c) (c ^^^ b.toNat)
def csiCrc (bs : List Byte) : Nat := bs.foldl csiCrcByte 0xFFFF

/-- The payload of a long packet, where it is whole and its CRC is good. -/
def csiPayload (wc : Nat) (bs : List Byte) : Option (List Byte) :=
  let d := (bs.drop 4).take wc
  if bs.length = wc + 6 ∧ csiCrc d = ofBytesLE (bs.drop (4 + wc)) then some d else none

/-- A pixel of 12 bits from its upper 8 bits and the bits below them. -/
def pixelOf (b : Byte) (low : Nat) : BitVec 12 := BitVec.ofNat 12 (b.toNat * 16 + low)

/-- The pixels of RAW8, RAW10 and RAW12, shifted up to 12 bits (R315). -/
def raw8 (bs : List Byte) : List (BitVec 12) := bs.map (fun b => pixelOf b 0)
def raw10 : List Byte → List (BitVec 12)
  | a :: b :: c :: d :: l :: t =>
    let low (i : Nat) : Nat := bits l.toNat (2 * i + 1) (2 * i) * 4
    [pixelOf a (low 0), pixelOf b (low 1), pixelOf c (low 2), pixelOf d (low 3)] ++ raw10 t
  | _ => []
def raw12 : List Byte → List (BitVec 12)
  | a :: b :: l :: t => [pixelOf a (bits l.toNat 3 0), pixelOf b (bits l.toNat 7 4)] ++ raw12 t
  | _ => []

/-- The pixels of a payload, none for a data type that is not supported. -/
def unpack (dt : Nat) (bs : List Byte) : Option (List (BitVec 12)) :=
  if dt = 0x2A then some (raw8 bs) else if dt = 0x2B then some (raw10 bs) else if dt = 0x2C then some (raw12 bs) else none

end Sys2Proof.Machine
end

