-- ==== Sys2Proof/Machine/Num.lean ====
section
/-!
DEFINITION. The number formats of the oryx: exact arithmetic in the Q formats and IEEE 754 arithmetic in the floating
formats (R236 to R238), with the bound of CORDIC (R241).
-/

namespace Sys2Proof.Machine

/-! ### Formats (R236) -/

/-- Bytes of an element. -/
def fmtSize (f : Nat) : Nat := if f = 0 ∨ f = 1 ∨ f = 4 then 4 else 8
/-- Whether a format is floating. -/
def fmtFloat (f : Nat) : Bool := f == 4 || f == 5
/-- Fraction bits of a Q format. -/
def fmtFrac (f : Nat) : Nat := if f = 0 then 16 else if f = 1 then 31 else if f = 2 then 32 else 62

/-- The significand bits and the greatest exponent of a floating format. -/
def fpPrec (f : Nat) : Nat := if f = 4 then 24 else 53
def fpMax (f : Nat) : Int := if f = 4 then 127 else 1023
/-- The exponent of the least significant bit of the subnormals. -/
def fpLeast (f : Nat) : Int := 2 - fpMax f - fpPrec f

/-- What the flags of a completion gather (R231): SATF, INV, OVF, DOM, RNG, AWU. -/
structure Flags where
  satf : Bool := false
  inv  : Bool := false
  ovf  : Bool := false
  dom  : Bool := false
  rng  : Bool := false
  awu  : Bool := false
deriving DecidableEq, Repr

def Flags.or (a b : Flags) : Flags :=
  ⟨a.satf || b.satf, a.inv || b.inv, a.ovf || b.ovf, a.dom || b.dom, a.rng || b.rng, a.awu || b.awu⟩

/-- The flags in the order of STAT bits [21:16] (R244). -/
def Flags.word (a : Flags) : Nat :=
  b2n a.satf + 2 * b2n a.inv + 4 * b2n a.ovf + 8 * b2n a.dom + 16 * b2n a.rng + 32 * b2n a.awu

/-- A number: an exact dyadic m / 2^p, an IEEE zero with its sign, an infinity, or the NaN. -/
inductive Num where
  | fin (m : Int) (p : Nat)
  | negZero
  | inf (neg : Bool)
  | nan
deriving DecidableEq, Repr

/-- A number with the flags that its computation has raised. -/
structure Val where
  n : Num
  f : Flags := {}
deriving DecidableEq, Repr

/-- m * 2^e. -/
def scale (m : Int) (e : Int) : Num := if 0 ≤ e then .fin (m * 2 ^ e.toNat) 0 else .fin m (-e).toNat

/-- Floor of m / 2^p. -/
def floorDy (m : Int) (p : Nat) : Int := m / (2 ^ p : Nat)

/-- Round m / 2^p to an integer by RND (R234): nearest even, toward zero, toward minus or plus infinity. -/
def roundInt (rnd : Nat) (m : Int) (p : Nat) : Int :=
  let d : Int := (2 ^ p : Nat)
  let q := m / d
  let r := m % d
  if r = 0 then q
  else if rnd = 1 then (if m < 0 then q + 1 else q)
  else if rnd = 2 then q
  else if rnd = 3 then q + 1
  else if 2 * r < d then q
  else if d < 2 * r then q + 1
  else if q % 2 = 0 then q else q + 1

/-- Bits of a number. -/
def bitLen (n : Nat) : Nat := if n = 0 then 0 else n.log2 + 1

/-- Compare two finite numbers: m / 2^p < n / 2^q. -/
def ltDy (m : Int) (p : Nat) (n : Int) (q : Nat) : Bool := decide (m * (2 ^ q : Nat) < n * (2 ^ p : Nat))

/-- IEEE rounding of a nonzero exact value to a floating format (R238). -/
def roundFp (fmt rnd : Nat) (m : Int) (p : Nat) : Val :=
  let e : Int := bitLen m.natAbs - p - 1
  let q : Int := max (e + 1 - fpPrec fmt) (fpLeast fmt)
  let r := if 0 ≤ q then roundInt rnd m (p + q.toNat) else roundInt rnd (m * (2 ^ (-q).toNat : Nat)) p
  let big : Int := (2 ^ fpPrec fmt - 1 : Nat)
  let past : Bool := decide (fpMax fmt + 1 - fpPrec fmt < q) ||
    (decide (q = fpMax fmt + 1 - fpPrec fmt) && decide (big < r.natAbs))
  if past then
    let neg := decide (m < 0)
    let toInf := rnd == 0 || (rnd == 2 && neg) || (rnd == 3 && !neg)
    ⟨if toInf then .inf neg else scale (if neg then -big else big) (fpMax fmt + 1 - fpPrec fmt), { ovf := true }⟩
  else if r = 0 then ⟨if m < 0 then .negZero else .fin 0 0, {}⟩
  else ⟨scale r q, {}⟩

/-- The invalid result. -/
def invalid : Val := ⟨.nan, { inv := true }⟩

/-- Whether a number is negative, its zero and infinity included. -/
def Num.neg : Num → Bool
  | .fin m _ => decide (m < 0)
  | .negZero => true
  | .inf n => n
  | .nan => false

/-- A product without rounding; zero keeps its sign. -/
def mulExact : Num → Num → Num
  | .nan, _ => .nan
  | _, .nan => .nan
  | .inf a, y => match y with
    | .fin 0 _ => .nan
    | .negZero => .nan
    | y => .inf (a != y.neg)
  | x, .inf b => match x with
    | .fin 0 _ => .nan
    | .negZero => .nan
    | x => .inf (x.neg != b)
  | .negZero, y => if y.neg then .fin 0 0 else .negZero
  | x, .negZero => if x.neg then .fin 0 0 else .negZero
  | .fin 0 _, .fin n _ => if n < 0 then .negZero else .fin 0 0
  | .fin m _, .fin 0 _ => if m < 0 then .negZero else .fin 0 0
  | .fin m p, .fin n q => .fin (m * n) (p + q)

/-- The sign of an exact zero sum (IEEE 754): minus only toward minus infinity. -/
def zeroSum (rnd : Nat) : Num := if rnd = 2 then .negZero else .fin 0 0

/-- A sum, not yet rounded. -/
def addExact (rnd : Nat) : Num → Num → Num
  | .nan, _ => .nan
  | _, .nan => .nan
  | .inf a, .inf b => if a = b then .inf a else .nan
  | .inf a, _ => .inf a
  | _, .inf b => .inf b
  | .negZero, .negZero => .negZero
  | .negZero, .fin m p => if m = 0 then zeroSum rnd else .fin m p
  | .fin m p, .negZero => if m = 0 then zeroSum rnd else .fin m p
  | .fin m p, .fin n q =>
    let t := m * (2 ^ q : Nat) + n * (2 ^ p : Nat)
    if t = 0 then (if m = 0 then .fin 0 0 else zeroSum rnd) else .fin t (p + q)

/-- What an operation gives: exact in a Q format (R237), rounded once in a floating one (R238). -/
def Num.round (fmt rnd : Nat) : Num → Val
  | .nan => invalid
  | .fin m p => if fmtFloat fmt && m != 0 then roundFp fmt rnd m p else ⟨.fin m p, {}⟩
  | x => ⟨x, {}⟩

/-- An operation's result with the flags of its operands. -/
def Val.with (v : Val) (f : Flags) : Val := { v with f := v.f.or f }

def Val.fma (fmt rnd : Nat) (a b c : Val) : Val :=
  ((addExact rnd (mulExact a.n b.n) c.n).round fmt rnd).with ((a.f.or b.f).or c.f)
def Val.add (fmt rnd : Nat) (a b : Val) : Val := ((addExact rnd a.n b.n).round fmt rnd).with (a.f.or b.f)
def Num.negate : Num → Num
  | .fin m p => if m = 0 then .negZero else .fin (-m) p
  | .negZero => .fin 0 0
  | .inf n => .inf (!n)
  | .nan => .nan
def Val.sub (fmt rnd : Nat) (a b : Val) : Val := ((addExact rnd a.n b.n.negate).round fmt rnd).with (a.f.or b.f)
def Val.mul (fmt rnd : Nat) (a b : Val) : Val := ((mulExact a.n b.n).round fmt rnd).with (a.f.or b.f)

/-- An exact integer. -/
def Val.int (i : Int) : Val := ⟨.fin i 0, {}⟩

/-- a < b; false where either is a NaN. -/
def Num.lt : Num → Num → Bool
  | .nan, _ => false
  | _, .nan => false
  | .inf a, .inf b => a && !b
  | .inf a, _ => a
  | _, .inf b => !b
  | .negZero, .negZero => false
  | .negZero, .fin n _ => decide (0 < n)
  | .fin m _, .negZero => decide (m < 0)
  | .fin m p, .fin n q => ltDy m p n q

/-- −1, 0 or +1 (R475). -/
def Num.sign (x : Num) : Int := if x.lt (.fin 0 0) then -1 else if (Num.fin 0 0).lt x then 1 else 0

/-! ### Encodings -/

/-- Decode an element of a format. -/
def decodeNum (fmt v : Nat) : Num :=
  if fmtFloat fmt then
    let p := fpPrec fmt
    let w := fmtSize fmt * 8
    let neg := bit v (w - 1)
    let e := bits v (w - 2) (p - 1)
    let m := v % 2 ^ (p - 1)
    if e = 2 ^ (w - p) - 1 then (if m = 0 then .inf neg else .nan)
    else
      let sig : Int := if e = 0 then m else (m + 2 ^ (p - 1) : Nat)
      if sig = 0 then (if neg then .negZero else .fin 0 0)
      else scale (if neg then -sig else sig) (fpLeast fmt + (if e = 0 then 0 else (e : Int) - 1))
  else .fin (sext (fmtSize fmt * 8) v) (fmtFrac fmt)

/-- A decoded operand: a NaN operand sets STAT.INV when an operation consumes it. -/
def decodeVal (fmt v : Nat) : Val := ⟨decodeNum fmt v, {}⟩

/-- Encode a value that the format holds exactly. -/
def encodeFp (fmt : Nat) (x : Num) : Nat :=
  let p := fpPrec fmt
  let w := fmtSize fmt * 8
  let expAll := (2 ^ (w - p) - 1) * 2 ^ (p - 1)
  match x with
  | .nan => expAll + 2 ^ (p - 2)
  | .inf n => expAll + b2n n * 2 ^ (w - 1)
  | .negZero => 2 ^ (w - 1)
  | .fin m q =>
    if m = 0 then 0
    else
      let e : Int := bitLen m.natAbs - q - 1
      let lsb : Int := max (e + 1 - p) (fpLeast fmt)
      let sig : Nat := if 0 ≤ lsb then m.natAbs / 2 ^ (q + lsb.toNat) else m.natAbs * 2 ^ (-lsb).toNat / 2 ^ q
      let be : Nat := (lsb - fpLeast fmt).toNat
      let mag := if sig < 2 ^ (p - 1) then sig else sig - 2 ^ (p - 1) + (be + 1) * 2 ^ (p - 1)
      mag + b2n (decide (m < 0)) * 2 ^ (w - 1)

/-- A Q result, rounded once; out of range it saturates or wraps, and sets STAT.SATF (R237). -/
def encodeQ (fmt rnd : Nat) (sat : Bool) (m : Int) (p : Nat) : Nat × Bool :=
  let w := fmtSize fmt * 8
  let r := roundInt rnd (m * (2 ^ fmtFrac fmt : Nat)) p
  let hi : Int := (2 ^ (w - 1) : Nat)
  let out := decide (r < -hi) || decide (hi ≤ r)
  let r := if out && sat then (if r < 0 then -hi else hi - 1) else r
  (twos w r, out)

/-- The result of a command as it is written (R237, R238). -/
def encodeVal (fmt rnd : Nat) (sat : Bool) (v : Val) : Nat × Flags :=
  if fmtFloat fmt then (encodeFp fmt v.n, v.f)
  else match v.n with
    | .fin m p =>
      let (r, out) := encodeQ fmt rnd sat m p
      (r, v.f.or { satf := out })
    | _ => (0, v.f)

/-! ### CORDIC (R241): the exact value to a relative error far below the last place, and the open choice within 2 ulp -/

/-- The integer square root by Newton's method, from above; `fuel` bounds the steps. -/
def isqrtStep : Nat → Nat → Nat → Nat
  | 0, _, x => x
  | fuel + 1, n, x =>
    let y := (x + n / x) / 2
    if y < x then isqrtStep fuel n y else x
def isqrt (n : Nat) : Nat := if n = 0 then 0 else isqrtStep (bitLen n + 8) n (2 ^ (bitLen n / 2 + 1))

/-- Σ (−1)^i t^(2i+1) / (2i+1) in fixed point with w fraction bits, |t| small: arctangent by its series. -/
def atanSeries : Nat → Nat → Nat → Int → Int → Int
  | 0, _, _, _, _ => 0
  | fuel + 1, w, i, term, t2 => term / (2 * i + 1 : Nat) - atanSeries fuel w (i + 1) (term * t2 / (2 ^ w : Nat)) t2

/-- arctan t for 0 ≤ t ≤ 2^w (t in fixed point): three half-angle steps and the series. -/
def atanHalf (w : Nat) (t : Nat) : Nat := t * 2 ^ w / (2 ^ w + isqrt (2 ^ (2 * w) + t * t))
def atanFix (w t : Nat) : Int :=
  let u := atanHalf w (atanHalf w (atanHalf w t))
  8 * atanSeries (w / 5 + 4) w 0 u ((u * u / 2 ^ w : Nat))

/-- π in fixed point: four times the arctangent of 1. -/
def piFix (w : Nat) : Int := 4 * atanFix w (2 ^ w)

/-- The sine and cosine series of x in fixed point. -/
def trigSeries : Nat → Nat → Nat → Int → Int → Int
  | 0, _, _, _, _ => 0
  | fuel + 1, w, i, term, x2 =>
    term - trigSeries fuel w (i + 2) (term * x2 / (2 ^ w : Nat) / (((i + 1) * (i + 2) : Nat) : Int)) x2
def cosFix (w : Nat) (x : Int) : Int := trigSeries (w / 4 + 20) w 0 (2 ^ w : Nat) (x * x / (2 ^ w : Nat))
def sinFix (w : Nat) (x : Int) : Int := trigSeries (w / 4 + 20) w 1 x (x * x / (2 ^ w : Nat))

/-- An angle m / 2^p as radians in fixed point, reduced to one turn: radians in floating formats, half-turns in Q. -/
def reduceAngle (fmt w : Nat) (m : Int) (p : Nat) : Int :=
  if fmtFloat fmt then
    let big := w + bitLen m.natAbs
    let two := 2 * piFix big
    let x := m * (2 ^ big : Nat) / (2 ^ p : Nat)
    let r := x % two
    let r := if two < 2 * r then r - two else r
    r / (2 ^ (big - w) : Nat)
  else
    let d : Int := (2 ^ p : Nat)
    let h := m % (2 * d)
    let h := if d ≤ h then h - 2 * d else h
    h * piFix w / d

/-- Fraction bits that keep the relative error of every result below 2^-190. -/
def workBits (p : Nat) : Nat := 320 + p

/-- Candidates for a result with exact value x / 2^w: the encodings within 2 ulp of it, in ascending order (R241). -/
def nearCodes (fmt : Nat) (x : Int) (w : Nat) : List Int :=
  let p := fpPrec fmt
  let (lsbUp, lsbDn) : Nat × Nat :=
    if fmtFloat fmt then
      let e : Int := bitLen x.natAbs - w - 1
      let q : Int := max (e + 1 - p) (fpLeast fmt)
      (q.toNat, (-q).toNat)
    else (0, fmtFrac fmt)
  let c := roundInt 0 (x * (2 ^ lsbDn : Nat)) (w + lsbUp)
  let ulp : Int := (2 ^ (w + lsbUp) : Nat)
  ([c - 2, c - 1, c, c + 1, c + 2]).filter (fun i => decide ((i * ulp - x * (2 ^ lsbDn : Nat)).natAbs ≤ 2 * 2 ^ (w + lsbUp)))

/-- The place of the last bit of a result. -/
def nearLsb (fmt : Nat) (x : Int) (w : Nat) : Int :=
  if fmtFloat fmt then max ((bitLen x.natAbs : Int) - w - fpPrec fmt) (fpLeast fmt) else -(fmtFrac fmt : Int)

/-- A zero of a floating result, whose sign R241 leaves open. -/
def eitherZero (neg : Bool) : Val := ⟨if neg then .negZero else .fin 0 0, {}⟩

/-- One result of CORDIC: which candidate is returned, and the sign of a zero, are the open choice `pick`. An angle in a
Q format is taken modulo 2 half-turns into [−1, 1) (`angle`). -/
def nearVal (fmt : Nat) (angle : Bool) (x : Int) (w pick : Nat) : Val :=
  let one : Int := (2 ^ fmtFrac fmt : Nat)
  let l := nearCodes fmt x w
  let i := l.getD (pick % (max l.length 1)) 0
  let i := if angle && !fmtFloat fmt then (i + one) % (2 * one) - one else i
  match scale i (nearLsb fmt x w) with
  | .fin m p => if fmtFloat fmt then (if m = 0 then eitherZero (pick / 5 % 2 == 1) else roundFp fmt 0 m p) else ⟨.fin m p, {}⟩
  | y => ⟨y, {}⟩

/-- A number's numerator and scale, zeros as 0. -/
def Num.parts : Num → Option (Int × Nat)
  | .fin m p => some (m, p)
  | .negZero => some (0, 0)
  | _ => none

/-- cos and sin of an angle (R241). -/
def cordicCosSin (fmt : Nat) (pick : Nat × Nat) (t : Num) : Val × Val :=
  match t.parts with
  | some (m, p) =>
    let w := workBits p
    let x := reduceAngle fmt w m p
    (nearVal fmt false (cosFix w x) w pick.1, nearVal fmt false (sinFix w x) w pick.2)
  | none => (invalid, invalid)

/-- arctan2 of y and x (not both zero) as radians in fixed point. -/
def atan2Fix (w : Nat) (y x : Int) : Int :=
  let ay := y.natAbs
  let ax := x.natAbs
  let base : Int := if ay ≤ ax then atanFix w (ay * 2 ^ w / ax) else piFix w / 2 - atanFix w (ax * 2 ^ w / ay)
  let a := if x < 0 then piFix w - base else base
  if y < 0 then -a else a

/-- atan2(y, x) and the magnitude of finite operands (R241). In a Q format the angle π is returned as −1.0. -/
def cordicPolar (fmt : Nat) (pick : Nat × Nat) (y : Int) (py : Nat) (x : Int) (px : Nat) : Val × Val :=
  let yy := y * (2 ^ px : Nat)
  let xx := x * (2 ^ py : Nat)
  let w := 320 + bitLen xx.natAbs + bitLen yy.natAbs
  let mag : Int := isqrt ((xx * xx + yy * yy).toNat * 2 ^ (2 * w))
  let a := atan2Fix w yy xx
  let a := if fmtFloat fmt then a else a * (2 ^ w : Nat) / piFix w
  let v := if !fmtFloat fmt && decide (y = 0) && decide (x < 0) then .int (-1) else nearVal fmt true a w pick.1
  (v, nearVal fmt false mag (w + px + py) pick.2)

/-- The angle of two infinite operands, of which R241 states no value: any encoding, the open choice `pick`. -/
def anyAngle (fmt pick : Nat) : Val := ⟨decodeNum fmt (pick % 256 ^ fmtSize fmt), {}⟩

/-- The angle of a negative zero y and a negative x: π or −π, which R241 does not tell apart. -/
def eitherPi (pick : Nat) (y x : Num) (v : Val) : Val :=
  if y = .negZero ∧ x.neg ∧ pick / 10 % 2 = 1 then { v with n := v.n.negate } else v

/-- CORDIC function 1. One infinite operand has the angle of the limit and an infinite magnitude. -/
def cordicAtan2 (fmt : Nat) (pick : Nat × Nat) (y x : Num) : Val × Val :=
  if y = .nan ∨ x = .nan then (invalid, invalid)
  else match y.parts, x.parts with
  | some (a, pa), some (b, pb) =>
    if a = 0 ∧ b = 0 then (⟨.fin 0 0, { dom := true }⟩, ⟨.fin 0 0, {}⟩)
    else
      let (v, g) := cordicPolar fmt pick a pa b pb
      (eitherPi pick.1 y x v, g)
  | none, none => (anyAngle fmt pick.1, ⟨.inf false, {}⟩)
  | ya, _ =>
    let one (neg : Bool) : Int := if neg then -1 else 1
    let flat := (cordicPolar fmt pick 0 0 (one x.neg) 0).1
    let a := if ya.isNone then (cordicPolar fmt pick (one y.neg) 0 0 0).1
      else if y.lt (.fin 0 0) then { flat with n := flat.n.negate } else eitherPi pick.1 y x flat
    (a, ⟨.inf false, {}⟩)

end Sys2Proof.Machine
end

