-- ==== Sys2Proof/Machine/Doorbell.lean ====
section
/-!
DEFINITION. The doorbell controllers and the level bridges (R212 to R228).
-/

namespace Sys2Proof.Machine

/-- A write that reaches the HDC of herd h. -/
def atHdc (s : State) (h : Nat) (q : BusReq) (act : State → State) : Out :=
  atBlock s (herdDom h) (s.rst.herds.contains h) q act

/-- A write of RING (R213). -/
def ringOp (s : State) (h : Nat) (src : Byte) : State :=
  if src.toNat < 64 then wr s hd_HDCFAULT_DEVRING h 1 else pendSource s h src.toNat

/-- A write of CMPL (R220 cases 4 and 5). -/
def cmplOp (s : State) (h : Nat) (src : Byte) : State :=
  if srcBit s hd_ACTIVE h src.toNat then clearActive s h src.toNat else incr s hd_SPURCMP h

/-- A write of a PEND byte (R222). -/
def pendOp (s : State) (h i : Nat) (v : Byte) : State :=
  wr s hd_PEND h (if i < 8 then rd s hd_PEND h i &&& v.toNat else v.toNat) i

/-- Ones of v that are new against the old value and set in `act`. -/
def risen (v old act : Nat) : Nat :=
  ((List.range 8).filter (fun b => bit v b && !bit old b && bit act b)).length

/-- A write of a MASK byte (R224). -/
def maskOp (s : State) (h i : Nat) (v : Byte) : State :=
  let n := risen v.toNat (rd s hd_MASK h i) (rd s hd_ACTIVE h i)
  wr (wr s hd_LATEMASK h (rd s hd_LATEMASK h + n)) hd_MASK h v.toNat i

/-- HDCCTL.CNTCLR (R221). -/
def hdcClear (s : State) (h : Nat) : State := wr (wr (wr s hd_CLAIMS h 0) hd_SPURCMP h 0) hd_LATEMASK h 0

/-- A source is claimable (R216). -/
def claimable (s : State) (h src : Nat) : Bool :=
  srcBit s hd_PEND h src && !srcBit s hd_MASK h src && !srcBit s hd_ACTIVE h src

/-- A kid is eligible for delivery (R217). -/
def eligible (s : State) (k : Nat) : Bool :=
  decide (kstate s k < 2) && rdb s kd_KMODE_DBE k && !rdb s kd_KMODE_INDB k && !rdb s kd_KMODE_INTR k &&
    (kidOf s k).deliv.isNone

/-- The kids of herd h in the order of the rotation pointer (R216). -/
def rotation (s : State) (h : Nat) : List Nat :=
  (List.range 64).map (fun i => h * 64 + ((hdcOf s h).rot + i) % 64)

/-- The first kid with the lowest LEVEL. -/
def lowestLevel (s : State) : List Nat → Option Nat
  | [] => none
  | k :: ks => match lowestLevel s ks with
    | none => some k
    | some j => if rd s kd_KPRIO_LEVEL j < rd s kd_KPRIO_LEVEL k then some j else some k

/-- The source and the kid of the next claim, if one is due s (R216). -/
def nextClaim (s : State) (h : Nat) : Option (Nat × Nat) :=
  match (List.range 256).find? (claimable s h), lowestLevel s ((rotation s h).filter (eligible s)) with
  | some src, some k => some (src, k)
  | _, _ => none

/-- The claim point (R218). -/
def claimOp (s : State) (h src k : Nat) : State :=
  let i := src / 8
  let s := wr s hd_PEND h (clrBit (rd s hd_PEND h i) (src % 8)) i
  let s := wr s hd_ACTIVE h (setBit (rd s hd_ACTIVE h i) (src % 8)) i
  let s := incr s hd_ARRC h i
  let s := incr s hd_CLAIMS h
  let s := wr s hd_LASTCLAIM_SRC h src
  let s := wr s hd_LASTCLAIM_KID h (k % 64)
  let s := wr s hd_LASTCLAIM_V h 1
  let c := hdcOf s h
  let s := setHdc s h { c with recd := alSet c.recd src k, rot := (k % 64 + 1) % 64 }
  setKid s k { kidOf s k with deliv := some (BitVec.ofNat 8 src, false) }

/-- RING. -/
def execRing (h : HerdId) (src : Byte) (s : State) : Out :=
  atHdc s h (regReq hd_RING h 0 src.toNat 1) (fun s => ringOp s h src)

/-- CMPL. -/
def execCmpl (h : HerdId) (src : Byte) (s : State) : Out :=
  atHdc s h (regReq hd_CMPL h 0 src.toNat 1) (fun s => cmplOp s h src)

/-- PEND. -/
def execPend (h : HerdId) (i : Fin 32) (v : Byte) (s : State) : Out :=
  atHdc s h (regReq hd_PEND h i v.toNat 1) (fun s => pendOp s h i v)

/-- MASK. -/
def execMask (h : HerdId) (i : Fin 32) (v : Byte) (s : State) : Out :=
  atHdc s h (regReq hd_MASK h i v.toNat 1) (fun s => maskOp s h i v)

/-- HDCCTL_CNTCLR. -/
def execHdcctlCntclr (h : HerdId) (s : State) : Out :=
  atHdc s h (regReq hd_HDCCTL_CNTCLR h 0 1 1) (fun s => hdcClear s h)

/-- CLAIM_POINT: due whenever a source is claimable and a kid eligible. -/
def execClaimPoint (h : HerdId) (s : State) : Out :=
  if herdHeld s h then .next s
  else match nextClaim s h with
    | some (src, k) => .next (claimOp s h src k)
    | none => .next s

/-- Drive a DBIN pin so that bridge i sees it asserted or not (R225, R226 POL). -/
def setDbin (s : State) (i : Nat) (asserted : Bool) : State :=
  let high := asserted != rdb s br_POL 0 i
  { s with pins := { s.pins with dbin := if high then setBit s.pins.dbin i else clrBit s.pins.dbin i } }

/-- A bridge sends its message and waits for the completion. -/
def bridgeSend (s : State) (i : Nat) : State :=
  wr (raise s (rd s br_HERD 0 i) (rd s br_SOURCE 0 i)) br_WAITING 0 1 i

/-- LEVEL_ASSERT: an unmapped bridge ignores its pin (R52 case 6). -/
def execLevelAssert (i : Fin 16) (s : State) : Out :=
  if !rdb s br_MAPPED 0 i then .next (setDbin s i true)
  else if rdb s br_LEVEL 0 i then .next s
  else
    let s := wr (setDbin s i true) br_LEVEL 0 1 i
    .next (if rdb s br_WAITING 0 i then s else bridgeSend s i)

/-- LEVEL_NEGATE. -/
def execLevelNegate (i : Fin 16) (s : State) : Out :=
  if !rdb s br_MAPPED 0 i then .next (setDbin s i false)
  else if rdb s br_LEVEL 0 i then .next (wr (setDbin s i false) br_LEVEL 0 0 i)
  else .next s

/-- A write of REARM (R225). -/
def rearmOp (s : State) (i : Nat) : State :=
  let s := wr s br_WAITING 0 0 i
  if rdb s br_LEVEL 0 i then bridgeSend s i else s

/-- REARM. -/
def execRearm (i : Fin 16) (s : State) : Out := served s (fun s => rearmOp s i)

end Sys2Proof.Machine
end

