-- ==== Sys2Proof/Machine/Queue.lean ====
section
/-!
DEFINITION. Queues: producer and consumer endpoints, their ports, the route between them, marks, demands and notices
(R183 to R211).
-/

namespace Sys2Proof.Machine

/-! ### Endpoints -/

/-- ROLE: 0 no queue, 1 producer, 2 consumer (R209). -/
def role (s : State) (e : Nat) : Nat := rd s qx_ROLE e

/-- The owner of an endpoint (R189): one kid of the herd, any kid of the herd, or one device engine. -/
def ownedBy (s : State) (e : Nat) : Agent → Bool
  | .kid k => decide (k.val / 64 = e / 64) && (rd s qx_OWNER e == k.val % 64 || rd s qx_OWNER e == 0x40)
  | .fawn f => rd s qx_OWNER e == 0x41 && rd s qx_ENGINE e == 0x4000 + f.val
  | _ => false

/-- Whether a device engine of the given code owns the endpoint (R380). -/
def ownedByEngine (s : State) (e code : Nat) : Bool := rd s qx_OWNER e == 0x41 && rd s qx_ENGINE e == code

/-- The endpoint's doorbell (R205). -/
def epDoorbell (s : State) (e : Nat) : State :=
  raiseMapped s (rdb s qx_EPDB_MAPPED e) (rd s qx_EPDB_HERD e) (16 + rd s qx_EPDB_SRC e)

/-- A notice bit is set: a change from 0 to 1 sends the doorbell (R200, R205). -/
def notice (s : State) (F : Fld) (e : Nat) : State := if rdb s F e then s else epDoorbell (wr s F e 1) e

/-- The two ends of a queue lie on this node (R203). -/
def peerHere (s : State) (e : Nat) : Bool := rd s qx_PEERNODE e == rd s rt_NODEID
def peerEp (s : State) (e : Nat) : Nat := rd s qx_PEEREP e

/-- Whether the herd of an endpoint takes queue traffic now: on, not in reset, and not fenced (R401, R420, R430 case 3). -/
def epOpen (s : State) (e : Nat) : Bool := !herdHeld s (e / 64) && rd s hf_HSTAT_FENCE (e / 64) == 0

/-- LEN of a header, and the storage size of a clause (R184, R185). -/
def lenOf (h : Nat) : Nat := h % 2048
def sizeOfLen (len : Nat) : Nat := roundUp8 (4 + len)
def Clz.len (c : Clz) : Nat := lenOf c.hdr
def Clz.size (c : Clz) : Nat := sizeOfLen c.len
def Clz.whole (c : Clz) : Bool := decide (c.len ≤ c.arr)
def sizes (l : List Clz) : Nat := (l.map Clz.size).foldl (· + ·) 0

/-! ### Watermarks (R199, R200) -/

/-- LEVEL: every unreleased clause whose header has arrived, plus HELD. -/
def Cons.level (c : Cons) : Nat := sizes c.cls + sizes c.held
def Cons.heldSize (c : Cons) : Nat := sizes c.held

/-- ABOVEHI and BELOWLO for the present LEVEL. -/
def levelled (s : State) (e : Nat) : State :=
  let c := consOf s e
  setCons s e { c with above := decide (rd s qx_HIWM e ≤ c.level), below := decide (c.level < rd s qx_LOWM e) }

/-- The comparisons are evaluated again: PEAK, and the notices of those that become true. -/
def relevel (s : State) (e : Nat) : State :=
  let c := consOf s e
  let s := levelled (if rd s qx_PEAK e < c.level then wr s qx_PEAK e c.level else s) e
  let d := consOf s e
  let s := if d.above && !c.above then notice s qx_NOTE_HIGH e else s
  if d.below && !c.below then notice s qx_NOTE_LOW e else s

/-! ### The buffers of endpoints (R184, R210) -/

/-- The requester of queue traffic in the log (R174). -/
def queueRq (e : Nat) : Rq := ⟨5, e⟩

/-- The word that holds offset o of the buffer of endpoint e. -/
def bufLoc (e o : Nat) : Loc :=
  ⟨0x9000_0000 + e, o % 256 / 4, queueBufBase + e * 0x400 + o % 256 / 4 * 4, .w32⟩

/-- Put a byte at offset o of the buffer of endpoint e. -/
def bufPut (s : State) (e o : Nat) (b : Byte) : State :=
  memWrite s (queueBufBase + e * 0x400 + o % 256) [b] (queueRq e)

/-- Merge entries of a buffer are committed. -/
def bufCommit (s : State) (e : Nat) : Nat → State
  | 0 => s
  | n + 1 => match oldestMerge s (0x9000_0000 + e) with
    | some w => bufCommit (commitWord s w) e n
    | none => s

/-! ### The producer side (R187, R190 to R192) -/

/-- The storage bytes of the clauses with bytes in the tail buffer. -/
def Prod.stored (p : Prod) : Nat := (p.cls.map (fun c => sizeOfLen c.1)).foldl (· + ·) 0

/-- The bytes of the last clause that have not been put in the tail buffer. -/
def Prod.todo (p : Prod) : Nat := p.rem + p.padn

/-- The storage position of the next byte to be put in the tail buffer (R184). -/
def Prod.endPos (p : Prod) : Nat := match p.cls.getLast? with
  | none => p.base
  | some c => if p.todo = 0 then p.base + p.stored else p.base + p.stored - sizeOfLen c.1 + (4 + c.1) - p.todo

/-- The positions of the tail buffer in use. -/
def Prod.used (p : Prod) : Nat := p.endPos - (p.base + p.out)

/-- The bytes pushed and not yet sent on the route. -/
def Prod.count (p : Prod) : Nat := (p.cls.map (fun c => 4 + c.1)).foldl (· + ·) 0 - p.out - p.todo

/-- What one pushed byte does; `put` are the bytes that enter the tail buffer, from the end position on. -/
inductive PushStep where
  | ok (p : Prod) (opened : Bool) (put : List Byte)
  | bad (p : Prod)
  | noRoom
  | noStorage (size : Nat)

/-- Accept one byte at the endpoint, its PFREE and tail room allowing. The bytes of a header take their room as they come, and
enter the buffer with the last of them (assumption 72). -/
def Prod.byte (p : Prod) (b : Byte) (tailMax : Nat) : PushStep :=
  if p.bad then .ok p false []
  else if tailMax ≤ p.used + p.hdr.length then .noRoom
  else if 0 < p.rem then .ok { p with rem := p.rem - 1 } false [b]
  else if p.hdr.length < 3 then .ok { p with hdr := p.hdr ++ [b] } false []
  else
    let len := lenOf (ofBytesLE (p.hdr ++ [b]))
    if 1024 < len then .bad { p with bad := true, hdr := [], lock := none }
    else if p.pfree < sizeOfLen len then .noStorage (sizeOfLen len)
    else .ok { p with hdr := [], rem := len, cls := p.cls ++ [(len, false)], pfree := p.pfree - sizeOfLen len, seq := p.seq + 1 }
      true (p.hdr ++ [p.seq])

/-- What a whole PUSH store does: all of it, with the bytes that it puts in the tail buffer and their positions, or a wait for
tail room or for storage (R191, R211 case 12). -/
inductive PushRes where
  | done (p : Prod) (opened : Nat) (bad : Bool) (puts : List (Nat × Byte))
  | wait (storage : Bool)

/-- Accept the bytes of a store one after another. `lk` is the kid to lock to in a shared endpoint. -/
def Prod.bytes (p : Prod) (lk : Option Nat) (tailMax : Nat) (opened : Nat) (bad : Bool) (puts : List (Nat × Byte)) :
    List Byte → PushRes
  | [] => .done p opened bad puts
  | b :: bs => match p.byte b tailMax with
    | .noRoom => .wait false
    | .noStorage _ => .wait true
    | .bad p => Prod.bytes p lk tailMax opened true puts bs
    | .ok q o new =>
      let mid := decide (0 < q.rem) || decide (0 < q.hdr.length)
      Prod.bytes { q with lock := if mid && !q.bad then lk else none } lk tailMax (opened + b2n o) bad
        (puts ++ (List.range new.length).map (fun i => (p.endPos + i, new.getD i 0))) bs

/-- The tail buffer (R183). -/
def tailSize : Nat := 256

/-- Whether the lock keeps a kid's store waiting (R191). -/
def Prod.lockedOut (p : Prod) : Agent → Bool
  | .kid k => match p.lock with
    | some j => j != k.val
    | none => false
  | _ => false

/-- The lock that a store of this agent takes. -/
def lockFor (s : State) (e : Nat) : Agent → Option Nat
  | .kid k => if rd s qx_OWNER e = 0x40 then some k.val else none
  | _ => none

/-- Perform a PUSH store now, if it can complete. -/
def tryPush (s : State) (e : Nat) (ag : Agent) (bs : List Byte) : PushRes :=
  let p := prodOf s e
  if p.bad then .done p 0 false []
  else if p.lockedOut ag then .wait false
  else p.bytes (lockFor s e ag) tailSize 0 false [] bs

/-- The effects of a store that completes. -/
def pushDone (s : State) (e : Nat) (p : Prod) (opened : Nat) (bad : Bool) (puts : List (Nat × Byte)) : State :=
  let old := prodOf s e
  let s := setProd s e { p with waitq := old.waitq, asked := old.asked }
  let s := puts.foldl (fun s x => bufPut s e x.1 x.2) s
  let s := wr s qx_CLAUSES e (rd s qx_CLAUSES e + opened)
  if bad then notice s qx_EPFAULT_BADLEN e else s

/-- A PUSH store of an agent that owns the endpoint: it completes, or it waits in arrival order and a demand goes to the
consumer where storage is short (R191, R192, R202). -/
def pushOp (s : State) (e : Nat) (r : PushReq) : State :=
  let bs := bytesLE r.n r.v
  let p := prodOf s e
  let res : PushRes := if p.waitq.isEmpty || p.bad || !(p.lockedOut r.ag) && (p.waitq.all (fun w => p.lockedOut w.ag))
    then tryPush s e r.ag bs else .wait false
  match res with
  | .done q o b w => { pushDone s e q o b w with reply := .done }
  | .wait storage =>
    let s := if storage then incr s qx_WAITS e else s
    { setProd s e { p with waitq := p.waitq ++ [{ r with short := storage }], asked := p.asked || storage } with reply := .waits }

/-- The first waiting store that the lock does not keep out. -/
def Prod.front (p : Prod) : Option PushReq := p.waitq.find? (fun r => !p.lockedOut r.ag)

/-- The header of that store finds PFREE too small. -/
def frontShort (s : State) (e : Nat) : Bool := match (prodOf s e).front with
  | none => false
  | some r => match tryPush s e r.ag (bytesLE r.n r.v) with
    | .wait storage => storage
    | .done .. => false

/-- The waiting stores, with the front one noted as short of storage. -/
def Prod.noteFront (p : Prod) : List PushReq → List PushReq
  | [] => []
  | r :: rs => if p.lockedOut r.ag then r :: p.noteFront rs else { r with short := true } :: rs

/-- A store that has come to the front finds PFREE too small: it counts in WAITS, and a demand goes to the consumer. One that
has found it so before asks once more only where storage has come back (`again`). -/
def findShort (s : State) (e : Nat) (again : Bool) : State :=
  let p := prodOf s e
  match p.front with
  | none => s
  | some r =>
    if frontShort s e && (again || !r.short) then
      let s := if r.short then s else incr s qx_WAITS e
      setProd s e { p with waitq := p.noteFront p.waitq, asked := true }
    else s

/-- The first waiting store that can complete now, with the others (R191: in the order of their arrival). -/
def nextPush (s : State) (e : Nat) : List PushReq → List PushReq →
    Option (PushReq × List PushReq × Prod × Nat × Bool × List (Nat × Byte))
  | [], _ => none
  | r :: rs, before => match tryPush s e r.ag (bytesLE r.n r.v) with
    | .done p o b w => some (r, before.reverse ++ rs, p, o, b, w)
    | .wait _ => if (prodOf s e).lockedOut r.ag then nextPush s e rs (r :: before) else none

/-- RESYNC (R187). -/
def resyncOp (s : State) (e : Nat) : State := setProd s e { prodOf s e with bad := false }

/-- Zero bytes of a clause that a reset completed enter the tail buffer as far as there is room. -/
def fillPad (s : State) (e : Nat) : State :=
  let p := prodOf s e
  let n := min p.padn (tailSize - p.used)
  (List.range n).foldl (fun s i => bufPut s e (p.endPos + i) 0) (setProd s e { p with padn := p.padn - n })

/-- A reset completes the open clause with zero bytes, or drops a partial header (R211 cases 1 and 13). -/
def padClause (s : State) (e : Nat) : State :=
  let p := prodOf s e
  let cls := if 0 < p.rem then p.cls.dropLast ++ (p.cls.getLast?.map (fun c => (c.1, true))).toList else p.cls
  fillPad (setProd s e { p with hdr := [], rem := 0, lock := none, cls := cls, padn := p.padn + p.rem }) e

/-- A byte on the route: the byte, none where its word was uncorrectable in the tail buffer (R210), whether it is the last of a
clause that a reset completed, whether it is a header byte, and the LEN of its clause. -/
structure RByte where
  b    : Option Byte
  pad  : Bool
  hd   : Bool
  len  : Nat

/-- The producer side after m bytes of its front clause have left. -/
def Prod.routed (p : Prod) (m : Nat) : Prod := match p.cls with
  | [] => p
  | c :: rest => if 4 + c.1 ≤ p.out + m then { p with cls := rest, base := p.base + sizeOfLen c.1, out := 0 }
    else { p with out := p.out + m }

/-- The next n bytes leave the tail buffer, word by word. -/
def tailTake : Nat → State → Nat → Nat → List RByte × State
  | 0, s, _, _ => ([], s)
  | fuel + 1, s, e, n =>
    let p := prodOf s e
    match p.cls with
    | [] => ([], s)
    | c :: _ =>
      let q := p.base + p.out
      let m := min n (min (4 - q % 4) (4 + c.1 - p.out))
      if m = 0 then ([], s) else
      let (r, s) := readWord s (bufLoc e q) (queueRq e)
      let here : List RByte := (List.range m).map (fun i =>
        ⟨r.map (fun bs => bs.getD (q % 4 + i) 0), c.2 && p.out + i + 1 == 4 + c.1, decide (p.out + i < 4), c.1⟩)
      let (rest, s) := tailTake fuel (setProd s e (p.routed m)) e (n - m)
      (here ++ rest, s)

/-! ### The consumer side -/

/-- The ring address of a storage byte. -/
def ringAddr (s : State) (e q : Nat) : Nat := rd s qx_RINGBASE e * 0x1000 + q % 2 ^ rd s qx_RINGLOG2 e

/-- The places of the head buffer, and the lowest one that is free. -/
def headSlots : Nat := 32
def Cons.freeSlot (c : Cons) : Option Nat := (List.range headSlots).find? (fun i => c.slots.all (fun w => w.slot != i))

/-- The word of the head buffer that holds storage byte q. -/
def Cons.slotOf (c : Cons) (q : Nat) : Option HbWord := c.slots.find? (fun w => w.q8 == q / 8)

/-- The offset in the head buffer of storage byte q, where the buffer has it. -/
def Cons.bufOff (c : Cons) (q : Nat) : Option Nat :=
  if q < c.hbEnd then (c.slotOf q).map (fun w => w.slot * 8 + q % 8) else none

/-- The words that the head buffer frees: whole ones that lie wholly behind POS, but for the header's (R198). -/
def Cons.freed (c : Cons) : Cons :=
  match c.cls with
  | [] => c
  | h :: _ => { c with slots := c.slots.filter (fun w =>
      w.q8 == h.pos / 8 || decide (h.pos + 4 + c.pos < w.q8 * 8 + 8) || decide (c.hbEnd < w.q8 * 8 + 8)) }

/-- The head buffer goes on from storage byte q: the words before it are given up. -/
def Cons.from_ (c : Cons) (q : Nat) : Cons :=
  { c with hbEnd := max c.hbEnd q, slots := c.slots.filter (fun w => decide (q ≤ w.q8 * 8)) }

/-- The stream goes on from storage byte q: what lies before it does not arrive. -/
def Cons.skipTo (c : Cons) (q : Nat) : Cons :=
  { c.from_ q with apos := max c.apos q, part := if c.apos < q then [] else c.part }

/-- The header of the head clause is in the head buffer. -/
def Cons.hdrIn (c : Cons) : Bool := match c.cls with
  | [] => false
  | h :: _ => (c.bufOff (h.pos + 3)).isSome

/-- A clause is deliverable (R195). -/
def deliverable (s : State) (e : Nat) : Bool :=
  let c := consOf s e
  match c.cls with
  | [] => false
  | h :: _ => c.hdrIn && (h.whole || decide (min (rd s qx_CUT e) 1024 ≤ h.arr))

/-- An 8-byte storage word is written to its place in the ring: a full write (R163, R198). -/
def ringPut (s : State) (e q8 : Nat) (bs : List Byte) : State := memWrite s (ringAddr s e (q8 * 8)) bs (queueRq e)

/-- Storage bytes q to q + n − 1 are lost: payload reads 0x00 with POISON, a header breaks the queue (R198, R210). -/
def loseBytes (s : State) (e q n : Nat) : State :=
  let c := consOf s e
  if (c.held ++ c.cls).any (fun l => decide (q < l.pos + 4 ∧ l.pos < q + n)) then
    notice (setCons s e { c with broken := true }) qx_NOTE_BRKN e
  else
    let hit (l : Clz) : Clz := if l.pos ≤ q ∧ q < l.pos + l.size then { l with poison := true } else l
    setCons s e { c with cls := c.cls.map hit, held := c.held.map hit }

/-- The 4-byte word of the head buffer that holds storage byte q is read; a lost one reads 0x00. -/
def headWord (s : State) (e q : Nat) : List Byte × State :=
  match (consOf s e).bufOff q with
  | none => ([0, 0, 0, 0], s)
  | some o =>
    let (r, s) := readWord s (bufLoc e o) (queueRq e)
    match r with
    | some bs => (bs, s)
    | none => ([0, 0, 0, 0], loseBytes s e (q / 4 * 4) 4)

/-- Storage bytes from q on, each word read once. -/
def headBytes : Nat → State → Nat → Nat → Nat → List Byte × State
  | 0, s, _, _, _ => ([], s)
  | fuel + 1, s, e, q, n =>
    let m := min n (4 - q % 4)
    if m = 0 then ([], s) else
    let (bs, s) := headWord s e q
    let (rest, s) := headBytes fuel s e (q + m) (n - m)
    ((bs.drop (q % 4)).take m ++ rest, s)

/-- The word q8 of the head buffer is in the ring too. -/
def Cons.ringed (c : Cons) (q8 : Nat) : Cons :=
  { c with slots := c.slots.map (fun w => if w.q8 = q8 then { w with ring := true } else w) }

/-- The last byte of a storage word has arrived: a word that the head buffer does not hold goes to the ring, and so does each
while a mark is set (R198). -/
def wordDone (s : State) (e q8 : Nat) : State :=
  let c := consOf s e
  let s := if c.mark || !(c.slots.any (fun w => w.q8 == q8)) then
      setCons (ringPut s e q8 c.part) e (c.ringed q8) else s
  setCons s e ({ consOf s e with part := [] } : Cons).freed

/-- The latest unreleased clause has bytes in the ring: WAITS counts it once. -/
def noteSpill (s : State) (e : Nat) : State :=
  let c := consOf s e
  match c.cls.getLast? with
  | some l => if l.spilled then s else
      incr (setCons s e { c with cls := c.cls.dropLast ++ [{ l with spilled := true }] }) qx_WAITS e
  | none => s

/-- A storage byte arrives: directly in the head buffer where that has all before it and room for the word, else on its way to
the ring (R198). -/
def storeByte (s : State) (e : Nat) (b : Byte) : State :=
  let c := consOf s e
  let q := c.apos
  let new := if q % 8 = 0 ∧ c.hbEnd = q then c.freeSlot else none
  let c : Cons := { c with slots := c.slots ++ (new.map (fun i => (⟨q / 8, i, false⟩ : HbWord))).toList }
  let d : Cons := { c with apos := q + 1, part := c.part ++ [b] }
  let s := match c.slotOf q with
    | some w => bufPut (setCons s e { d with hbEnd := q + 1 }) e (w.slot * 8 + q % 8) b
    | none => if c.hbEnd ≤ q then noteSpill (setCons s e d) e else setCons s e d
  if q % 8 = 7 then wordDone s e (q / 8) else s

/-- The latest clause whose bytes are still arriving, held or unreleased. -/
def Cons.arriving (c : Cons) : Option Clz :=
  match (c.held ++ c.cls).reverse with
  | l :: _ => if l.whole then none else some l
  | [] => none

/-- The latest clause changed by `f`. -/
def Cons.mapLast (c : Cons) (f : Clz → Clz) : Cons :=
  match c.cls.reverse, c.held.reverse with
  | l :: ls, _ => { c with cls := (f l :: ls).reverse }
  | [], l :: ls => { c with held := (f l :: ls).reverse }
  | [], [] => c

/-- Store n bytes of zero: the padding of a clause's last word. -/
def storeZeros (s : State) (e : Nat) : Nat → State
  | 0 => s
  | n + 1 => storeZeros (storeByte s e 0) e n

/-- A header has arrived. -/
def openClause (s : State) (e h : Nat) : State :=
  let c := consOf s e
  let s := setCons s e { c with ahdr := [], cls := c.cls ++ [(⟨h, c.apos, 0, false, false, false, s.tb.count⟩ : Clz)] }
  let s := (bytesLE 4 h).foldl (fun s b => storeByte s e b) s
  relevel (if lenOf h = 0 then storeZeros s e 4 else s) e

/-- A byte of the stream of clauses reaches the consumer endpoint (R195 to R199). A header lost in the tail buffer breaks the
queue, and the clause keeps the LEN that its producer knows; a reserved LEN, which only a message from another node can bring,
breaks it too, and what follows is discarded until QRESET (R210, assumption 72). -/
def arriveByte (s : State) (e : Nat) (x : RByte) : State :=
  let c := consOf s e
  if 0 < c.drop then
    let c := { c with drop := c.drop - 1 }
    if c.drop = 0 ∧ 0 < c.dropRet then
      setCons s e { c with ret := c.ret ++ [c.dropRet], dropRet := 0, demand := none }
    else setCons s e c
  else match c.arriving with
  | some l =>
    let s := setCons s e (c.mapLast (fun l => { l with arr := l.arr + 1, pad := l.pad || x.pad, poison := l.poison || x.b.isNone }))
    let s := storeByte s e (x.b.getD 0)
    if l.arr + 1 = l.len then storeZeros s e (l.size - 4 - l.len) else s
  | none =>
    let hb := c.ahdr ++ [x.b]
    if c.ahdr.length = 4 then s
    else if hb.length < 4 then setCons s e { c with ahdr := hb }
    else if hb.any (fun b => b.isNone) then notice (openClause (setCons s e { c with broken := true }) e x.len) qx_NOTE_BRKN e
    else
      let h := ofBytesLE (hb.map (fun b => b.getD 0))
      if 1024 < lenOf h then notice (setCons s e { c with ahdr := hb, broken := true }) qx_NOTE_BRKN e
      else openClause s e h

/-- Bytes of the stream reach the consumer endpoint. -/
def arrive (s : State) (e : Nat) (bs : List RByte) : State := bs.foldl (fun s x => arriveByte s e x) s

/-- Storage goes back to the producer (R204): the return is on its way, and a demand is answered by it (R207). -/
def giveBack (s : State) (e n : Nat) : State :=
  let c := consOf s e
  if n = 0 then s else setCons s e { c with ret := c.ret ++ [n], demand := none }

/-- Held storage is returned (R201, R202). -/
def returnHeld (s : State) (e : Nat) : State :=
  let c := consOf s e
  let d : Cons := match c.held.getLast? with
    | some l => if c.cls.isEmpty && !l.whole then { c.skipTo (l.pos + l.size) with drop := c.drop + (l.len - l.arr) } else c
    | none => c
  giveBack (setCons s e { d with held := [] }) e c.heldSize

/-- Under LOOSE, held storage that the producer needs ends the mark (R202). -/
def giveUpMark (s : State) (e : Nat) : State :=
  if 0 < (consOf s e).heldSize ∧ rdb s qx_MPOL e then
    let s := notice (setCons s e { consOf s e with mark := false, lost := true }) qx_NOTE_LOSTM e
    relevel (returnHeld s e) e
  else s

/-- SKIP (R193, R197). -/
def skipOp (s : State) (e v : Nat) : State :=
  let c := consOf s e
  match c.cls with
  | h :: _ => if deliverable s e && !c.broken then setCons s e ({ c with pos := min (c.pos + v) h.len } : Cons).freed else s
  | [] => s

/-- DONE (R197, R202): storage held behind the mark is not returned, but a demand that is outstanding is measured anew (R207), and
under LOOSE it ends the mark. -/
def doneOp (s : State) (e : Nat) : State :=
  let c := consOf s e
  if c.broken then s
  else match c.cls with
  | h :: t =>
    if deliverable s e then
      let next := h.pos + h.size
      let c : Cons := { c with cls := t, pos := 0, demand := c.demand.map (fun _ => s.tb.count) }
      let s := if c.mark then setCons s e { c.from_ next with held := c.held ++ [h] }
        else setCons s e { c.skipTo next with drop := c.drop + (if t.isEmpty && !h.whole then h.len - h.arr else 0) }
      let s := incr s qx_CLAUSES e
      let s := if c.mark then (if c.demand.isSome then giveUpMark s e else s) else giveBack s e h.size
      relevel s e
    else wr s qx_EPFAULT_EMPTYDONE e 1
  | [] => wr s qx_EPFAULT_EMPTYDONE e 1

/-- A whole word that the head buffer holds and the ring does not is written to the ring (R198, MARK). -/
def spillWord (s : State) (e : Nat) (w : HbWord) : State :=
  if w.ring || decide ((consOf s e).hbEnd < w.q8 * 8 + 8) then s
  else
    let (bs, s) := headBytes 2 s e (w.q8 * 8) 8
    let s := ringPut s e w.q8 bs
    setCons s e ((consOf s e).ringed w.q8)

/-- MARK (R201). -/
def markOp (s : State) (e : Nat) : State :=
  let s := returnHeld s e
  let s := (consOf s e).slots.foldl (fun s w => spillWord s e w) s
  relevel (setCons s e { consOf s e with mark := true, lost := false, rwfail := false }) e

/-- MARKCLR (R201). -/
def markclrOp (s : State) (e : Nat) : State :=
  let s := returnHeld s e
  relevel (setCons s e { consOf s e with mark := false }) e

/-- REWIND (R201). -/
def rewindOp (s : State) (e : Nat) : State :=
  let c := consOf s e
  if c.broken then s
  else if c.mark then
    match c.held ++ c.cls with
    | [] => setCons s e { c with rwfail := false }
    | h :: t => setCons s e { c with cls := h :: t, held := [], pos := 0, slots := [], hbEnd := h.pos, rwfail := false }
  else setCons s e { c with rwfail := true }

/-- Whether the clause that is arriving at consumer e is open at its producer: on this node, no later clause has bytes in the
tail buffer and the last is not complete; of another node it is open what its producer has done (assumption 1). -/
def openThere (s : State) (e : Nat) : Bool × State :=
  if peerHere s e then
    let p := prodOf s (peerEp s e)
    (decide (0 < p.rem) && decide (p.cls.length ≤ 1), s)
  else freshBool s

/-- QRESET (R208): every clause is discarded and its storage returned, but for that of one open at the producer, which comes back
with its last byte. NOTE bits do not change. -/
def qresetOp (s : State) (e : Nat) : State :=
  let c := consOf s e
  let (left, size) := match c.arriving with
    | some l => (l.len - l.arr, l.size)
    | none => (0, 0)
  let (wait, s) := if left = 0 then (false, s) else openThere s e
  let keep := if wait then size else 0
  let endPos := (c.held ++ c.cls).foldl (fun _ l => l.pos + l.size) c.apos
  let d : Cons := { c.skipTo endPos with ahdr := if c.ahdr.length = 4 then [] else c.ahdr, cls := [], held := [],
                                         drop := c.drop + left, dropRet := c.dropRet + keep, pos := 0, mark := false, broken := false }
  let s := { s with broken := s.broken.filter (fun b => b != e) }
  levelled (giveBack (setCons s e { d with slots := [], hbEnd := d.apos }) e (c.level - keep)) e

/-- The consumer's answer to a demand (R202). -/
def demandOp (s : State) (e : Nat) : State :=
  giveUpMark (setCons s e { consOf s e with demand := some ((consOf s e).demand.getD s.tb.count) }) e

/-! ### Refill (R198) -/

/-- One 8-byte word of the ring comes to the head buffer: its two words there are full writes. -/
def refillWord (s : State) (e : Nat) : State :=
  let c := consOf s e
  let q := c.hbEnd
  match locOf (ringAddr s e q), c.freeSlot with
  | some w, some i =>
    let (r, s) := readWord s w (queueRq e)
    let s := if r.isNone then loseBytes s e q 8 else s
    let s := memWrite s (queueBufBase + e * 0x400 + i * 8) (r.getD (List.replicate 8 0)) (queueRq e)
    let c := consOf s e
    setCons s e ({ c with slots := c.slots ++ [⟨q / 8, i, true⟩], hbEnd := q + 8 } : Cons).freed
  | _, _ => s

/-- How many 8-byte words a refill brings: at most 64 bytes, what the head buffer has room for and the ring holds whole. -/
def refillWords (c : Cons) : Nat := min 8 (min (headSlots - c.slots.length) (c.apos / 8 - c.hbEnd / 8))

def refillOp (s : State) (e : Nat) : Nat → State
  | 0 => s
  | n + 1 => refillOp (refillWord s e) e n

/-! ### Ports (R189, R190, R193) -/

/-- The value of a consumer's STAT word (R193 offset 0x0C). -/
def statWord (s : State) (e : Nat) : Nat :=
  let c := consOf s e
  let h : Clz := c.cls.headD ⟨0, 0, 0, false, false, false, 0⟩
  let some_ := !c.cls.isEmpty
  b2n (deliverable s e) + 2 * b2n (some_ && h.whole) + 4 * b2n (some_ && h.poison) + 8 * b2n (some_ && h.pad) +
    16 * b2n c.broken + 32 * b2n c.mark + 64 * b2n c.lost + 128 * b2n c.rwfail +
    256 * b2n (decide (rd s qx_HIWM e ≤ c.level)) + 512 * b2n (decide (c.level < rd s qx_LOWM e))

/-- Payload byte POS + x of the head clause can be read without a wait (R195). -/
def winReady (s : State) (e x : Nat) : Bool :=
  let c := consOf s e
  match c.cls with
  | [] => false
  | h :: _ => deliverable s e && (decide (h.len ≤ c.pos + x) || (c.bufOff (h.pos + 4 + c.pos + x)).isSome)

/-- The bytes of HDR from o on, read from the head buffer. -/
def hdrRead (s : State) (e o n : Nat) : List Byte × State :=
  let c := consOf s e
  match c.cls with
  | h :: _ => if c.broken then (List.replicate n 0xFF, s) else
    let (bs, s) := headWord s e h.pos
    (if (consOf s e).broken then List.replicate n 0xFF else (bs.drop o).take n, s)
  | [] => (List.replicate n 0xFF, s)

/-- The bytes of WIN from x on: 0x00 in a broken queue and beyond LEN. -/
def winRead (s : State) (e x n : Nat) : List Byte × State :=
  let c := consOf s e
  match c.cls with
  | h :: _ => if c.broken then (List.replicate n 0, s) else
    let m := min n (h.len - (c.pos + x))
    let (bs, s) := headBytes m s e (h.pos + 4 + c.pos + x) m
    (bs ++ List.replicate (n - m) 0, s)
  | [] => (List.replicate n 0, s)

/-- One byte of a producer port (R190). -/
def prodByte (s : State) (e o : Nat) : Nat :=
  let p := prodOf s e
  let w : Nat :=
    if o / 4 = 2 then p.pfree
    else if o / 4 = 3 then
      p.rem + 2 ^ 11 * p.hdr.length + 2 ^ 13 * b2n (decide (0 < p.rem)) + 2 ^ 14 * b2n p.bad + 2 ^ 15 * b2n p.lock.isSome
    else if o / 4 = 4 then p.seq.toNat
    else 0
  w / 2 ^ (o % 4 * 8) % 256

/-- The value of bytes given as numbers. -/
def ofNats (l : List Nat) : Nat := l.foldr (fun b r => b % 256 + 256 * r) 0

/-- One byte of a consumer port's registers that never wait (R193, R194). -/
def consByte (s : State) (e o : Nat) : Nat :=
  let c := consOf s e
  let w : Nat :=
    if o / 4 = 1 then c.pos + 2 ^ 16 * (match c.cls with
      | h :: _ => h.arr
      | [] => 0)
    else if o / 4 = 3 then statWord s e
    else if o / 4 = 4 then c.level
    else if o / 4 = 5 then c.heldSize
    else 0
  w / 2 ^ (o % 4 * 8) % 256

/-- Read n bytes of a port at offset o, by an agent that has the right to it: an access within HDR or WIN waits or reads the head
buffer, any other completes at once. -/
def portRead (s : State) (e o n : Nat) : Reply × State :=
  let plain (f : Nat → Nat) : Reply := .data (ofNats ((List.range n).map (fun i => f (o + i))))
  let c := consOf s e
  if role s e = 1 then (plain (prodByte s e), s)
  else if o < 4 then
    (if c.broken || deliverable s e then
      let (bs, s) := hdrRead s e o n
      (.data (ofBytesLE bs), s) else (.waits, s))
  else if 0x40 ≤ o ∧ o < 0x80 then
    (if c.broken || (List.range n).all (fun i => winReady s e (o - 0x40 + i)) then
      let (bs, s) := winRead s e (o - 0x40) n
      (.data (ofBytesLE bs), s) else (.waits, s))
  else (plain (consByte s e), s)

/-- A 1 written to a reserved bit of an endpoint (R15). -/
def epRsvw (s : State) (e : Nat) (c : Bool) : State := if c then wr s qx_EPFAULT_RSVW e 1 else s

/-- The command byte of a consumer port: in bit order, each on the state that the one before left (R201). -/
def commandByte (s : State) (e v : Nat) : State :=
  let s := if bit v 0 then doneOp s e else s
  let s := if bit v 1 then markOp s e else s
  let s := if bit v 2 then markclrOp s e else s
  if bit v 3 then rewindOp s e else s

/-- Byte o of a write at offset `off`, if it covers it. -/
def wbyte (off n v o : Nat) : Option Nat := if off ≤ o ∧ o < off + n then some (v / 2 ^ ((o - off) * 8) % 256) else none

/-- The read-only bytes of the ports, and the bits of listed fields in each byte: what R15 counts as reserved. -/
def prodListed (o : Nat) : Nat :=
  if o < 0x0B then 0xFF else if o = 0x0B then 0x07 else if o < 0x0E then 0xFF else if o = 0x10 then 0xFF else 0
def consListed (o : Nat) : Nat :=
  if o < 5 then 0xFF else if o = 5 then 0x07 else if o = 6 then 0xFF else if o = 7 then 0x07 else if o = 8 then 0xFF
  else if o = 9 then 0x07 else if o = 0x0A then 0x0F else if o = 0x0C then 0xFF else if o = 0x0D then 0x03
  else if 0x10 ≤ o ∧ o < 0x13 then 0xFF else if o = 0x13 then 0x07 else if 0x14 ≤ o ∧ o < 0x17 then 0xFF
  else if o = 0x17 then 0x07 else if 0x40 ≤ o ∧ o < 0x80 then 0xFF else 0

/-- Whether a write sets a bit that no field lists. -/
def writesReserved (listed : Nat → Nat) (o n v : Nat) : Bool :=
  (List.range n).any (fun i => (v / 2 ^ (i * 8) % 256) &&& (255 - listed (o + i)) != 0)

/-- Write n bytes of a port at offset o, by an agent that has the right to it. -/
def portWrite (s : State) (e o n v : Nat) (ag : Agent) (ret : Ret) : State :=
  if role s e = 1 then
    if o < 8 then pushOp s e ⟨ag, n, v, ret, false⟩
    else { epRsvw s e (writesReserved prodListed o n v) with reply := .done }
  else
    let s := epRsvw s e (writesReserved consListed o n v)
    let lo := wbyte o n v 8
    let hi := wbyte o n v 9
    let s := if lo.isSome || hi.isSome then skipOp s e ((lo.getD 0 + 256 * hi.getD 0) % 2048) else s
    let s := match wbyte o n v 0x0A with
      | some b => commandByte s e b
      | none => s
    { s with reply := .done }

/-- The rights of a port access (R189 cases 1 and 2). -/
inductive PortRight where
  | ok | noQueue | notOwner
deriving DecidableEq, Repr

def portRight (s : State) (e : Nat) (ag : Agent) : PortRight :=
  if role s e = 0 ∨ role s e = 3 then .noQueue else if ownedBy s e ag then .ok else .notOwner

/-- A port access without the right to it: as a reserved address, and EPFAULT.NOTOWNER in case 2. -/
def portRefuse (s : State) (e : Nat) (r : PortRight) : State :=
  { (if r = .notOwner then notice s qx_EPFAULT_NOTOWNER e else s) with reply := .reserved }

/-! ### Engines at a queue -/

/-- Whether an engine can push a whole clause of n payload bytes now (R192). -/
def enginePushOk (s : State) (e n : Nat) : Bool :=
  let p := prodOf s e
  epOpen s e && role s e == 1 && p.waitq.isEmpty && !p.bad && p.rem == 0 && p.hdr.isEmpty &&
    decide (sizeOfLen n ≤ p.pfree) && decide (p.used + 4 + n ≤ tailSize)

/-- An engine pushes a clause. -/
def enginePush (s : State) (e hdr : Nat) (payload : List Byte) : State :=
  match (prodOf s e).bytes none tailSize 0 false [] (bytesLE 4 hdr ++ payload) with
  | .done p o b w => pushDone s e p o b w
  | .wait _ => s

/-- Storage comes back to a producer (R204): what waits at its front is judged before and after. -/
def storageBack (s : State) (e n : Nat) : State :=
  let s := findShort s e false
  findShort (setProd s e { prodOf s e with pfree := (prodOf s e).pfree + n }) e true

/-- Payload bytes of the head clause at an engine's endpoint, as far as the head buffer holds them. -/
def headPayload (s : State) (e n : Nat) : List Byte × State :=
  match (consOf s e).cls with
  | [] => ([], s)
  | h :: _ => headBytes n s e (h.pos + 4) n

/-! ### Resets of an endpoint (R211 cases 1 and 4, R423) -/

/-- A word of the tail buffer of endpoint e, at address a, holds bytes that have not gone: a reset keeps them, as the clauses that
it completes keep theirs (R211 case 1, assumption 72). -/
def tailKeeps (s : State) (e a : Nat) : Bool :=
  let p := prodOf s e
  let q := p.base + p.out
  role s e == 1 && decide (0 < p.used) && decide ((a % 256 / 4 * 4 + 256 - q % 256 / 4 * 4) % 256 < p.used + q % 4)

/-- The endpoint is reset with its herd. -/
def resetEndpoint (s : State) (e : Nat) : State :=
  let s := if role s e = 1 then bufCommit (padClause s e) e 2 else if role s e = 2 then qresetOp s e else s
  let s := if role s e = 1 then setProd s e { prodOf s e with bad := false, seq := 0, waitq := (prodOf s e).waitq.filter (fun r => !r.ag.isKid) } else s
  let keep (k : RegKey) : Bool := k.off = qx_CUT.off || k.off = qx_STALLTO.off || k.off = qx_HIWM.off || k.off = qx_LOWM.off
  dropRegs s (fun k => k.inBlk .epConfig e && decide (k.acc ≠ .img) && !keep k)

/-! ### Commands -/

/-- A write that reaches endpoint e. -/
def atEp (s : State) (e : Nat) (q : BusReq) (act : State → State) : Out :=
  atBlock s (herdDom (e / 64)) (s.rst.herds.contains (e / 64)) q act

/-- A write that reaches the consumer port of endpoint e; an endpoint without that role is a reserved address. -/
def atConsumer (s : State) (e : Nat) (q : BusReq) (act : State → State) : Out :=
  if role s e = 2 then atEp s e q act else .next { s with reply := .reserved }

/-- PUSH: a store of an agent to PUSH (R189, R191). -/
def execPush (ag : Agent) (e : EpId) (_off : Fin 8) (sz : Size) (v : BitVec 64) (s : State) : Out :=
  match portRight s e ag with
  | .ok =>
    if role s e = 1 then
      if epOpen s e then .next (pushOp s e ⟨ag, sz.bytes, v.toNat % 256 ^ sz.bytes, .none, false⟩)
      else .next (hold (touch s (herdDom (e.val / 64))) ⟨ag, blkBase .prodPort e, sz.bytes, some v.toNat, .none⟩)
    else .next { s with reply := .done }
  | r => .next (portRefuse s e r)

/-- RESERVATION: the first store that waits at e and can complete now completes. -/
def reservationOp (s : State) (e : Nat) : Option (State × PushReq) :=
  match nextPush s e (prodOf s e).waitq [] with
  | none => none
  | some (r, rest, p, o, b, w) =>
    let s := setProd s e { prodOf s e with waitq := rest }
    some (findShort (pushDone s e p o b w) e false, r)

/-- n bytes leave the tail buffer, and what waits for room or storage there goes on. -/
def sendBytes (s : State) (e n : Nat) : List RByte × State :=
  let (bs, s) := tailTake n s e n
  (bs, findShort (fillPad s e) e false)

/-- The bytes of the route go on to the consumer endpoint of this node. -/
def routeOp (s : State) (e n : Nat) : State :=
  let (bs, s) := sendBytes s e n
  arrive s (peerEp s e) bs

/-- REFILL. -/
def execRefill (e : EpId) (s : State) : Out :=
  let c := consOf s e
  let st := ringAddr s e 0 / 0x4_0000_0000
  due s (role s e = 2 && epOpen s e && decide (0 < refillWords c) && pstate s (hbmDom st) == 0) (refillOp s e (refillWords c))

/-- SKIP. -/
def execSkip (e : EpId) (v : BitVec 11) (s : State) : Out :=
  atConsumer s e (regReq qc_SKIP e 0 v.toNat 2) (fun s => skipOp s e v.toNat)

/-- DONE. -/
def execDone (e : EpId) (s : State) : Out := atConsumer s e (regReq qc_DONE e 0 1 1) (fun s => doneOp s e)

/-- MARK. -/
def execMark (e : EpId) (s : State) : Out := atConsumer s e (regReq qc_DONE e 0 2 1) (fun s => markOp s e)

/-- MARKCLR. -/
def execMarkclr (e : EpId) (s : State) : Out := atConsumer s e (regReq qc_DONE e 0 4 1) (fun s => markclrOp s e)

/-- REWIND. -/
def execRewind (e : EpId) (s : State) : Out := atConsumer s e (regReq qc_DONE e 0 8 1) (fun s => rewindOp s e)

/-- The role to which a field of the configuration area belongs, 0 for both (R209). -/
def roleOfField (F : Fld) : Nat :=
  if F = qx_EPFAULT_BADLEN ∨ F = qx_PCTL_RESYNC then 1
  else if F = qx_EPFAULT_EMPTYDONE ∨ F = qx_RINGBASE ∨ F = qx_RINGLOG2 ∨ F = qx_MPOL ∨ F = qx_CUT ∨ F = qx_STALLTO ∨ F = qx_HIWM ∨
      F = qx_LOWM ∨ F = qx_NOTE_HIGH ∨ F = qx_NOTE_LOW ∨ F = qx_NOTE_STALL ∨ F = qx_NOTE_OPENSTALL ∨ F = qx_NOTE_BRKN ∨
      F = qx_NOTE_LOSTM ∨ F = qx_CCTL_QRESET ∨ F = qx_CCTL_CLRPEAK ∨ F = qx_PEAK then 2
  else 0

/-- The field is reserved in this endpoint, whose role is the other one. -/
def roleShut (s : State) (F : Fld) (e : Nat) : Bool :=
  decide (F.blk = .epConfig) && (roleOfField F + role s e == 3) && roleOfField F != 0 && role s e != 0

/-- QRESET: a field of a consumer; in an endpoint of the other role its bit is reserved (R209). -/
def execQreset (e : EpId) (s : State) : Out :=
  atEp s e (regReq qx_CCTL_QRESET e 0 1 1) (fun s => if role s e = 1 then epRsvw s e true else qresetOp s e)

/-- RESYNC. -/
def execResync (e : EpId) (s : State) : Out :=
  atEp s e (regReq qx_CCTL_QRESET e 0 2 1) (fun s => if role s e = 2 then epRsvw s e true else resyncOp s e)

/-- PEAK takes the present LEVEL. -/
def clrpeakOp (s : State) (e : Nat) : State := wr s qx_PEAK e (consOf s e).level

/-- CLRPEAK. -/
def execClrpeak (e : EpId) (s : State) : Out :=
  atEp s e (regReq qx_CCTL_QRESET e 0 4 1) (fun s => if role s e = 1 then epRsvw s e true else clrpeakOp s e)

/-- STALLTO µs have passed since time t, to the 1 µs that the watchdog keeps (R207). -/
def stallDue (s : State) (e : Nat) (t : Nat) : Bool :=
  rd s qx_STALLTO e != 0 && decide (t + (rd s qx_STALLTO e - 1) * 8000 ≤ now s)

/-- STALL: a demand has been outstanding, with no DONE, for STALLTO µs (R207). -/
def execStall (e : EpId) (s : State) : Out :=
  due s (role s e = 2 && (match (consOf s e).demand with
    | some t => stallDue s e t.toNat
    | none => false)) (notice s qx_NOTE_STALL e)

end Sys2Proof.Machine
end

