-- ==== Sys2Proof/Machine/Guard.lean ====
section
/-!
DEFINITION. The antler guard: command clauses, checks, constraints, substitutes, stops, enables and releases
(R282 to R311).
-/

namespace Sys2Proof.Machine

/-! ### Axes, limits and constraints -/

/-- The port and the tile (the slice) of an axis (R20, R292). -/
def axisPort (a : Nat) : Nat := a / 16
def axisTile (a : Nat) : Nat := a / 256

def assigned (s : State) (a : Nat) : Bool := rdb s ge_ASSIGNED a
/-- ASTATE of an axis (R295). -/
def astate (s : State) (a : Nat) : Nat := rd s gs_ASTATE a
def portAxes (s : State) (p : Nat) : List Nat := ((List.range 16).map (fun i => p * 16 + i)).filter (assigned s)
def assignedAxes (s : State) : List Nat := (List.range 1024).filter (assigned s)

/-- Whether term i of constraint j is used and names axis a (R290). -/
def termNames (s : State) (j i a : Nat) : Bool := rd s gc_C j i != 0 && rd s gc_AX j i == a
/-- The valid constraints that name an axis, ascending. -/
def constraintsOf (s : State) (a : Nat) : List Nat :=
  (List.range 256).filter (fun j => rdb s gc_CVALID j && (List.range 4).any (fun i => termNames s j i a))

/-- HOME of a constraint: the slice of its lowest-numbered axis; with no term in use it reads as at reset (R292, R307). -/
def homeOf (s : State) (j : Nat) : Nat :=
  match ((List.range 4).filter (fun i => rd s gc_C j i != 0)).map (fun i => rd s gc_AX j i) with
  | [] => 0
  | a :: l => l.foldl min a / 256

/-- The limits that a check reads when it begins (R302). -/
def limitsOf (s : State) (a : Nat) : Limits :=
  { pmin := sext 32 (rd s ge_PMIN a), pmax := sext 32 (rd s ge_PMAX a), vmax := rd s ge_VMAX a, amax := rd s ge_AMAX a,
    jmax := rd s ge_JMAX a, ffmax := rd s ge_FFMAX a, stale := rd s ge_STALE a, dec := rd s ge_DEC a,
    dmin := (constraintsOf s a).map (fun j => (j, sext 48 (rd s gc_DMIN j))) }

/-- The fields of a command slot (R261). -/
def slotPos (w : Nat) : Int := sext 32 w
def slotFf (w : Nat) : Int := sext 16 (w / 2 ^ 32)
def slotMode (w : Nat) : Nat := bits w 51 48
def slotRun (w : Nat) : Bool := bit w 52
def slotSub (w : Nat) : Bool := bit w 53
def slotCseq (w : Nat) : Nat := bits w 63 56

/-- A command slot of the guard: FF 0, SUB set (R295). -/
def subWord (pos : Int) (mode : Nat) (run : Bool) (cseq : Nat) : Nat :=
  twos 32 pos + 2 ^ 48 * mode + 2 ^ 52 * b2n run + 2 ^ 53 + 2 ^ 56 * cseq

/-- The larger absolute value. -/
def iabs (i : Int) : Int := if i < 0 then -i else i

/-- stop_pos of R287. A deceleration of 0, which no image sets, counts as 1. -/
def stopPos (p v : Int) (dec : Nat) : Int :=
  let dec : Int := max dec 1
  let q := iabs v / dec
  let d := q * iabs v - dec * q * (q + 1) / 2
  if v < 0 then p - d else p + d

/-- out of R287. -/
def outside (L : Limits) (x : Int) : Int := max (max (L.pmin - x) (x - L.pmax)) 0

/-- A failed check: KIND, VALUE, constraint, class. -/
structure GFail where
  kind   : Nat
  value  : Int
  constr : Nat
  cls    : Nat
deriving DecidableEq, Repr

/-- The position test of R287 and R296. -/
def posFail (s : State) (a : Nat) (L : Limits) (p0 stop : Int) : Option GFail :=
  let x := axisOf s a
  let new := max (outside L p0) (outside L stop)
  let old := max (outside L x.p1) (outside L x.stopp)
  if 0 < new ∧ old < new then
    some ⟨1, if 0 < outside L p0 then p0 else stop, 0, rd s ge_CLSENV a⟩
  else none

/-- A term of a constraint, with the axis under check at (p, stop) (R291). -/
def termOf (s : State) (j a : Nat) (p stop : Int) (i : Nat) : Int :=
  let c := sext 8 (rd s gc_C j i)
  let b := rd s gc_AX j i
  if b = a then min (c * p) (c * stop) else min (c * (axisOf s b).pst) (c * (axisOf s b).stopp)

/-- The sum of a constraint (R291). -/
def sumOf (s : State) (j a : Nat) (p stop : Int) : Int := (List.range 4).foldl (fun t i => t + termOf s j a p stop i) 0

/-- clamp32 of R291. -/
def clamp32 (i : Int) : Int := max (-(2 ^ 31)) (min (2 ^ 31 - 1) i)

/-- One constraint (R291). -/
def constrFail (s : State) (a j : Nat) (dmin p0 stop : Int) : Option GFail :=
  let x := axisOf s a
  let new := sumOf s j a p0 stop
  let old := sumOf s j a x.pst x.stopp
  if new < dmin ∧ new < old then some ⟨8, clamp32 (new - dmin), j, rd s gc_CCLASS j⟩ else none

/-- The first failing constraint, ascending. -/
def constrsFail (s : State) (a : Nat) (p0 stop : Int) : List (Nat × Int) → Option GFail
  | [] => none
  | (j, d) :: t => match constrFail s a j d p0 stop with
    | some f => some f
    | none => constrsFail s a p0 stop t

/-- The target that a command gives (R287). -/
def cmdTarget (s : State) (a slot : Nat) : Int := if slotMode slot = 0 then (axisOf s a).p1 else slotPos slot

/-- The stop position that goes with a target. -/
def cmdStop (s : State) (a : Nat) (dec : Nat) (p0 : Int) : Int := stopPos p0 (p0 - (axisOf s a).p1) dec

/-- The checks of R287 and R291 on a command, in their order. -/
def cmdFail (s : State) (a : Nat) (c : Cmd) (L : Limits) : Option GFail :=
  let x := axisOf s a
  let p0 := cmdTarget s a c.slot
  let stop := cmdStop s a L.dec p0
  let v := p0 - x.p1
  let v1 := x.p1 - x.p2
  let v2 := x.p2 - x.p3
  let acc := v - v1
  let jrk := acc - (v1 - v2)
  let age : Nat := (bits (now s) 39 8 + 2 ^ 32 - c.basis) % 2 ^ 32
  let env := rd s ge_CLSENV a
  if L.stale < age then some ⟨6, age, 0, rd s ge_CLSSTALE a⟩
  else if 2 ≤ slotMode c.slot ∧ L.ffmax < iabs (slotFf c.slot) then some ⟨5, slotFf c.slot, 0, env⟩
  else if L.vmax < iabs v then some ⟨2, v, 0, env⟩
  else if L.amax < iabs acc then some ⟨3, acc, 0, env⟩
  else if L.jmax < iabs jrk then some ⟨4, jrk, 0, env⟩
  else match posFail s a L p0 stop with
    | some f => some f
    | none => constrsFail s a p0 stop L.dmin

/-! ### The log (R308, R309) -/

/-- Write a log entry, or lose it. -/
def glogWrite (s : State) (kind cls axis constr : Nat) (value : Int) (cseq : Nat) : State :=
  let (t, s) := stamp s
  let e := kind + 2 ^ 4 * cls + 2 ^ 8 * axis + 2 ^ 18 * constr + 2 ^ 32 * twos 32 value + 2 ^ 64 * cseq + 2 ^ 80 * bits t 55 8
  if s.glog.length < 32 then { s with glog := s.glog ++ [e] }
  else wr (incrSat s gg_LOSTCOUNT) gg_GFAULT_LOGOVF 0 1

/-! ### Stops (R297, R298) -/

/-- A stop of the given kind and class is in force on an axis that enters state st: what it held for its next fetch is
dropped (R284), and a class is never lowered. -/
def holdStop (s : State) (a st kind cls : Nat) : State :=
  let s := if rd s gs_STOPCLS a < cls then wr (wr s gs_STOPKIND a kind) gs_STOPCLS a cls else s
  let s := wr (wr s gs_ASTATE a st) gs_LATE a 0
  let x := axisOf s a
  setAxis s a { x with rel := none, chk := x.chk.map (fun k => { k with dead := true }) }

/-- ENA_p goes low. -/
def enaLow (s : State) (p : Nat) : State :=
  setPort (wr s gg_ENAST 0 (clrBit (rd s gg_ENAST) p)) p { portOf s p with ena := none, still := none }

/-- Under a class 2 stop, the cycle in which the last ramp of port p has reached standstill (R297). -/
def noteStill (s : State) (p : Nat) : State :=
  let x := portOf s p
  if x.ena.isSome && (portAxes s p).all (fun b => astate s b != 3 || (axisOf s b).p1 == (axisOf s b).p2) then
    setPort s p { x with still := some (x.still.getD x.cyc) }
  else setPort s p { x with still := none }

/-- Every assigned axis of port p enters DISABLED, with ENA_p low. -/
def disablePort (s : State) (p kind cls : Nat) : State :=
  (portAxes s p).foldl (fun s b => holdStop s b 5 kind cls) (enaLow s p)

/-- A stop reaches an axis (R297): it acts unless a stop of its class or a higher one is in force. -/
def reachAxis (s : State) (kind cls a : Nat) : State :=
  let st := astate s a
  let s := raise s (rd s ge_SUPHERD a) 0
  if 3 ≤ st ∧ cls ≤ rd s gs_STOPCLS a then s
  else if cls ≤ 1 then (if st = 1 ∨ st = 2 then holdStop s a 3 kind cls else s)
  else if cls = 2 then
    let s := (portAxes s (axisPort a)).foldl (fun s b =>
      let t := astate s b
      if t = 1 ∨ t = 2 ∨ t = 3 then holdStop s b 3 kind 2 else s) s
    let s := if rd s gs_STOPCLS a < 2 then wr (wr s gs_STOPKIND a kind) gs_STOPCLS a 2 else s
    let x := portOf s (axisPort a)
    noteStill (setPort s (axisPort a) { x with ena := some (x.ena.getD a) }) (axisPort a)
  else disablePort s (axisPort a) kind 3

/-- The axes of the stop group of axis a on slice t. -/
def groupOn (s : State) (g t : Nat) : List Nat :=
  ((List.range 256).map (fun i => t * 256 + i)).filter (fun b => assigned s b && rd s ge_STOPGRP b == g)

/-- A stop with its causing axis: that axis and its group on its own slice at once, on other slices by a message (R298). -/
def stopReach (s : State) (a kind cls : Nat) : State :=
  let g := rd s ge_STOPGRP a
  if g = 0 then reachAxis s kind cls a
  else
    let s := (groupOn s g (axisTile a)).foldl (fun s b => reachAxis s kind cls b) s
    let others := (List.range 4).filter (fun t => t != axisTile a && !(groupOn s g t).isEmpty)
    { s with gstops := s.gstops ++ others.map (fun t => ⟨t, g, kind, cls, a⟩) }

/-- A stop of an assigned axis, with its log entry. -/
def stopAxis (s : State) (a kind cls constr : Nat) (value : Int) (cseq : Nat) : State :=
  if assigned s a then stopReach (glogWrite s kind cls a constr value cseq) a kind cls else s

/-- A check or a substitute meets an uncorrectable word of guard state: class 3, kind UECC (R310). -/
def ueccStop (s : State) (a : Nat) : State := stopAxis (wr s gg_GFAULT_UECC 0 1) a 14 3 0 0 0

/-- The arrays with the words that a check or a substitute of axis a needs: the envelopes, the axis state and the constraint copies
of its own slice, and the stored values and the constraints of every other home slice (R291, R292, R310). -/
def guardUnits (s : State) (a : Nat) : List Nat :=
  let u (t : Nat) : Nat := 0x9000_9000 + t * 4
  let t := axisTile a
  let js := constraintsOf s a
  let homes := (List.range 4).filter (fun h => h != t && js.any (fun j => homeOf s j == h))
  [u t, u t + 1, u t + 2] ++ (homes.map (fun h => [u h + 1, u h + 2])).flatten

/-- Whether one of those words is uncorrectable; with no flip-mask armed, none is. -/
def guardHit (s : State) (a : Nat) : Bool × State :=
  if s.flip.isNone then (false, s)
  else (guardUnits s a).foldl (fun (b, s) u =>
    let (x, s) := stateHit s u ⟨10, axisPort a⟩
    (b || x, s)) (false, s)

/-- Port p leaves RUN: ENA_p low, every axis DISABLED with kind LINK (R300, R311 case 8). -/
def portLeaveRun (s : State) (p : Nat) : State :=
  let axes := portAxes s p
  let s := if axes.isEmpty then s else glogWrite s 13 3 (p * 16) 0 0 0
  axes.foldl (fun s a => stopReach s a 13 3) (enaLow s p)

/-- Debug level 2 takes effect (R300, R396). -/
def debugStop (s : State) : State :=
  let s := (List.range 64).foldl (fun s p => setPort s p { portOf s p with ena := none }) (wr s gg_ENAST 0 0)
  (assignedAxes s).foldl (fun s a => raise (holdStop s a 5 11 3) (rd s ge_SUPHERD a) 0) s

/-- The brown stop, once a supply warning has lasted VWDUR (R303 case 2). -/
def brownStopOp (s : State) : State :=
  let s := wr (wr s gg_BRACTIVE 0 1) gg_BRSEEN 0 1
  let s := glogWrite s 10 (rd s gg_BRCLASS) 0 0 0 0
  let moving := (assignedAxes s).filter (fun a => astate s a == 1 || astate s a == 2 || astate s a == 3)
  moving.foldl (fun s a => reachAxis s 10 (rd s gg_BRCLASS) a) s

/-! ### Fetches and substitutes (R286, R289, R294 to R296, R299) -/

/-- The history moves by one place, and the home slices take the target and its stop position. -/
def moveHist (s : State) (a : Nat) (p0 stop : Int) : State :=
  let x := axisOf s a
  setAxis s a { x with p1 := p0, p2 := x.p1, p3 := x.p2, pst := p0, stopp := stop,
                       chk := x.chk.map (fun k => { k with late := true }) }

/-- A HOLD slot is fetched. -/
def holdSlot (s : State) (a : Nat) (run : Bool) : Nat × State :=
  let x := axisOf s a
  let s := moveHist s a x.p1 x.p1
  (subWord x.p1 0 run (rd s gs_LASTCSEQ a), setAxis s a { axisOf s a with run := run })

/-- A slot with a new target is fetched. -/
def moveSlot (s : State) (a : Nat) (p0 : Int) : Nat × State :=
  let s := moveHist s a p0 (cmdStop s a (rd s ge_DEC a) p0)
  (subWord p0 1 true (rd s gs_LASTCSEQ a), setAxis s a { axisOf s a with run := true })

/-- The next ramp step, or the standstill that ends the ramp (R299). -/
def rampSlot (s : State) (a : Nat) : Nat × State :=
  let x := axisOf s a
  let v := x.p1 - x.p2
  let w := max (iabs v - max (rd s ge_DEC a) 1) 0
  if w = 0 then holdSlot (if rd s gs_STOPCLS a = 2 then s else wr s gs_ASTATE a 4) a true
  else moveSlot s a (if v < 0 then x.p1 - w else x.p1 + w)

/-- What a fetch takes where the axis does not run by commands. -/
def stillSlot (s : State) (a : Nat) : Nat × State :=
  if astate s a = 3 then rampSlot s a
  else if astate s a = 4 then holdSlot s a true
  else holdSlot s a false

/-- The fetch of an axis in RUN with no release: extrapolation, or the first slot of the stop that follows (R289, R296). -/
def extrapolate (s : State) (a : Nat) : Nat × State :=
  let n := rd s gs_MISSRUN a + 1
  let s := wr s gs_MISSRUN a n
  if max (rd s ge_MISSMAX a) 1 ≤ n then stillSlot (stopAxis s a 7 (rd s ge_CLSSTALE a) 0 n 0) a
  else
    let x := axisOf s a
    let L := limitsOf s a
    let p0 := x.p1 + (x.p1 - x.p2)
    let stop := cmdStop s a L.dec p0
    let bad := match posFail s a L p0 stop with
      | some f => some f
      | none => constrsFail s a p0 stop L.dmin
    match bad with
    | some f => stillSlot (stopAxis s a f.kind f.cls f.constr f.value 0) a
    | none => moveSlot s a p0

/-- A fetch with no release (R295). -/
def fetchSub (s : State) (a : Nat) : Nat × State :=
  let s := incr s gg_SUBS
  if !assigned s a then (subWord 0 0 false (rd s gs_LASTCSEQ a), s)
  else
    let (hit, s) := guardHit s a
    let s := if hit then ueccStop s a else s
    let x := axisOf s a
    let (v, s) :=
      if astate s a = 1 then holdSlot s a x.run
      else if astate s a = 2 then extrapolate s a
      else stillSlot s a
    (v, noteStill s (axisPort a))

/-- The fetch of a released command (R294). -/
def fetchRel (s : State) (a : Nat) (c : Cmd) : Nat × State :=
  let s := moveHist s a c.p0 c.stop
  let s := wr (wr s gs_LASTCSEQ a (slotCseq c.slot)) gs_LATE a 0
  (c.slot, setAxis s a { axisOf s a with rel := none, run := slotRun c.slot })

/-- A valid feedback slot reaches an axis whose history is not seeded (R286, R311 case 9). -/
def seedAxis (s : State) (a fb : Nat) : State :=
  if assigned s a && astate s a != 0 && !rdb s gs_SEEDED a && bit fb 48 then
    let p := sext 32 fb
    setAxis (wr s gs_SEEDED a 1) a { axisOf s a with p1 := p, p2 := p, p3 := p, pst := p, stopp := p }
  else s

/-! ### Command clauses and checks (R283 to R285, R288, R294) -/

/-- The tile whose guard slice consumes endpoint e (R282, R380). -/
def guardTile (s : State) (e : Nat) : Option Nat :=
  if role s e = 2 then (List.range 4).find? (fun t => ownedByEngine s e (0x2000 + t)) else none

/-- The assigned axes that an endpoint commands: the guard consumes no other queue (R282). -/
def epAxes (s : State) (e : Nat) : List Nat := (assignedAxes s).filter (fun a => rd s ge_CMDEP a == e)

/-- Reason 1: every axis of the endpoint stops, and one entry is logged (R284). -/
def badClause (s : State) (e : Nat) : State :=
  match epAxes s e with
  | [] => s
  | a :: t =>
    let s := glogWrite s 9 (rd s ge_CLSENV a) a 0 1 0
    (a :: t).foldl (fun s b => stopReach s b 9 (rd s ge_CLSENV b)) s

/-- A clause is discarded and released with DONE (R284). -/
def discardClause (s : State) (e : Nat) : State := doneOp (incr s gg_DISCARDS) e

/-- The checks in progress on a slice (R293). -/
def checksOn (s : State) (t : Nat) : Nat := (s.axes.filter (fun e => axisTile e.1 == t && e.2.chk.isSome)).length

/-- A check begins. -/
def startCheckOf (s : State) (a : Nat) (c : Cmd) (again : Bool) : State :=
  setAxis s a { axisOf s a with chk := some ⟨c, limitsOf s a, false, again, false⟩ }

/-- Whether a header, as read from the head buffer, makes reason 1, and whether what the endpoint shows of the clause does
(R284). -/
def headerBad (h : Nat) : Bool := bits h 16 11 != 0x33 || lenOf h != 16
def clauseBad (s : State) (e : Nat) : Bool := (consOf s e).cls.head?.any (fun h => h.poison || h.pad)

/-- The guard's examination of a well-formed head clause, none where it must wait (R284, R285). -/
def examine (s : State) (e t : Nat) (bs : List Byte) : Option State :=
  let basis := ofBytesLE (bs.take 4)
  let a := ofBytesLE ((bs.drop 4).take 2)
  let slot := ofBytesLE (bs.drop 8)
  if 1024 ≤ a then some (discardClause (glogWrite s 9 0 0 0 5 (slotCseq slot)) e)
  else if !assigned s a then some (discardClause (glogWrite s 9 0 a 0 2 (slotCseq slot)) e)
  else if rd s ge_CMDEP a ≠ e then some (discardClause (glogWrite s 9 0 a 0 3 (slotCseq slot)) e)
  else if (axisOf s a).chk.isSome ∨ (axisOf s a).rel.isSome then none
  else if 4 ≤ slotMode slot ∨ slotSub slot = true then
    some (discardClause (stopAxis s a 9 (rd s ge_CLSENV a) 0 4 (slotCseq slot)) e)
  else if 3 ≤ astate s a ∨ astate s a = 0 ∨ (astate s a = 1 ∧ rdb s gs_SEEDED a = false) then some (discardClause s e)
  else if 4 ≤ checksOn s t then none
  else some (startCheckOf (doneOp s e) a ⟨slot, basis, 0, 0⟩ false)

/-- A guard slice runs while the edge domain of its tile is on (R399). -/
def sliceUp (s : State) (t : Nat) : Bool := pstate s (edgeDom t) == 0

/-- The guard takes the head of endpoint e, none where nothing can be taken. -/
def takeClause (s : State) (e : Nat) : Option State :=
  match guardTile s e with
  | none => none
  | some t =>
    let c := consOf s e
    let breaks (s : State) : Option State :=
      if s.broken.contains e then none else some (badClause { s with broken := s.broken ++ [e] } e)
    if !sliceUp s t || (epAxes s e).isEmpty then none
    else if c.broken then breaks s
    else match c.cls with
      | [] => none
      | h :: _ =>
        if !h.whole || !c.hdrIn then none
        else
          let (hb, s) := headWord s e h.pos
          if (consOf s e).broken then breaks s
          else if headerBad (ofBytesLE hb) || clauseBad s e then some (discardClause (badClause s e) e)
          else if c.hbEnd < h.pos + 20 then none
          else
            let (bs, s) := headPayload s e 16
            if clauseBad s e then some (discardClause (badClause s e) e) else examine s e t bs

/-- A command is refused (R288). -/
def refuseCmd (s : State) (a : Nat) (c : Cmd) (f : GFail) : State :=
  let s := incr (incr s gs_AREFUSED a) gg_REFUSED
  let s := if f.kind = 8 then incrSat s gc_VIOLS f.constr else s
  stopAxis (setAxis s a { axisOf s a with chk := none }) a f.kind f.cls f.constr f.value (slotCseq c.slot)

/-- A command is accepted and released (R288, R292, R294). -/
def acceptCmd (s : State) (a : Nat) (k : Chk) : State :=
  let p0 := cmdTarget s a k.cmd.slot
  let stop := cmdStop s a k.lim.dec p0
  let s := wr (incr s gs_ACCEPTS a) gs_MISSRUN a 0
  let s := if astate s a = 1 then wr s gs_ASTATE a 2 else s
  let s := if k.again then wr s gs_LATE a 1 else s
  let s := wakeFawn s (2 * axisPort a + 1)
  setAxis s a { axisOf s a with chk := none, rel := some { k.cmd with p0 := p0, stop := stop }, pst := p0, stopp := stop }

/-- The check of axis a completes: one whose fetch point has passed is made again (R294), any other decides. -/
def finishCheck (s : State) (a : Nat) (k : Chk) : State :=
  let (hit, s) := guardHit s a
  let s := if hit then ueccStop s a else s
  if k.dead || hit then incr (setAxis s a { axisOf s a with chk := none }) gg_DISCARDS
  else if k.late then startCheckOf s a k.cmd true
  else match cmdFail s a k.cmd k.lim with
    | some f => refuseCmd s a k.cmd f
    | none => acceptCmd s a k

/-! ### Enables and releases (R300, R301) -/

/-- ENAREL of port p. -/
def enarelPort (s : State) (p : Nat) : State :=
  if rd s ax_PSTATE p == 4 && !(portAxes s p).any (fun a => astate s a == 3) && !rdb s gg_BRACTIVE && decide (s.lc.dbg < 2)
  then wr s gg_ENAST 0 (setBit (rd s gg_ENAST) p)
  else wr s gg_GFAULT_ENAREF 0 1

/-- The ports that a mask names, ascending. -/
def maskOnes (m : Nat) (n : Nat) : List Nat := (List.range n).filter (fun p => bit m p)

/-- ENADROP of port p. -/
def enadropPort (s : State) (p : Nat) : State :=
  (portAxes s p).foldl (fun s a => stopAxis s a 11 3 0 0 0) (enaLow s p)

/-- RELEASE (R301). -/
def releaseOp (s : State) (a : Nat) : State :=
  let st := astate s a
  if (st = 4 ∨ (st = 5 ∧ bit (rd s gg_ENAST) (axisPort a) = true)) ∧ rdb s gg_BRACTIVE = false then
    let x := axisOf s a
    let s := if st = 4 then setAxis s a { x with p2 := x.p1, p3 := x.p1 } else wr s gs_SEEDED a 0
    let s := wr (wr (wr s gs_ASTATE a 1) gs_STOPKIND a 0) gs_STOPCLS a 0
    glogWrite s 12 0 a 0 0 0
  else wr s gs_RELREF a 1

/-- The supply warning of a brown stop has ended (R303 case 4). -/
def brownEnds (s : State) : State := wr s gg_BRACTIVE 0 0

/-! ### Narrowing (R302) -/

/-- Whether a new value of an NRW field narrows it or keeps it. -/
def narrows (F : Fld) (old new : Nat) : Bool :=
  if F = ge_PMIN then decide (sext 32 old ≤ sext 32 new)
  else if F = ge_PMAX then decide (sext 32 new ≤ sext 32 old)
  else if F = gc_DMIN then decide (sext 48 old ≤ sext 48 new)
  else if F = ge_MISSMAX then decide (max new 1 ≤ max old 1)
  else decide (new ≤ old)

/-- A write of an agent to an NRW field, on its merged value. -/
def nrwField (s : State) (F : Fld) (n new : Nat) : State :=
  if narrows F (rd s F n) new then wr s F n new else incr s gg_NRWREF

/-- GCTL.CNTCLR (R304). -/
def gctlClear (s : State) : State :=
  wr (wr (wr (wr (wr s gg_NRWREF 0 0) gg_REFUSED 0 0) gg_SUBS 0 0) gg_DISCARDS 0 0) gg_LOSTCOUNT 0 0

/-! ### Commands -/

/-- COMMAND_CLAUSE. -/
def execCommandClause (e : EpId) (s : State) : Out :=
  match takeClause s e with
  | some t => .next t
  | none => .next s

/-- CHECK. -/
def execCheck (a : AxisId) (s : State) : Out :=
  match (axisOf s a).chk with
  | some k => due s (sliceUp s (axisTile a)) (finishCheck s a k)
  | none => .next s

/-- A group stop reaches its slice. -/
def groupStopOp (s : State) (g : GStop) : State :=
  (groupOn s g.grp g.tile).foldl (fun s b => reachAxis s g.kind g.cls b) s

/-- GROUP_STOP: the oldest group stop on its way to the slice. -/
def execGroupStop (tile : Fin 4) (s : State) : Out :=
  match s.gstops.find? (fun g => g.tile == tile.val) with
  | some g => .next (groupStopOp { s with gstops := s.gstops.erase g } g)
  | none => .next s

/-- ENADLY: the ramps of a class 2 stop have all reached standstill, and the causing axis's ENADLY cycles have passed. -/
def execEnadly (p : PortId) (s : State) : Out :=
  match (portOf s p).ena, (portOf s p).still with
  | some a, some c => due s (decide (c + rd s ge_ENADLY a ≤ (portOf s p).cyc)) (disablePort s p (rd s gs_STOPKIND a) 2)
  | _, _ => .next s

/-- A write that reaches the global registers of the guard: they have no home domain of their own. -/
def atGuard (s : State) (act : State → State) : Out := served s act

/-- ENAREL. -/
def execEnarel (m : BitVec 64) (s : State) : Out := atGuard s (fun s => (maskOnes m.toNat 64).foldl enarelPort s)

/-- ENADROP. -/
def execEnadrop (m : BitVec 64) (s : State) : Out := atGuard s (fun s => (maskOnes m.toNat 64).foldl enadropPort s)

/-- A write that reaches a block of axis a, in the edge domain of its tile. -/
def atAxis (s : State) (a : Nat) (q : BusReq) (act : State → State) : Out := atBlock s (edgeDom (axisTile a)) false q act

/-- STOPR. -/
def execStopr (a : AxisId) (s : State) : Out :=
  atAxis s a (regReq ge_ACTL_STOPR a 0 1 1) (fun s => stopAxis s a 11 1 0 0 0)

/-- STOPD. -/
def execStopd (a : AxisId) (s : State) : Out :=
  atAxis s a (regReq ge_ACTL_STOPR a 0 2 1) (fun s => stopAxis s a 11 3 0 0 0)

/-- RELEASE. -/
def execRelease (a : AxisId) (s : State) : Out :=
  atAxis s a (regReq ge_ACTL_STOPR a 0 4 1) (fun s => releaseOp s a)

/-- The oldest log entry is removed. -/
def glogPop (s : State) : State := { s with glog := s.glog.drop 1 }

/-- GCTL_LOGPOP. -/
def execGctlLogpop (s : State) : Out := atGuard s glogPop

/-- GCTL_CNTCLR. -/
def execGctlCntclr (s : State) : Out := atGuard s gctlClear

end Sys2Proof.Machine
end

