-- ==== Sys2Proof/Machine/Line.lean ====
section
/-!
DEFINITION. The line of an axis port: the 8b/10b code, symbols, alignment, and the bytes of frames (R251 to R253, R257 to R259).
A symbol is its 10 bits in the order sent, a first: bit 9 is a (assumption 74).
-/

namespace Sys2Proof.Machine

/-! ### The 8b/10b code (R251) -/

/-- The ones among the n low bits of v. -/
def ones (n v : Nat) : Nat := ((List.range n).filter (fun i => bit v i)).length

/-- abcdei of D.x for x from 0 to 31, then of K.28, where the running disparity is negative. -/
def sixNeg : List Nat :=
  [0b100111, 0b011101, 0b101101, 0b110001, 0b110101, 0b101001, 0b011001, 0b111000,
   0b111001, 0b100101, 0b010101, 0b110100, 0b001101, 0b101100, 0b011100, 0b010111] ++
  [0b011011, 0b100011, 0b010011, 0b110010, 0b001011, 0b101010, 0b011010, 0b111010,
   0b110011, 0b100110, 0b010110, 0b110110, 0b001110, 0b101110, 0b011110, 0b101011, 0b001111]

/-- fghj of D.x.y, the primary form of y = 7, and of K.x.y, where the running disparity is negative. -/
def fourNeg : List Nat := [0b1011, 0b1001, 0b0101, 0b1100, 0b1101, 0b1010, 0b0110, 0b1110]
def fourNegK : List Nat := [0b1011, 0b0110, 0b1010, 0b1100, 0b1101, 0b0101, 0b1001, 0b0111]

/-- A sub-block of n bits under a disparity: unbalanced codes, and the balanced one that alternates, are inverted. -/
def subBlock (n : Nat) (pos alt : Bool) (c : Nat) : Nat := if pos && (alt || 2 * ones n c != n) then 2 ^ n - 1 - c else c

/-- The running disparity after a sub-block of n bits, as sent or received: by its ones, or by the two balanced codes that set it. -/
def afterBlock (n : Nat) (pos : Bool) (c : Nat) : Bool :=
  if n < 2 * ones n c then true
  else if 2 * ones n c < n then false
  else if c = 2 ^ (n / 2) - 1 then true
  else if c = 2 ^ n - 2 ^ (n / 2) then false
  else pos

/-- The alternate form of D.x.7. -/
def alternate7 (pos : Bool) (x : Nat) : Bool :=
  if pos then x == 11 || x == 13 || x == 14 else x == 17 || x == 18 || x == 20

/-- A symbol: a data byte, or a control symbol by its byte. -/
inductive Sym where
  | data (b : Byte)
  | ctl (b : Byte)
deriving DecidableEq, Repr

/-- The control symbols of R252: K28.5, K28.1, K28.3, K30.7. -/
def Sym.sof : Sym := .ctl 0xBC
def Sym.idle : Sym := .ctl 0x3C
def Sym.sync : Sym := .ctl 0x7C
def Sym.abort : Sym := .ctl 0xFE

/-- The first and the second sub-block of a symbol. -/
def sixOf (pos : Bool) (x : Nat) : Nat := subBlock 6 pos (x == 7) (sixNeg.getD x 0)
def fourOf (pos : Bool) (x y : Nat) : Nat :=
  if y = 7 ∧ alternate7 pos x = true then subBlock 4 pos false 0b0111 else subBlock 4 pos (y == 3) (fourNeg.getD y 0)
def fourOfK (pos : Bool) (y : Nat) : Nat := if pos then 15 - fourNegK.getD y 0 else fourNegK.getD y 0

/-- A symbol as sent under a running disparity, and the disparity after it. -/
def encodeSym (pos : Bool) (z : Sym) : BitVec 10 × Bool :=
  let (b, k) : Byte × Bool := match z with
    | .data b => (b, false)
    | .ctl b => (b, true)
  let x := b.toNat % 32
  let y := b.toNat / 32
  let six := sixOf pos (if k && x == 28 then 32 else x)
  let mid := afterBlock 6 pos six
  let four := if k then fourOfK mid y else fourOf mid x y
  (BitVec.ofNat 10 (six * 16 + four), afterBlock 4 mid four)

/-- A symbol as received under a running disparity, none where the code has no such symbol, and the disparity after it. -/
def decodeSym (pos : Bool) (c : BitVec 10) : Option Sym × Bool :=
  let six := c.toNat / 16
  let four := c.toNat % 16
  let mid := afterBlock 6 pos six
  let byte (x y : Nat) : Byte := BitVec.ofNat 8 (x + 32 * y)
  let z : Option Sym := match (List.range 33).find? (fun x => sixOf pos x == six) with
    | none => none
    | some 32 => ((List.range 8).find? (fun y => fourOfK mid y == four)).map (fun y => .ctl (byte 28 y))
    | some x => match (List.range 8).find? (fun y => fourOf mid x y == four) with
      | some y => some (.data (byte x y))
      | none => if (x == 23 || x == 27 || x == 29 || x == 30) && fourOfK mid 7 == four then some (.ctl (byte x 7)) else none
  (z, afterBlock 4 mid four)

/-- The symbols of a sequence as sent. -/
def encodeSyms (pos : Bool) : List Sym → List (BitVec 10)
  | [] => []
  | z :: t => (encodeSym pos z).1 :: encodeSyms (encodeSym pos z).2 t

/-- The symbols of a sequence as received. -/
def decodeSyms (pos : Bool) : List (BitVec 10) → List (Option Sym)
  | [] => []
  | c :: t => (decodeSym pos c).1 :: decodeSyms (decodeSym pos c).2 t

/-- The disparity under which the first symbol of a sequence is one of the code. -/
def startDisp (cs : List (BitVec 10)) : Bool := match cs with
  | c :: _ => (decodeSym false c).1.isNone
  | [] => false

/-! ### Alignment (R252, R253) -/

/-- A control symbol that the line does not use, or no symbol at all: a code error. -/
def codeError (z : Option Sym) : Bool := match z with
  | none => true
  | some (.data _) => false
  | some (.ctl b) => !(b == 0xBC || b == 0x3C || b == 0x7C || b == 0xFE)

/-- The symbol carries a comma. -/
def isComma (z : Option Sym) : Bool := z == some Sym.sof || z == some Sym.idle

/-- Alignment is lost within the symbols: 4 code errors within 16, or 256 in a row without a comma. `errs` are the latest 16
verdicts, `gap` the symbols since the latest comma. -/
def lossIn (errs : List Bool) (gap : Nat) : List (Option Sym) → Bool
  | [] => false
  | z :: t =>
    let errs := (codeError z :: errs).take 16
    let gap := if isComma z then 0 else gap + 1
    decide (4 ≤ (errs.filter id).length ∨ 256 ≤ gap) || lossIn errs gap t

/-- A receiver that was aligned loses alignment over these symbols. -/
def alignLost (cs : List (BitVec 10)) : Bool := lossIn [] 0 (decodeSyms (startDisp cs) cs)

/-- A receiver aligns on a comma and holds alignment for 64 symbols (R271). -/
def alignHeld (cs : List (BitVec 10)) : Bool :=
  let zs := decodeSyms (startDisp cs) cs
  decide (64 ≤ zs.length) && isComma (zs.headD none) && !lossIn [] 0 zs

/-! ### Frames (R257 to R259) -/

/-- CRC-16-CCITT, one bit and one byte, most significant bit first (R259). -/
def crcBit (c : Nat) : Nat := if bit c 15 then (c * 2) % 65536 ^^^ 0x1021 else (c * 2) % 65536
def crcByte (c : Nat) (b : Byte) : Nat :=
  crcBit (crcBit (crcBit (crcBit (crcBit (crcBit (crcBit (crcBit (c ^^^ b.toNat * 256))))))))
/-- The CRC of a frame's bytes. -/
def crc16 (bs : List Byte) : Nat := bs.foldl crcByte 0xFFFF

/-- A frame's bytes with their CRC, low byte first. -/
def withCrc (bs : List Byte) : List Byte := bs ++ bytesLE 2 (crc16 bs)

/-- The symbols of a frame. -/
def frameSyms (bs : List Byte) : List Sym := Sym.sof :: bs.map Sym.data
/-- The symbols of a frame as it left; ABORT ends one that was cut short (R266). -/
def sentSyms (bs : List Byte) (cut : Bool) : List Sym := frameSyms bs ++ if cut then [Sym.abort] else []

/-- The data bytes at the front, and whether what follows cuts them short: ABORT, another control symbol or a code error, but not
the IDLE between frames (R252). -/
def dataRun : List (Option Sym) → List Byte × Bool
  | some (.data b) :: t => (b :: (dataRun t).1, (dataRun t).2)
  | [] => ([], false)
  | z :: _ => ([], z != some Sym.idle)

/-- A frame as received, from its SOF on: its bytes, and whether it was cut short; none without a SOF. -/
def receiveFrame (cs : List (BitVec 10)) : Option (List Byte × Bool) :=
  match decodeSyms (startDisp cs) cs with
  | z :: t => if z = some Sym.sof then some (dataRun t) else none
  | [] => none

/-- A frame is whole and its CRC is good. -/
def crcGood (bs : List Byte) (cut : Bool) : Bool :=
  !cut && decide (4 ≤ bs.length) && crc16 (bs.take (bs.length - 2)) == ofBytesLE (bs.drop (bs.length - 2))

/-- TYPE of a frame, 0 without a header (R258). -/
def frameType (bs : List Byte) : Nat := bits (bs.headD 0).toNat 3 0

/-- The ENUM frame that assigns an address (R258, R272). -/
def enumFrame (addr : Nat) : List Byte := withCrc [BitVec.ofNat 8 (3 + 16 * addr), 0]

/-- The header of a CMD frame (R258, R265). -/
def cmdHeader (lead target : Nat) : List Byte := [BitVec.ofNat 8 (1 + 16 * lead), BitVec.ofNat 8 target]

end Sys2Proof.Machine
end

