-- ==== Sys2Proof/Machine/Operands.lean ====
section
/-!
DEFINITION. Register operands and the arithmetic of the kid and fawn instructions (R54, R94, R99 to R101, R104).
-/

namespace Sys2Proof.Machine

/-- The 16 byte registers. -/
abbrev Regs := Vector Byte 16

/-- A byte register. -/
def Regs.byte (b : Regs) (r : Fin 16) : Byte := b[r]
/-- A pair register (R54). -/
def Regs.pair (b : Regs) (w : Fin 8) : Word16 := b[2 * w.val + 1] ++ b[2 * w.val]
/-- Write a byte register. -/
def Regs.setByte (b : Regs) (r : Fin 16) (v : Byte) : Regs := b.set r v
/-- Write a pair register. -/
def Regs.setPair (b : Regs) (w : Fin 8) (v : Word16) : Regs :=
  (b.set (2 * w.val) (v.extractLsb' 0 8)).set (2 * w.val + 1) (v.extractLsb' 8 8)

/-- Write what an access loads. -/
def Regs.load (b : Regs) (d : Dst) (v : Nat) : Regs := match d with
  | .byte r => b.setByte r (BitVec.ofNat 8 v)
  | .pair w => b.setPair w (BitVec.ofNat 16 v)

/-- A byte register b0 to b7. -/
def low (r : Fin 8) : Fin 16 := ⟨r.val, Nat.lt_trans r.isLt (by decide)⟩

/-- The bytes of a pair. -/
def pairBytes (w : Fin 8) : List Nat := [2 * w.val, 2 * w.val + 1]

/-- What ADDI adds to a pair: 1, 2, 4 or 8 in the short form, a signed constant in the long one (R101). -/
def pairImm (fm : Form) (imm : BitVec 4) : Word16 := match fm with
  | .short => imm.zeroExtend 16
  | .long => imm.signExtend 16

/-- A shift count (R94). -/
def shiftBy (n : Fin 8) : Nat := n.val + 1

/-- A rotation to the left by n mod 8 places (R100). -/
def rotL (v : Byte) (n : Nat) : Byte := v.rotateLeft (n % 8)

/-- The target of a branch or a short JAL on a kid (R104). -/
def target {n : Nat} (pc : Word16) (off : BitVec n) : Word16 := pc + 1 + off.signExtend 16

/-- The target on a fawn (R113). -/
def fawnTarget {n : Nat} (pc : BitVec 10) (off : BitVec n) : BitVec 10 :=
  BitVec.ofInt 10 ((pc.toNat : Int) + 1 + off.toInt)

/-! ### Results that are registers alone (R100, R101) -/

def opMov (d s : Fin 16) (b : Regs) : Regs := b.setByte d (b.byte s)
def opMovi (d : Fin 8) (imm : Byte) (b : Regs) : Regs := b.setByte (low d) imm
def opAdd (d s : Fin 16) (b : Regs) : Regs := b.setByte d (b.byte d + b.byte s)
def opAddiB (d : Fin 16) (imm : BitVec 4) (b : Regs) : Regs := b.setByte d (b.byte d + imm.signExtend 8)
def opSub (d s : Fin 16) (b : Regs) : Regs := b.setByte d (b.byte d - b.byte s)
def opAnd (d s : Fin 16) (b : Regs) : Regs := b.setByte d (b.byte d &&& b.byte s)
def opOr (d s : Fin 16) (b : Regs) : Regs := b.setByte d (b.byte d ||| b.byte s)
def opXor (d s : Fin 16) (b : Regs) : Regs := b.setByte d (b.byte d ^^^ b.byte s)
def opNot (d : Fin 16) (b : Regs) : Regs := b.setByte d (~~~(b.byte d))
def opShl (d : Fin 16) (n : Fin 8) (b : Regs) : Regs := b.setByte d (b.byte d <<< shiftBy n)
def opShr (d : Fin 16) (n : Fin 8) (b : Regs) : Regs := b.setByte d (b.byte d >>> shiftBy n)
def opSar (d : Fin 16) (n : Fin 8) (b : Regs) : Regs := b.setByte d ((b.byte d).sshiftRight (shiftBy n))
def opRol (d : Fin 16) (n : Fin 8) (b : Regs) : Regs := b.setByte d (rotL (b.byte d) (shiftBy n))
def opMovw (d s : Fin 8) (b : Regs) : Regs := b.setPair d (b.pair s)
def opAddw (d s : Fin 8) (b : Regs) : Regs := b.setPair d (b.pair d + b.pair s)
def opSubw (d s : Fin 8) (b : Regs) : Regs := b.setPair d (b.pair d - b.pair s)
def opAddiW (fm : Form) (d : Fin 8) (imm : BitVec 4) (b : Regs) : Regs := b.setPair d (b.pair d + pairImm fm imm)
/-- MUL: the low byte of the pair times the register (R101). -/
def opMul (d : Fin 8) (s : Fin 16) (b : Regs) : Regs :=
  b.setPair d ((b.pair d).truncate 8 |>.zeroExtend 16 |> (· * (b.byte s).zeroExtend 16))
/-- DIV by a divisor that is not 0. -/
def opDiv (d : Fin 8) (s : Fin 16) (b : Regs) : Regs := b.setPair d (b.pair d / (b.byte s).zeroExtend 16)

/-! ### The answer to a fawn's waiting read -/

/-- The read at address a that fawn f waits on completes with a value. -/
def fawnLoaded (s : State) (f a v : Nat) : State :=
  let w := fawnOf s f
  match w.wait with
  | some (.load d x) => if x.toNat = a then setFawn s f { w with b := Regs.load w.b d v, pc := w.pc + 1, wait := none } else s
  | _ => s

end Sys2Proof.Machine
end

