-- ==== Sys2Proof/Machine/Port.lean ====
section
/-!
DEFINITION. The axis ports: states, cycles, frames, the service position, position compare (R250 to R281).
-/

namespace Sys2Proof.Machine

/-! ### Layout (R255, R260) -/

/-- P of R255, in timebase LSB. -/
def period (s : State) (p : Nat) : Nat := if rdb s ax_PCFG_RATE p then 8000 else 32000
/-- Axis positions of a frame (R260). -/
def axPositions (s : State) (p : Nat) : Nat :=
  if rdb s ax_PCFG_RATE p then (if rdb s ax_PCFG_SVC1M p then 3 else 4) else 16
/-- The service position, where the layout has one. -/
def svcPosition (s : State) (p : Nat) : Option Nat :=
  if rdb s ax_PCFG_RATE p then (if rdb s ax_PCFG_SVC1M p then some 3 else none) else some 16
/-- Positions of a body. -/
def bodyPositions (s : State) (p : Nat) : Nat := axPositions s p + b2n (svcPosition s p).isSome
/-- The slot at CMD position i. -/
def slotAt (s : State) (p i : Nat) : Nat := (rd s ax_PCFG_LEAD p + i) % axPositions s p
/-- The CMD position of a slot. -/
def posOfSlot (s : State) (p slot : Nat) : Nat :=
  let n := axPositions s p
  (slot + n - rd s ax_PCFG_LEAD p % n) % n

/-! ### Port state and events (R271, R279) -/

/-- PSTATE: 0 DOWN, 1 ALIGN, 2 ENUM, 3 CONFIG, 4 RUN, 5 FAULT. -/
def portState (s : State) (p : Nat) : Nat := rd s ax_PSTATE p
/-- The edge domain of the port's tile is on. -/
def portUp (s : State) (p : Nat) : Bool := pstate s (edgeDom (p / 16)) == 0
/-- The port is in CONFIG or RUN. -/
def portLive (s : State) (p : Nat) : Bool := portState s p == 3 || portState s p == 4
def portFenced (s : State) (p : Nat) : Bool := bit (rd s ts_FENCEP) p

/-- The port's doorbell source (R279). -/
def portNotify (s : State) (p : Nat) : State :=
  raiseMapped s (rdb s ax_PDB_MAPPED p) (rd s ax_PDB_HERD p) (16 + rd s ax_PDB_SRC p)
/-- A PFAULT bit is set. -/
def portFault (s : State) (F : Fld) (p : Nat) : State := if rdb s F p then s else portNotify (wr s F p 1) p
/-- An event of the port reaches its fawns. -/
def portEvent (s : State) (p : Nat) : State := wakeFawn (wakeFawn s (2 * p)) (2 * p + 1)

/-- A service transaction ends (R270). -/
def svcEnd (s : State) (p res : Nat) : State :=
  let s := wr (wr s ax_SVCBUSY p 0) ax_SVCRES p res
  portNotify (setPort s p { portOf s p with svc := none }) p

/-- t_n of the current cycle: the latest time that matches CYCPHASE. -/
def cycleStart (s : State) (p : Nat) : Nat :=
  let P := period s p
  now s - (now s + P - rd s ax_CYCPHASE p % P) % P

/-- A frame that is being sent ends with ABORT. -/
def cutFrame (s : State) (p : Nat) : State :=
  let x := portOf s p
  match x.frame with
  | some f => if f.st = .going then setPort s p { x with frame := some { f with st := .aborted }, out := f.bytes, cut := true } else s
  | none => s

/-- The port enters a state (R271). Leaving RUN reaches the guard (R300); leaving CONFIG and RUN ends the frame that is being sent
with ABORT and ends a transaction. In ENUM the port sends the ENUM frame with address 0 (R272); in CONFIG its cycles start with the
next t_n. -/
def portEnter (s : State) (p st : Nat) : State :=
  let s := if portState s p = 4 ∧ st ≠ 4 then portLeaveRun s p else s
  let s := wr s ax_PSTATE p st
  let s := if st = 3 then setPort s p { portOf s p with cyct := BitVec.ofNat 64 (cycleStart s p) } else s
  let s := if st = 3 ∨ st = 4 then s
    else
      let s := cutFrame s p
      let x := portOf s p
      let s := setPort s p { x with seqDone := false, runHeld := false, frame := none, opened := false, gone := [], pre := [],
                                    subs := [], tx := [], cyc := 0, fbLast := 0 }
      let s := if st = 2 then setPort s p { portOf s p with out := enumFrame 0, cut := false } else s
      if x.svc.isSome then svcEnd s p 6 else s
  portEvent s p

/-- PCTL.START (R271, R437). -/
def portStart (s : State) (p : Nat) : State :=
  if portFenced s p then s
  else if portState s p = 0 then portEnter (unfenceFawn (unfenceFawn s (2 * p)) (2 * p + 1)) p 1
  else if portState s p = 5 then portEnter s p 1
  else portFault s ax_PFAULT_CTLREF p

/-- PCTL.STOP. -/
def portStop (s : State) (p : Nat) : State := portEnter s p 0

/-- PCTL.RUN. -/
def portRun (s : State) (p : Nat) : State :=
  if portState s p = 3 then
    if (portOf s p).seqDone then portEnter s p 4 else setPort s p { portOf s p with runHeld := true }
  else portFault s ax_PFAULT_CTLREF p

/-- Restart a stopped fawn, its cause and address fields cleared. -/
def rerunFawn (s : State) (f : Nat) (cause addr : Fld) (n : Nat) : State :=
  if (fawnOf s f).st = .stopped then startFawn (wr (wr s cause n 0) addr n 0) f else s

/-- PCTL.FAWNRUN (R278). -/
def portFawnrun (s : State) (p : Nat) : State :=
  rerunFawn (rerunFawn s (2 * p) ax_PFAWN_RXCAUSE ax_PFAWN_RXADDR p) (2 * p + 1) ax_PFAWN_TXCAUSE ax_PFAWN_TXADDR p

/-! ### Cycles (R255, R274) -/

/-- A transaction whose target cycle has passed without its record: again, or TIMEOUT after 3 attempts (R270). -/
def svcMissed (s : State) (p : Nat) (v : Svc) : State :=
  if 3 ≤ v.tries then svcEnd s p 5 else setPort s p { portOf s p with svc := some { v with due := none } }

/-- The symbols of a CMD or FB frame (R260). -/
def frameLen (s : State) (p : Nat) : Nat := 5 + 8 * bodyPositions s p

/-- The cycles within which the FB frame of a cycle has come to its end: its SOF comes RTT less 100 ns after t_n (R263, R273). -/
def fbWithin (s : State) (p : Nat) : Nat := (rd s ax_RTT p - 800 + 200 * frameLen s p + period s p - 1) / period s p

/-- A cycle whose FB frame is overdue when cycle m begins, and was not good (R281 case 1). -/
def fbMissing (s : State) (p m : Nat) : Bool := decide (fbWithin s p < m ∧ (portOf s p).fbLast < m - fbWithin s p)

/-- SYNC leaves the pins: a new cycle. -/
def syncOp (s : State) (p : Nat) : State :=
  let s := incr s ax_CYCLES p
  let x := portOf s p
  let s := if fbMissing s p (x.cyc + 1) then incr s ax_FBMISS p else s
  let s := setPort s p { x with cyc := x.cyc + 1, cyct := BitVec.ofNat 64 (cycleStart s p), opened := false, txUnder := false }
  let s := match x.svc with
    | some v => match v.due with
      | some d => if d + 2 ≤ x.cyc + 1 then svcMissed s p v else s
      | none => s
    | none => s
  portEvent s p

/-! ### The command frame (R265, R266, R268) -/

/-- The bytes of position i are complete in the island. -/
def posComplete (x : Port) (i : Nat) : Bool := (List.range 8).all (fun j => x.tx.contains (i * 8 + j))

/-- The request as the service position carries it (R268). -/
def Svc.word (v : Svc) : Nat := v.chip + 2 ^ 4 * v.op + 2 ^ 8 * v.tag.toNat + 2 ^ 16 * v.reg + 2 ^ 24 * v.data

/-- The request of software that waits to be sent: in CONFIG, once the automatic sequence has ended (R270, R273). -/
def svcWaiting (s : State) (p : Nat) : Option Svc :=
  let x := portOf s p
  if portState s p = 3 ∧ x.seqDone = false then none else x.svc.filter (fun v => v.due.isNone)

/-- The service request as the transmit fawn reads it: the request that the next frame carries, or 0. -/
def svcRequestWord (s : State) (p : Nat) : Nat := ((svcWaiting s p).map Svc.word).getD 0

/-- The TX buffer of a port, position i (R277). -/
def txAddr (p i : Nat) : Nat := ioAddr (0x8001 + p * 4) (2 + i * 8)

/-- When symbol k of a frame leaves: the SYNC pair moves the later ones by 2 symbol times (R281 case 3). -/
def TxFrame.symTime (f : TxFrame) (k : Nat) : Nat :=
  let t := f.sof.toNat + 200 * k
  if f.sync.toNat ≤ t then t + 400 else t

/-- The bytes of position i as the island sends them, none where they are not complete; an uncorrectable word of the buffer is not.
In CONFIG the port sends HOLD with RUN clear, and the service request (R271). -/
def positionBytes (s : State) (p : Nat) (f : TxFrame) (i : Nat) : Option (List Byte) × State :=
  if f.own then (some (bytesLE 8 (if svcPosition s p = some i then f.svcw else 0)), s)
  else if posComplete (portOf s p) i then memRead s (txAddr p i) 8 ⟨10, p⟩
  else (none, s)

/-- The next position of the frame is due: it goes, or ABORT takes the place of the rest (R266). -/
def sendPosition (s : State) (p : Nat) (f : TxFrame) : State :=
  let i := f.sent
  match positionBytes s p f i with
  | (some bs, s) =>
    let x := portOf s p
    let hit := decide (svcPosition s p = some i) && (match svcWaiting s p with
      | some v => bs == bytesLE 8 v.word
      | none => false)
    let g := { f with bytes := f.bytes ++ bs, sent := i + 1, carries := f.carries || hit }
    setPort s p { x with frame := some g, tx := x.tx.filter (fun b => decide (b / 8 ≠ i)) }
  | (none, s) =>
    let s := cutFrame (incr s ax_UNDERRUN p) p
    setPort s p { portOf s p with txUnder := true }

/-- The request has gone out in the frame for cycle d. -/
def svcSent (s : State) (p d : Nat) : State :=
  let x := portOf s p
  match x.svc with
  | some v => if v.due.isNone then setPort s p { x with svc := some { v with tries := v.tries + 1, due := some d } } else s
  | none => s

/-- The frame has gone whole, with its CRC. -/
def endFrame (s : State) (p : Nat) (f : TxFrame) : State :=
  let s := setPort s p { portOf s p with frame := some { f with st := .gone }, out := withCrc f.bytes, cut := false }
  if f.carries then svcSent s p f.target else s

/-- What the line of a port has sent by now: the positions whose first symbol is due, and the end of the frame. -/
def txUpTo (s : State) (p : Nat) : Nat → State
  | 0 => s
  | n + 1 => match (portOf s p).frame with
    | some f =>
      if f.st ≠ .going then s
      else if f.sent < bodyPositions s p then
        (if f.symTime (3 + 8 * f.sent) ≤ now s then txUpTo (sendPosition s p f) p n else s)
      else if f.symTime (frameLen s p) ≤ now s then endFrame s p f else s
    | none => s

/-- The lines of all ports go on. -/
def linesUp (s : State) : State := s.ports.foldl (fun s e => txUpTo s e.1 (bodyPositions s e.1 + 1)) s

/-- The target cycle of a frame that opens now (R265). -/
def targetCycle (s : State) (p : Nat) : Nat := (portOf s p).cyc + rd s ax_PCFG_CMDLEAD p

/-- The time since t_n of the current cycle. -/
def inCycle (s : State) (p : Nat) : Nat := now s - (portOf s p).cyct.toNat

/-- A CMD frame can open: none is being sent, position 0 is complete or CMDLATE has come (R265). -/
def cmdDue (s : State) (p : Nat) : Bool :=
  let x := portOf s p
  decide (0 < x.cyc) && !x.opened && !(x.frame.any (fun f => f.st == .going)) &&
    (portState s p == 3 || posComplete x 0 || decide (rd s ax_PCFG_CMDLATE p * 200 ≤ inCycle s p))

/-- The transmit island opens the frame of the cycle at the next symbol boundary, after the SYNC pair. -/
def cmdOp (s : State) (p : Nat) : State :=
  let x := portOf s p
  let d := targetCycle s p
  let f : TxFrame :=
    { target := d, sof := x.cyct + BitVec.ofNat 64 (max 2 ((inCycle s p + 199) / 200) * 200),
      sync := x.cyct + BitVec.ofNat 64 (period s p), own := portState s p == 3, svcw := svcRequestWord s p,
      bytes := cmdHeader (rd s ax_PCFG_LEAD p) d, sent := 0, carries := false, st := .going }
  portEvent (setPort s p { x with opened := true, frame := some f, gone := x.pre, pre := [] }) p

/-- Mark position i fetched: for the frame last opened, or for the next one. -/
def Port.fetched (x : Port) (i : Nat) : Port :=
  if x.frame.isSome && !x.gone.contains i then { x with gone := i :: x.gone } else { x with pre := i :: x.pre }

/-- A slot's value waits for the transmit fawn, no byte of it read. -/
def latchSlot (s : State) (p slot v : Nat) : State :=
  let x := portOf s p
  setPort s p { x with subs := alSet x.subs slot (v, 0) }

/-- The fetch point of position i (R266): with no release the substitute is fetched. -/
def fetchPointOp (s : State) (p i : Nat) : State :=
  let a := p * 16 + slotAt s p i
  match (axisOf s a).rel with
  | some _ => s
  | none =>
    let (v, s) := fetchSub s a
    let s := latchSlot s p (slotAt s p i) v
    wakeFawn (setPort s p ((portOf s p).fetched i)) (2 * p + 1)

/-- The fetch point of position i has come, and the position is not fetched yet: for the next frame at CMDLATE − 4, for the one
last opened 8i − 1 symbol times after its SOF (R266). -/
def fetchDue (s : State) (p i : Nat) : Bool :=
  let x := portOf s p
  portState s p == 4 && decide (i < axPositions s p) &&
    (if i = 0 then decide (0 < x.cyc) && !x.opened && !x.pre.contains 0 &&
        decide ((rd s ax_PCFG_CMDLATE p - 4) * 200 ≤ inCycle s p)
      else !x.gone.contains i && x.frame.any (fun f => decide (f.sof.toNat + (8 * i - 1) * 200 ≤ now s)))

/-- Byte b of CMDSLOT's slot as the transmit fawn reads it (R266, R277), none where the read waits. Every byte of a fetched
slot is read once; a further read of a byte is a read of the next slot. -/
def cmdSlotByte (s : State) (p slot b : Nat) : Option (Nat × State) :=
  let x := portOf s p
  let take (s : State) (v m : Nat) : Option (Nat × State) :=
    some (v / 2 ^ (8 * b) % 256, setPort s p { portOf s p with subs := alSet (portOf s p).subs slot (v, setBit m b) })
  match alGet x.subs slot with
  | some (v, m) =>
    if !bit m b then take s v m
    else match (axisOf s (p * 16 + slot)).rel with
      | some c =>
        let (v, s) := fetchRel s (p * 16 + slot) c
        take (setPort s p ((portOf s p).fetched (posOfSlot s p slot))) v 0
      | none => none
  | none => match (axisOf s (p * 16 + slot)).rel with
    | some c =>
      let (v, s) := fetchRel s (p * 16 + slot) c
      take (setPort s p ((portOf s p).fetched (posOfSlot s p slot))) v 0
    | none => none

/-- The line out of a port (R271), where the device is in operation (R51). -/
inductive LineOut where
  | steady0 | idle | frames
deriving DecidableEq, Repr

def lineOut (s : State) (p : Nat) : LineOut :=
  if portLive s p then .frames else if portState s p = 0 then .steady0 else .idle

/-- The latest frame that a port has sent, as its symbols went out under a running disparity. -/
def frameSent (pos : Bool) (x : Port) : List (BitVec 10) := encodeSyms pos (sentSyms x.out x.cut)

/-! ### Position compare (R276) -/

/-- dir_ok of R276. -/
def dirOk (tdir : Nat) (a b : Int) : Bool :=
  if tdir = 1 then decide (a < b) else if tdir = 2 then decide (b < a) else decide (b ≠ a)
/-- between of R276. -/
def between (x a b : Int) : Bool := decide ((a < b ∧ a < x ∧ x ≤ b) ∨ (b < a ∧ b ≤ x ∧ x < a))

/-- The time at which an edge is placed, if one is. -/
def edgeTime (s : State) (p t : Nat) (sn : Nat) (p0 p1 : Int) : Option Int :=
  let tpos := sext 32 (rd s ax_TPOS p t)
  let dir := rd s ax_TDIR p t
  let soon : Int := now s + 64
  if dirOk dir p0 p1 && between tpos p0 p1 then some soon
  else if dirOk dir p0 p1 && between tpos p1 (2 * p1 - p0) then
    some (max ((sn : Int) + Int.fdiv (period s p * (tpos - p1)) (p1 - p0)) soon)
  else none

def unitOf (x : Port) (t : Nat) : Cmp := if t = 0 then x.unit0 else x.unit1
def setUnit (s : State) (p t : Nat) (u : Cmp) : State :=
  let x := portOf s p
  setPort s p (if t = 0 then { x with unit0 := u } else { x with unit1 := u })

/-- TMODE as it acts. -/
def tmode (s : State) (p t : Nat) : Nat :=
  let m := rd s ax_TMODE p t
  if m = 2 ∧ rd s ax_TINT p t = 0 then 1 else m

/-- The unit after an edge has been placed. -/
def afterFire (s : State) (p t : Nat) : State :=
  if tmode s p t = 2 then wr s ax_TPOS p (rd s ax_TPOS p t + rd s ax_TINT p t) t else wr s ax_TARMED p 0 t

/-- A feedback slot reaches compare unit t. -/
def compareFb (s : State) (p : Nat) (fbs : List Nat) (t : Nat) : State :=
  let fb := fbs.getD (rd s ax_TSLOT p t) 0
  let m := rd s ax_TMODE p t
  if rdb s ax_TARMED p t && (m == 1 || m == 2) && bit fb 48 then
    let p1 := sext 32 fb
    let u := unitOf (portOf s p) t
    let edge := match u.p0 with
      | some p0 => edgeTime s p t (portOf s p).sampt.toNat p0 p1
      | none => none
    match edge with
    | some e => afterFire (setUnit s p t { u with p0 := some p1, edges := u.edges ++ [BitVec.ofInt 64 e] }) p t
    | none => setUnit s p t { u with p0 := some p1 }
  else s

/-- An edge time reaches a camera port (R314). -/
def camEdge (s : State) (c : Nat) (e : Time) : State :=
  let x := camOf s c
  if x.edges.length < 4 then setCam s c { x with edges := x.edges ++ [e] } else incrSat s cm_EDGEOVF c

/-- The trigger output goes high at time e, for TWIDTH (R276). -/
def triggerOp (s : State) (p t : Nat) (e : Time) : State :=
  let s := wr (incr s ax_TCNT p t) ax_TTIME p e.toNat t
  let w := max (rd s ax_TWIDTH p t) 1
  let s := { s with pins := { s.pins with trig := alSet s.pins.trig (2 * p + t) (e.toNat + 64 * w) } }
  if rdb s ax_TLINK p t then camEdge s (rd s ax_TCAM p t) e else s

/-! ### Feedback (R257 to R263, R268 to R275, R281) -/

/-- Whether an FB frame is whole and good (R257 to R260). -/
def fbGood (s : State) (p : Nat) (bs : List Byte) (bad : Bool) : Bool :=
  bs.length == frameLen s p - 1 && frameType bs == 2 && crcGood bs bad

/-- Position i of a body. -/
def fbSlot (bs : List Byte) (i : Nat) : Nat := ofBytesLE ((bs.drop (2 + 8 * i)).take 8)

/-- A record in the service position (R268 to R270). -/
def svcRecord (s : State) (p : Nat) (h1 : Nat) (r : Nat) : State :=
  let kind := bits r 6 4
  let s := if kind = 3 then portNotify (wr (incr s ax_EVCOUNT p) ax_EVLAST p r) p else s
  match (portOf s p).svc with
  | some v => match v.due with
    | some d =>
      if d % 256 ≠ h1 then s
      else if kind = v.op ∧ bits r 3 0 = v.chip ∧ bits r 15 8 = v.tag.toNat then
        let st := bits r 63 56
        let s := if st = 0 ∧ v.op = 1 then wr s ax_SVCRDATA p (bits r 55 24) else s
        svcEnd s p (min st 3 + 1)
      else svcMissed s p v
    | none => s
  | none => s

/-- What a good frame does beside its times. -/
def fbUse (s : State) (p : Nat) (bs : List Byte) : State :=
  let n := axPositions s p
  let fbs := (List.range n).map (fbSlot bs)
  let s := (List.range n).foldl (fun s i => seedAxis s (p * 16 + i) (fbs.getD i 0)) s
  let s := (List.range 2).foldl (fun s t => compareFb s p fbs t) s
  match svcPosition s p with
  | some i => svcRecord s p (bs.getD 1 0).toNat (fbSlot bs i)
  | none => s

/-- The cycles between the current one and that of an FB frame that has just ended: as H1 of a good frame says, else by the time at
which its SOF came, RTT less 100 ns after t_n (R263, R274). -/
def fbBack (s : State) (p : Nat) (good : Bool) (bs : List Byte) : Nat :=
  let x := portOf s p
  if good then (x.cyc + 256 - (bs.getD 1 0).toNat) % 256
  else
    let sof : Int := (now s : Int) - 200 * (bs.length + 1)
    (Int.fdiv ((x.cyct.toNat : Int) - (sof - rd s ax_RTT p + 800) + period s p / 2) (period s p)).toNat

/-- An FB frame has arrived to its end. -/
def fbOp (s : State) (p : Nat) (bs : List Byte) (bad : Bool) : State :=
  let good := fbGood s p bs bad
  let x := portOf s p
  let back := fbBack s p good bs
  let sn := x.cyct - BitVec.ofNat 64 (back * period s p) + BitVec.ofNat 64 (rd s ax_PSAMP p)
  let (t, s) := stamp s
  let s := setPort s p { x with sampt := sn, fbend := BitVec.ofNat 64 t, rxLen := bs.length, rxStat := 1 + 2 * b2n good + 4 * b2n (!good),
                                fbLast := if good then max x.fbLast (x.cyc - back) else x.fbLast }
  let s := memWrite s (ioAddr (0x8000 + p * 4) 0) ((bs ++ List.replicate 0x8C 0).take 0x8C) ⟨10, p⟩
  let s := if good then fbUse s p bs else incr s ax_CRCERR p
  portEvent s p

/-- A frame comes up the line in CONFIG or RUN. One of another TYPE that is whole and good is no FB frame, and none is discarded
without being counted (R257). -/
def upFrame (s : State) (p : Nat) (line : List (BitVec 10)) : State := match receiveFrame line with
  | some (bs, cut) => if crcGood bs cut && (frameType bs == 1 || frameType bs == 3 || frameType bs == 4) then s else fbOp s p bs cut
  | none => s

/-! ### Enumeration (R272, R273) -/

/-- ESAMPDLY of chip k in a chain of n, in LSB: PSAMP less the delay to it, the division floored (R256, R273, assumption 36). -/
def sampleDelay (n rtt k : Nat) : Int := Int.fdiv (((n : Int) - 1 - k) * ((rtt : Int) - 1600 - 1200 * (n - 1))) (2 * n) + 600 * (n - 1 - k) + 400

/-- What the start-up sequence writes to chip k: ESAMPDLY, ECFG and ESLOTS (R273, R280). -/
def confWrites (s : State) (p n k : Nat) : List (Nat × Nat × Nat) :=
  [(k, 4, twos 16 (sampleDelay n (rd s ax_RTT p) k)),
   (k, 5, rd s ax_PCFG_RATE p + 2 * rd s ax_PCFG_SVC1M p + 4 * rd s ax_PCFG_LEAD p),
   (k, 3, rd s ax_CHIPSLOTS p k)]

/-- An ENUMR frame arrives: CHIPS, RTT and PSAMP, and CONFIG or FAULT; one that is discarded is counted. PSAMP is rtt ÷ 2 less
50 ns, floored (assumption 36). -/
def enumrOp (s : State) (p : Nat) (bs : List Byte) (cut : Bool) (rtt : Nat) : State :=
  if !crcGood bs cut || bs.length != 4 || frameType bs != 4 then incr s ax_CRCERR p
  else
    let tail := bits (bs.headD 0).toNat 7 4
    let s := wr (wr s ax_CHIPS p (tail + 1)) ax_RTT p rtt
    if tail + 1 = rd s ax_PCFG_EXPCHIPS p then
      portEnter (wr s ax_PSAMP p (twos 16 (rtt / 2 - 400))) p 3
    else portEnter (portFault s ax_PFAULT_CHIPMIS p) p 5

/-- What a chip answered is what the image expects. -/
def ansOk (s : State) (p k : Nat) : ChipAns → Bool
  | .eid v => v.toNat == rd s ax_EXPID p k
  | _ => false

/-- The automatic sequence ends: each chip has identified itself and taken its registers, or the port is in FAULT. -/
def configOp (s : State) (p : Nat) (ans : List ChipAns) : State :=
  let n := rd s ax_CHIPS p
  if ans.length == n && (List.range n).all (fun k => ansOk s p k (ans.getD k .timeout)) then
    let x := portOf s p
    let s := setPort s p { x with seqDone := true, runHeld := false, conf := ((List.range n).map (confWrites s p n)).flatten }
    if x.runHeld then portEnter s p 4 else s
  else portEnter (portFault s ax_PFAULT_CHIPMIS p) p 5

/-- SVCGO (R270, R279). -/
def svcgoOp (s : State) (p : Nat) : State :=
  if rdb s ax_SVCBUSY p then portFault s ax_PFAULT_BUSYGO p
  else
    let op := rd s ax_SVCREQ_OP p
    if !portLive s p || (svcPosition s p).isNone || op == 0 || op == 3 then svcEnd s p 6
    else
      let x := portOf s p
      let tag := x.tag + 1
      let v : Svc := ⟨rd s ax_SVCREQ_CHIP p, op, rd s ax_SVCREQ_REG p, if op = 1 then 0 else rd s ax_SVCWDATA p, tag, 0, none⟩
      let s := wr (wr s ax_SVCBUSY p 1) ax_SVCRES p 0
      portEvent (setPort s p { x with tag := tag, svc := some v }) p

/-- TARM: the next feedback becomes p0. -/
def tarmOp (s : State) (p t : Nat) : State :=
  setUnit (wr s ax_TARMED p 1 t) p t { unitOf (portOf s p) t with p0 := none }

/-- ARX loses alignment in CONFIG or RUN (R281 case 2). -/
def alignlossOp (s : State) (p : Nat) : State := portEnter (portFault (incr s ax_ALIGNLOSS p) ax_PFAULT_ALIGN p) p 5

/-! ### Commands -/

/-- A write that reaches the block of port p. -/
def atPort (s : State) (p : Nat) (q : BusReq) (act : State → State) : Out := atBlock s (edgeDom (p / 16)) false q act

/-- PCTL_START. -/
def execPctlStart (p : PortId) (s : State) : Out := atPort s p (regReq ax_PCTL_START p 0 1 1) (fun s => portStart s p)
/-- PCTL_STOP. -/
def execPctlStop (p : PortId) (s : State) : Out := atPort s p (regReq ax_PCTL_START p 0 2 1) (fun s => portStop s p)
/-- PCTL_RUN. -/
def execPctlRun (p : PortId) (s : State) : Out := atPort s p (regReq ax_PCTL_START p 0 4 1) (fun s => portRun s p)
/-- PCTL_FAWNRUN. -/
def execPctlFawnrun (p : PortId) (s : State) : Out := atPort s p (regReq ax_PCTL_START p 0 8 1) (fun s => portFawnrun s p)

/-- ALIGN: ARX has held alignment for 64 symbols. -/
def execAlign (p : PortId) (line : List (BitVec 10)) (s : State) : Out :=
  due s (portUp s p && portState s p == 1 && alignHeld line) (portEnter s p 2)
/-- ALIGN_TIMEOUT. -/
def execAlignTimeout (p : PortId) (s : State) : Out :=
  due s (portUp s p && portState s p == 1) (portEnter (portFault s ax_PFAULT_CHAINBRK p) p 5)
/-- ENUMR: a frame that starts with SOF comes up the line. -/
def execEnumr (p : PortId) (line : List (BitVec 10)) (rtt : BitVec 32) (s : State) : Out :=
  match receiveFrame line with
  | some (bs, cut) => due s (portUp s p && portState s p == 2) (enumrOp s p bs cut rtt.toNat)
  | none => .next s
/-- ENUMR_TIMEOUT. -/
def execEnumrTimeout (p : PortId) (s : State) : Out :=
  due s (portUp s p && portState s p == 2) (portEnter (portFault s ax_PFAULT_CHAINBRK p) p 5)
/-- CONFIG_SEQUENCE. -/
def execConfigSequence (p : PortId) (ans : List ChipAns) (s : State) : Out :=
  due s (portUp s p && portState s p == 3 && !(portOf s p).seqDone) (configOp s p ans)
/-- SYNC: the counter has reached the next t_n. -/
def execSync (p : PortId) (s : State) : Out :=
  due s (portUp s p && portLive s p && BitVec.ofNat 64 (cycleStart s p) != (portOf s p).cyct) (syncOp s p)
/-- CMD: one frame opens in each cycle; a stopped transmit fawn opens none in RUN (R265, R278). -/
def execCmd (p : PortId) (s : State) : Out :=
  due s (portUp s p && portLive s p && cmdDue s p &&
    (portState s p == 3 || decide ((fawnOf s (2 * p.val + 1)).st = .running))) (cmdOp s p)
/-- FETCH_POINT. -/
def execFetchPoint (p : PortId) (i : Fin 16) (s : State) : Out :=
  due s (portUp s p && fetchDue s p i) (fetchPointOp s p i)
/-- FB. -/
def execFb (p : PortId) (line : List (BitVec 10)) (s : State) : Out := due s (portUp s p && portLive s p) (upFrame s p line)

/-- The earliest of the edges that a unit has placed. -/
def firstEdge : List Time → Option Time
  | [] => none
  | e :: t => match firstEdge t with
    | some f => some (if f.toNat < e.toNat then f else e)
    | none => some e

/-- TRIGGER_EDGE: the time of the earliest edge has come. -/
def execTriggerEdge (p : PortId) (t : Fin 2) (s : State) : Out :=
  let u := unitOf (portOf s p) t
  match firstEdge u.edges with
  | some e => due s (portUp s p && decide (e.toNat ≤ now s)) (triggerOp (setUnit s p t { u with edges := u.edges.erase e }) p t e)
  | none => .next s

/-- TARM. -/
def execTarm (p : PortId) (t : Fin 2) (s : State) : Out :=
  atPort s p (regReq ax_TARM p t 1 1) (fun s => tarmOp s p t)
/-- SVCGO. -/
def execSvcgo (p : PortId) (s : State) : Out := atPort s p (regReq ax_SVCGO p 0 1 1) (fun s => svcgoOp s p)
/-- ALIGNLOSS: the symbols received last show a loss by the rule of R253. -/
def execAlignloss (p : PortId) (line : List (BitVec 10)) (s : State) : Out :=
  due s (portUp s p && portLive s p && alignLost line) (alignlossOp s p)

end Sys2Proof.Machine
end

