-- ==== Sys2Proof/Machine/Camera.lean ====
section
/-!
DEFINITION. Fly-by sighting: the camera ports, the edge stage, the fit stage and the pose clause (R312 to R325).
-/

namespace Sys2Proof.Machine

/-! ### Port state and events (R324) -/

/-- CSTATE: 0 DOWN, 1 RUN, 2 FAULT. -/
def camState (s : State) (c : Nat) : Nat := rd s cm_CSTATE c
/-- The engine runs in the edge domain of its tile (R315). -/
def camUp (s : State) (c : Nat) : Bool := pstate s (edgeDom (c / 2)) == 0
def camRuns (s : State) (c : Nat) : Bool := camUp s c && camState s c == 1
def camNotify (s : State) (c : Nat) : State :=
  raiseMapped s (rdb s cm_CDB_MAPPED c) (rd s cm_CDB_HERD c) (16 + rd s cm_CDB_SRC c)
/-- A CFAULT bit is set. -/
def camFault (s : State) (F : Fld) (c : Nat) : State := if rdb s F c then s else camNotify (wr s F c 1) c
/-- The setup and the status fawn (R323). -/
def setupFawn (c : Nat) : Nat := 128 + 2 * c
def statusFawn (c : Nat) : Nat := 129 + 2 * c
def camEvent (s : State) (c : Nat) : State := wakeFawn (wakeFawn s (setupFawn c)) (statusFawn c)
/-- A read of 0x10F0 or 0x10F4 that a fawn of the port waits on returns FRAME (R323). -/
def camRead (s : State) (c a v : Nat) : State := fawnLoaded (fawnLoaded s (setupFawn c) a v) (statusFawn c) a v
/-- The requester of an engine's array accesses in the log (R174). -/
def camRq (c : Nat) : Rq := ⟨10, 64 + c⟩

/-- A frame in progress is dropped, which raises the port's source; one whose last line has come stays for the fit stage. -/
def dropOpen (s : State) (c : Nat) : State :=
  let x := camOf s c
  let t := setCam s c { x with frame := x.frame.filter (fun f => f.ended) }
  if x.frame.any (fun f => !f.ended) then camNotify t c else t

/-- CCTL.START (R324, R437). -/
def camStart (s : State) (c : Nat) : State :=
  if bit (rd s ts_FENCEC) c || camState s c == 1 then s
  else
    let s := if camState s c = 0 then unfenceFawn (unfenceFawn s (setupFawn c)) (statusFawn c) else s
    camEvent (wr s cm_CSTATE c 1) c

/-- CCTL.STOP. -/
def camStop (s : State) (c : Nat) : State := camEvent (dropOpen (wr s cm_CSTATE c 0) c) c

/-- The port enters FAULT (R325 case 7). -/
def camFail (s : State) (F : Fld) (c : Nat) : State :=
  let s := dropOpen (wr (camFault s F c) cm_CSTATE c 2) c
  camEvent (setCam s c { camOf s c with edges := [] }) c

/-- CCTL.FAWNRUN. -/
def camFawnrun (s : State) (c : Nat) : State :=
  rerunFawn (rerunFawn s (setupFawn c) cm_CFAWN_SUCAUSE cm_CFAWN_SUADDR c) (statusFawn c) cm_CFAWN_STCAUSE cm_CFAWN_STADDR c

/-- CCTL.CNTCLR. -/
def camCntclr (s : State) (c : Nat) : State :=
  [cm_FRAMES, cm_POSES, cm_DROPPED, cm_PKTERR, cm_OTHERPKT, cm_EDGEOVF, cm_EDGELATE].foldl (fun s F => wr s F c 0) s

/-! ### Receive and crop (R313 to R317, R322) -/

/-- The registers marked "next frame", as the frame takes them. -/
def camRegs (s : State) (c : Nat) : CamRegs :=
  { roix := rd s cm_ROIX c, roiy := rd s cm_ROIY c, roiw := rd s cm_ROIW c, roih := rd s cm_ROIH c,
    edgethr := rd s cm_EDGETHR c, tmpl := rd s cm_TMPLSEL c, mode := rd s cm_MODE c, rad := rd s cm_MATCHRAD c,
    ang := rd s cm_MATCHANG c, minscore := rd s cm_MINSCORE c, nomx := rd s cm_NOMX c, nomy := rd s cm_NOMY c }

/-- A frame whose lines are complete moves to the fit stage when that is free. -/
def toFit (x : Cam) : Cam := match x.fit, x.frame with
  | none, some f => if f.ended then { x with fit := some f, frame := none } else x
  | _, _ => x

/-- A pending edge is older than FSWIN µs; 1 µs is 8,000 LSB (R314). -/
def edgeLate (s : State) (c : Nat) (e : Time) : Bool := decide (rd s cm_FSWIN c * 8000 + e.toNat < now s)

/-- Frame Start on the port's channel (R314, R322, R325 case 1). -/
def frameStartOp (s : State) (c : Nat) : State :=
  let s := incr s cm_FRAMES c
  let x := camOf s c
  let late := (x.edges.filter (edgeLate s c)).length
  let s := (List.range late).foldl (fun s _ => incrSat s cm_EDGELATE c) s
  let edges := x.edges.filter (fun e => !edgeLate s c e)
  let x := { x with edges := edges.drop 1, frame := x.frame.map (fun f =>
    if f.ended then f else { f with ended := true, partl := true }) }
  let x := toFit x
  let s := setCam s c x
  let s := match x.frame with
    | some _ => camNotify (incr s cm_DROPPED c) c
    | none =>
      let (t, s) := stamp s
      let f : Frame := { r := camRegs s c, time := edges.headD (BitVec.ofNat 64 t), trig := !edges.isEmpty,
                         num := rd s cm_FRAMES c, y := 0, lines := [], partl := false, pkt := false, ended := false }
      setCam s c { x with frame := some f }
  camEvent (camRead s c 0x10F0 (rd s cm_FRAMES c % 256)) c

/-- A line of the frame, missing where `px` is none. -/
def Frame.line (f : Frame) (px : Option (List (BitVec 12))) : Frame :=
  if f.ended then f
  else
    let inRoi := decide (f.r.roiy ≤ f.y ∧ f.y < f.r.roiy + f.r.roih)
    let f := if inRoi then { f with lines := f.lines ++ [px.map (fun l => (l.drop f.r.roix).take f.r.roiw)], pkt := f.pkt || px.isNone }
      else f
    { f with y := f.y + 1, ended := inRoi && decide (f.y + 1 = f.r.roiy + f.r.roih) }

/-- A line reaches the frame in progress. -/
def camLine (s : State) (c : Nat) (px : Option (List (BitVec 12))) : State :=
  let x := camOf s c
  setCam s c (toFit { x with frame := x.frame.map (fun f => f.line px) })

/-- Frame End: ROI lines still missing end the frame (R325 case 2). -/
def frameEndOp (s : State) (c : Nat) : State :=
  let x := camOf s c
  let close (f : Frame) : Frame :=
    if f.ended then f
    else
      let short := decide (f.lines.length < f.r.roih)
      { f with ended := true, partl := f.partl || short, pkt := f.pkt || short }
  setCam s c (toFit { x with frame := x.frame.map close })

/-- A short packet (R312, R313): Line Start, Line End and the generic ones have no effect. -/
def shortPacketOp (s : State) (c : Nat) (pkt : BitVec 32) : State := match csiHeader pkt.toNat with
  | none => incr s cm_PKTERR c
  | some h =>
    if h.vc ≠ rd s cm_CCFG_VC c then incr s cm_OTHERPKT c
    else if h.dt = 0 then frameStartOp s c
    else if h.dt = 1 then frameEndOp s c
    else s

/-- A long packet (R312, R313). One that is not for this port is discarded before its CRC is looked at (assumption 75). -/
def longPacketOp (s : State) (c : Nat) (bs : List Byte) : State := match csiHeader (ofBytesLE (bs.take 4)) with
  | none => camLine (incr s cm_PKTERR c) c none
  | some h =>
    if h.vc ≠ rd s cm_CCFG_VC c ∨ (unpack h.dt []).isNone then incr s cm_OTHERPKT c
    else match csiPayload h.wc bs with
      | none => camLine (incr s cm_PKTERR c) c none
      | some d => camLine s c (unpack h.dt d)

/-! ### Edges (R315, R317) -/

/-- An edge: its place in 1/16 pixel, full-frame, and its gradient, whose angle is the normal. -/
structure Edge where
  x  : Int
  y  : Int
  gx : Int
  gy : Int
deriving DecidableEq, Repr

/-- Pixel (x, y) of the ROI, where its line has arrived. -/
def pixel (lines : List (Option (List (BitVec 12)))) (x y : Int) : Option Int :=
  if x < 0 ∨ y < 0 then none
  else match lines[y.toNat]? with
    | some (some l) => (l[x.toNat]?).map (fun v => (v.toNat : Int))
    | _ => none

/-- The Sobel gradient at a pixel whose eight neighbours are in the ROI. -/
def sobel (lines : List (Option (List (BitVec 12)))) (x y : Int) : Option (Int × Int) := do
  let a ← pixel lines (x - 1) (y - 1)
  let b ← pixel lines x (y - 1)
  let c ← pixel lines (x + 1) (y - 1)
  let d ← pixel lines (x - 1) y
  let _ ← pixel lines x y
  let e ← pixel lines (x + 1) y
  let f ← pixel lines (x - 1) (y + 1)
  let g ← pixel lines x (y + 1)
  let h ← pixel lines (x + 1) (y + 1)
  some (c + 2 * e + h - (a + 2 * d + f), f + 2 * g + h - (a + 2 * b + c))

/-- The magnitude at a pixel; 0 where it has no gradient. -/
def magnitude (lines : List (Option (List (BitVec 12)))) (x y : Int) : Int :=
  match sobel lines x y with
  | some (gx, gy) => iabs gx + iabs gy
  | none => 0

/-- The nearest of the four directions to a gradient, as a pixel step. -/
def direction (gx gy : Int) : Int × Int :=
  let m := iabs gx + iabs gy
  if m * m < 2 * gx * gx then (1, 0)
  else if m * m < 2 * gy * gy then (0, 1)
  else if 0 < gx * gy then (1, 1)
  else (1, -1)

/-- n ÷ d, with the rounding that the rules leave open: down, or up where `up` is odd. -/
def divFree (n d : Int) (up : Nat) : Int := if n % d = 0 then n / d else Int.fdiv n d + (up % 2 : Nat)

/-- The offset of the vertex of the parabola through three magnitudes, in 1/16 of a step; three equal ones have none, and it is
open within half a step. -/
def vertex (a b c : Int) : Int :=
  let d := 2 * (a - 2 * b + c)
  if d = 0 then (Config.subpixel a b c % 17 : Nat) - 8 else divFree (16 * (a - c)) d (Config.subpixel a b c)

/-- The edge at pixel (x, y) of the ROI, if it is one. -/
def edgeAt (r : CamRegs) (lines : List (Option (List (BitVec 12)))) (x y : Int) : Option Edge :=
  match sobel lines x y with
  | none => none
  | some (gx, gy) =>
    let m := iabs gx + iabs gy
    let (dx, dy) := direction gx gy
    let a := magnitude lines (x - dx) (y - dy)
    let c := magnitude lines (x + dx) (y + dy)
    if (r.edgethr : Int) ≤ m ∧ a ≤ m ∧ c ≤ m then
      let o := vertex a m c
      some ⟨16 * (r.roix + x) + o * dx, 16 * (r.roiy + y) + o * dy, gx, gy⟩
    else none

/-- Every edge of the frame, line by line. -/
def allEdges (f : Frame) : List Edge :=
  (List.range f.lines.length).flatMap (fun y =>
    (List.range f.r.roiw).filterMap (fun x => edgeAt f.r f.lines (x : Nat) (y : Nat)))

/-- The edge list holds 8,192 edges (R315, R317). -/
def edgeMax : Nat := 8192

/-! ### The template fit (R318, R319), in fixed point with `camBits` fraction bits -/

def camBits : Nat := 96

/-- A template feature (R318). -/
structure Feat where
  fx : Int
  fy : Int
  fn : Int
  fw : Nat
deriving DecidableEq, Repr

def featOf (v : Nat) : Feat := ⟨sext 16 v, sext 16 (v / 2 ^ 16), sext 16 (v / 2 ^ 32), bits v 55 48⟩

/-- The features of template t of engine c, none where a word is uncorrectable. -/
def readFeats (s : State) (c t : Nat) : Nat → Option (List Feat) × State
  | 0 => (some [], s)
  | n + 1 =>
    let (l, s) := readFeats s c t n
    let (r, s) := memRead s (blkBase .camera c + 0x8000 + t * 0x1000 + n * 8) 8 (camRq c)
    (match l, r with
      | some l, some bs => some (l ++ [featOf (ofBytesLE bs)])
      | _, _ => none, s)

/-- A pose under test: the origin in 1/2^camBits of 1/16 pixel, and the angle in radians with camBits fraction bits. -/
structure Pose where
  x : Int
  y : Int
  t : Int
deriving DecidableEq, Repr

/-- 1 in the fixed point of the fit. -/
def camOne : Int := (2 ^ camBits : Nat)

/-- From an edge to a feature as a pose places it. -/
def featDist (p : Pose) (cs sn : Int) (f : Feat) (e : Edge) : Int × Int :=
  (p.x + f.fx * cs - f.fy * sn - e.x * camOne, p.y + f.fx * sn + f.fy * cs - e.y * camOne)

/-- An edge matches a feature at a pose: within MATCHRAD/16 pixel, its normal within MATCHANG × 16 × 2^-15 half-turns. -/
def matchEdge (r : CamRegs) (p : Pose) (cs sn : Int) (f : Feat) (e : Edge) : Bool :=
  let one : Int := camOne
  let (dx, dy) := featDist p cs sn f e
  let pi := piFix camBits
  let n := (atan2Fix camBits e.gy e.gx - p.t - f.fn * pi / 2 ^ 15) % (2 * pi)
  let n := if pi < n then 2 * pi - n else n
  decide (dx * dx + dy * dy ≤ (r.rad * r.rad : Nat) * one * one) && decide (n ≤ (r.ang * 16 : Nat) * pi / 2 ^ 15)

/-- The features that match at a pose. -/
def matched (r : CamRegs) (fs : List Feat) (es : List Edge) (p : Pose) : List Feat :=
  let cs := cosFix camBits p.t
  let sn := sinFix camBits p.t
  fs.filter (fun f => es.any (matchEdge r p cs sn f))

def weightOf (fs : List Feat) : Nat := (fs.map Feat.fw).foldl (· + ·) 0

/-- NOM, in 1/16 pixel. -/
def nomX (r : CamRegs) : Int := r.nomx
def nomY (r : CamRegs) : Int := r.nomy

/-- The placement at i, j pixels from the nominal and a degrees. -/
def placement (r : CamRegs) (a j i : Int) : Pose :=
  ⟨(nomX r + 16 * i) * camOne, (nomY r + 16 * j) * camOne, a * piFix camBits / 180⟩

/-- The placements of the coarse search, in ascending angle, then y, then x. -/
def placements : List (Int × Int × Int) :=
  (List.range 17).flatMap (fun (a : Nat) => (List.range 33).flatMap (fun (j : Nat) => (List.range 33).map (fun (i : Nat) =>
    ((a : Int) - 8, (j : Int) - 16, (i : Int) - 16))))

/-- The coarse search: the first of the placements with the greatest matched weight. -/
def coarse (r : CamRegs) (fs : List Feat) (es : List Edge) : Int × Int × Int :=
  (placements.foldl (fun best q =>
    let w := weightOf (matched r fs es (placement r q.1 q.2.1 q.2.2))
    match best with
    | some (b, bw) => if bw < w then some (q, w) else some (b, bw)
    | none => some (q, w)) (none : Option ((Int × Int × Int) × Nat))).elim (0, 0, 0) Prod.fst

/-- A matched feature with the edge that it takes in an iteration. -/
def pairsAt (r : CamRegs) (fs : List Feat) (es : List Edge) (p : Pose) : List (Feat × Edge) :=
  let cs := cosFix camBits p.t
  let sn := sinFix camBits p.t
  fs.filterMap (fun f =>
    let l := es.filter (matchEdge r p cs sn f)
    (l[Config.matchPick [p.x, p.y, p.t, f.fx, f.fy, f.fn] % l.length]?).map (fun e => (f, e)))

/-- The sums of the normal equations, with the weight 1/|g|² that makes a gradient a unit normal: the upper half of the matrix,
then the right side. An edge without a gradient has no normal and adds nothing. -/
structure Normals where
  a11 : Int := 0
  a12 : Int := 0
  a13 : Int := 0
  a22 : Int := 0
  a23 : Int := 0
  a33 : Int := 0
  b1  : Int := 0
  b2  : Int := 0
  b3  : Int := 0
deriving DecidableEq, Repr

/-- One squared point-to-line distance, linearised at the pose: along (gx, gy), and along c for the angle. -/
def addNormal (p : Pose) (cs sn : Int) (n : Normals) (q : Feat × Edge) : Normals :=
  let (f, e) := q
  let (dx, dy) := featDist p cs sn f e
  let d := e.gx * dx + e.gy * dy
  let c := e.gx * (-(f.fx * sn) - f.fy * cs) + e.gy * (f.fx * cs - f.fy * sn)
  let g := e.gx * e.gx + e.gy * e.gy
  let gx := e.gx * camOne
  let gy := e.gy * camOne
  if g = 0 then n
  else { a11 := n.a11 + gx * gx / g, a12 := n.a12 + gx * gy / g, a13 := n.a13 + gx * c / g, a22 := n.a22 + gy * gy / g,
         a23 := n.a23 + gy * c / g, a33 := n.a33 + c * c / g, b1 := n.b1 + gx * d / g, b2 := n.b2 + gy * d / g, b3 := n.b3 + c * d / g }

/-- A determinant of three rows. -/
def det3 (a b c d e f g h i : Int) : Int := a * (e * i - f * h) - b * (d * i - f * g) + c * (d * h - e * g)

/-- The step that solves the normal equations, none where they have no single solution. -/
def Normals.step (n : Normals) : Option (Int × Int × Int) :=
  let d := det3 n.a11 n.a12 n.a13 n.a12 n.a22 n.a23 n.a13 n.a23 n.a33
  if d = 0 then none
  else some (-(camOne * det3 n.b1 n.a12 n.a13 n.b2 n.a22 n.a23 n.b3 n.a23 n.a33) / d,
             -(camOne * det3 n.a11 n.b1 n.a13 n.a12 n.b2 n.a23 n.a13 n.b3 n.a33) / d,
             -(camOne * det3 n.a11 n.a12 n.b1 n.a12 n.a22 n.b2 n.a13 n.a23 n.b3) / d)

/-- Gauss–Newton iterations from a pose (R319 step 3). -/
def refine (r : CamRegs) (fs : List Feat) (es : List Edge) : Nat → Pose → Pose
  | 0, p => p
  | k + 1, p =>
    let cs := cosFix camBits p.t
    let sn := sinFix camBits p.t
    let n := (pairsAt r fs es p).foldl (addNormal p cs sn) {}
    let (x, y, t) := n.step.getD (Config.stepFree [p.x, p.y, p.t, k])
    refine r fs es k ⟨p.x + x, p.y + y, p.t + t⟩

/-- X and Y of a pose from the nominal in 1/1024 pixel, and its angle in 2^-31 half-turns (R321). -/
def reported (r : CamRegs) (p : Pose) : Int × Int × Int :=
  let x := (p.x - nomX r * camOne) * 64
  let y := (p.y - nomY r * camOne) * 64
  (divFree x camOne (Config.poseRound x), divFree y camOne (Config.poseRound y),
   divFree (p.t * 2 ^ 31) (piFix camBits) (Config.poseRound p.t))

/-- What a fit gives: X, Y, THETA, SCORE, NMATCH, FOUND. -/
structure FitRes where
  x : Int
  y : Int
  t : Int
  score : Nat
  nmatch : Nat
  found : Bool
deriving DecidableEq, Repr

/-- A value that the rules leave open, as an integer. -/
def freshInt (s : State) : Int × State :=
  let (n, s) := freshNat s
  (sext 32 n, s)

/-- MODE 0 (R319). -/
def fitTemplate (s : State) (r : CamRegs) (fs : List Feat) (es : List Edge) : FitRes × State :=
  if fs.isEmpty then
    let (x, s) := freshInt s
    let (y, s) := freshInt s
    let (t, s) := freshInt s
    (⟨x, y, t, 0, 0, false⟩, s)
  else
    let (a, j, i) := coarse r fs es
    let p := refine r fs es 4 (placement r a j i)
    let (x, y, t) := reported r p
    let m := matched r fs es p
    let total := weightOf fs
    let (n, s') := freshNat s
    let (score, s) := if total = 0 then (n % 65536, s') else (65535 * weightOf m / total, s)
    (⟨x, y, t, score, m.length, decide (r.minscore ≤ score)⟩, s)

/-- The pixels of a blob with their weights (R320). -/
def blobPixels (f : Frame) : List (Int × Int × Int) :=
  (List.range f.lines.length).flatMap (fun y => match f.lines.getD y none with
    | some l => (List.range l.length).filterMap (fun x =>
        let v := (l.getD x 0).toNat
        if f.r.edgethr ≤ v then some ((f.r.roix + x : Nat), (f.r.roiy + y : Nat), (v - f.r.edgethr : Nat)) else none)
    | none => [])

/-- Σ of a term over the blob's pixels. -/
def blobSum (ps : List (Int × Int × Int)) (g : Int → Int → Int) : Int := ps.foldl (fun t p => t + p.2.2 * g p.1 p.2.1) 0

/-- MODE 1 (R320): X, Y and THETA are open where the total weight, or the orientation, is zero. -/
def fitBlob (s : State) (f : Frame) : FitRes × State :=
  let ps := blobPixels f
  let m := blobSum ps (fun _ _ => 1)
  let sx := blobSum ps (fun x _ => x)
  let sy := blobSum ps (fun _ y => y)
  let xx := m * blobSum ps (fun x _ => x * x) - sx * sx
  let yy := m * blobSum ps (fun _ y => y * y) - sy * sy
  let xy := m * blobSum ps (fun x y => x * y) - sx * sy
  let score := min ps.length 65535
  let found := decide (f.r.minscore ≤ score)
  let (ox, s) := freshInt s
  let (oy, s) := freshInt s
  let (ot, s) := freshInt s
  let t := if 2 * xy = 0 ∧ xx - yy = 0 then ot
    else atan2Fix camBits (2 * xy) (xx - yy) * 2 ^ 30 / piFix camBits
  if m = 0 then (⟨ox, oy, ot, score, 0, found⟩, s)
  else (⟨1024 * sx / m, 1024 * sy / m, t, score, 0, found⟩, s)

/-! ### The pose clause (R321) -/

/-- The payload of a pose. -/
def posePayload (f : Frame) (v : FitRes) (full uecc : Bool) : List Byte :=
  bytesLE 8 f.time.toNat ++ bytesLE 4 (twos 32 v.x) ++ bytesLE 4 (twos 32 v.y) ++ bytesLE 4 (twos 32 v.t) ++
    bytesLE 2 v.score ++ bytesLE 2 v.nmatch ++
    bytesLE 4 (f.r.tmpl + 8 * f.r.mode + 2 ^ 8 * (b2n v.found + 2 * b2n f.trig + 4 * b2n f.partl + 8 * b2n f.pkt +
      16 * b2n full + 32 * b2n uecc) + 2 ^ 16 * (f.num % 256))

/-- The fit of a frame: its result, whether the edge list was full, and whether a word was uncorrectable, which makes the score 0.
A template without features is never found. -/
def fitFrame (s : State) (c : Nat) (f : Frame) : FitRes × Bool × Bool × State :=
  let (u0, s) := stateHit s (0x9000_A000 + c * 4) (camRq c)
  let (u1, s) := stateHit s (0x9000_A001 + c * 4) (camRq c)
  let es := allEdges f
  let full := decide (edgeMax < es.length)
  let spoil (u : Bool) (v : FitRes) : FitRes := if u then { v with score := 0, found := decide (f.r.minscore = 0) } else v
  if f.r.mode = 0 then
    let n := min (rd s cm_TMPLHDR_NFEAT c f.r.tmpl) 512
    let (fs, s) := readFeats s c f.r.tmpl n
    let u := u0 || u1 || f.uecc || fs.isNone
    let (v, s) := fitTemplate s f.r (fs.getD []) (es.take edgeMax)
    (if n = 0 then v else spoil u v, full, u, s)
  else
    let (v, s) := fitBlob s f
    let u := u0 || u1 || f.uecc
    (spoil u v, full, u, s)

/-- The header of a pose clause before SEQ (R321). -/
def poseHeader : Nat := 0x0005_A01C

/-- POSEEP is a producer of a herd of the port's tile that this engine owns (R321): with no such endpoint the fit stage is held. -/
def poseEpOk (s : State) (c : Nat) : Bool :=
  let e := rd s cm_POSEEP c
  role s e == 1 && ownedByEngine s e (0x3000 + c) && e / 8192 == c / 2

/-- The fit ends, and the pose clause is pushed. -/
def fitOp (s : State) (c : Nat) (f : Frame) : State :=
  let (v, full, uecc, s) := fitFrame s c f
  let s := if uecc then camFault s cm_CFAULT_UECC c else s
  let s := enginePush s (rd s cm_POSEEP c) poseHeader (posePayload f v full uecc)
  let s := incr s cm_POSES c
  camEvent (camRead (setCam s c (toFit { camOf s c with fit := none })) c 0x10F4 (f.num % 256)) c

/-! ### Commands -/

/-- A write that reaches the block of camera port c. -/
def atCam (s : State) (c : Nat) (q : BusReq) (act : State → State) : Out := atBlock s (edgeDom (c / 2)) false q act

/-- CCTL_START. -/
def execCctlStart (c : CamId) (s : State) : Out := atCam s c (regReq cm_CCTL_START c 0 1 1) (fun s => camStart s c)
/-- CCTL_STOP. -/
def execCctlStop (c : CamId) (s : State) : Out := atCam s c (regReq cm_CCTL_START c 0 2 1) (fun s => camStop s c)
/-- CCTL_FAWNRUN. -/
def execCctlFawnrun (c : CamId) (s : State) : Out := atCam s c (regReq cm_CCTL_START c 0 4 1) (fun s => camFawnrun s c)
/-- CCTL_CNTCLR. -/
def execCctlCntclr (c : CamId) (s : State) : Out := atCam s c (regReq cm_CCTL_START c 0 8 1) (fun s => camCntclr s c)

/-- A short packet is a Frame End. -/
def isFrameEnd (pkt : BitVec 32) : Bool := (csiHeader pkt.toNat).any (fun h => h.dt == 1)

/-- FRAME_START: a short packet that is no Frame End. -/
def execFrameStart (c : CamId) (pkt : BitVec 32) (s : State) : Out := due s (camRuns s c && !isFrameEnd pkt) (shortPacketOp s c pkt)
/-- LONG_PACKET. -/
def execLongPacket (c : CamId) (pkt : List Byte) (s : State) : Out := due s (camRuns s c) (longPacketOp s c pkt)
/-- FRAME_END. -/
def execFrameEnd (c : CamId) (pkt : BitVec 32) (s : State) : Out := due s (camRuns s c && isFrameEnd pkt) (shortPacketOp s c pkt)
/-- FIT: the fit stage ends; a full pose queue holds it (R322). -/
def execFit (c : CamId) (s : State) : Out :=
  match (camOf s c).fit with
  | some f => due s (camUp s c && poseEpOk s c && enginePushOk s (rd s cm_POSEEP c) 28) (fitOp s c f)
  | none => .next s
/-- NOCLK. -/
def execNoclk (c : CamId) (s : State) : Out := due s (camRuns s c) (camFail s cm_CFAULT_NOCLK c)
/-- DESKEW. -/
def execDeskew (c : CamId) (s : State) : Out := due s (camRuns s c) (camFail s cm_CFAULT_DESKEW c)

end Sys2Proof.Machine
end

