-- ==== Sys2Proof/Decode.lean ====
section
/-!
DEFINITION. The encoding of kid and fawn program words (R92 to R97, R106, R109) and the opcode table's words. The opcode table
gives its rows no bits, so no table word spells a command.
-/

namespace Sys2Proof

/-! ### Fields (R94) -/

/-- A 4-bit, a 3-bit and a 2-bit register field at bit n. -/
def f4 (w : PWord) (n : Nat) : Fin 16 := ⟨w.toNat / 2 ^ n % 16, Nat.mod_lt _ (by decide)⟩
def f3 (w : PWord) (n : Nat) : Fin 8 := ⟨w.toNat / 2 ^ n % 8, Nat.mod_lt _ (by decide)⟩
def f2 (w : PWord) (n : Nat) : Fin 8 := ⟨w.toNat / 2 ^ n % 4, Nat.lt_trans (Nat.mod_lt _ (by decide)) (by decide)⟩
/-- A 3-bit field that names a byte register b0 to b7. -/
def r3 (w : PWord) (n : Nat) : Fin 16 := ⟨w.toNat / 2 ^ n % 8, Nat.lt_trans (Nat.mod_lt _ (by decide)) (by decide)⟩
/-- n bits from bit lo on. -/
def fb (n : Nat) (w : PWord) (lo : Nat) : BitVec n := BitVec.ofNat n (w.toNat / 2 ^ lo)
/-- The pair increment of k2. -/
def k2 (w : PWord) : BitVec 4 := BitVec.ofNat 4 (2 ^ (w.toNat % 4))

/-! ### Decoding (R95, R96) -/

/-- The byte operations in the order of R96. -/
def byteOp (c : Who) (fm : Form) (op : Nat) (d s : Fin 16) : Instr :=
  match op with
  | 0 => .mov c fm d s
  | 1 => .add c fm d s
  | 2 => .sub c fm d s
  | 3 => .and c fm d s
  | 4 => .or c fm d s
  | 5 => .xor c fm d s
  | 6 => .cry c fm d s
  | _ => .brw c fm d s

/-- The shifts in the order of R96. -/
def shiftOp (c : Who) (fm : Form) (op : Nat) (d : Fin 16) (n : Fin 8) : Instr :=
  match op with
  | 0 => .shl c fm d n
  | 1 => .shr c fm d n
  | 2 => .sar c fm d n
  | _ => .rol c fm d n

/-- The class-0b00 words: kids and fawns execute them alike. -/
def decodeShort (c : Who) (w : PWord) : Instr :=
  let v := w.toNat
  if v < 0x10 then
    (match v with
      | 8 => .nop c
      | 9 => .wait c
      | 10 => .fence c
      | _ => .reservedEncoding c)
  else if v < 0x18 then .not c .short (r3 w 0)
  else if v < 0x20 then .jr c (f3 w 0)
  else if v < 0x28 then .jalr c (f3 w 0)
  else if v < 0x40 then .reservedEncoding c
  else if v < 0x50 then .addw c .short (f2 w 2) (f2 w 0)
  else if v < 0x60 then .subw c .short (f2 w 2) (f2 w 0)
  else if v < 0x70 then .movw c .short (f2 w 2) (f2 w 0)
  else if v < 0x80 then .addiW c .short (f2 w 2) (k2 w)
  else if v < 0x100 then .addiB c .short (r3 w 4) (fb 4 w 0)
  else if v < 0x200 then .jal c (fb 8 w 0)
  else if v < 0x300 then .beqz c .short (r3 w 5) (fb 5 w 0)
  else if v < 0x400 then .bnez c .short (r3 w 5) (fb 5 w 0)
  else if v < 0x600 then byteOp c .short (v / 2 ^ 6 % 8) (r3 w 3) (r3 w 0)
  else if v < 0x700 then shiftOp c .short (v / 2 ^ 6 % 4) (r3 w 3) (f3 w 0)
  else if v < 0x740 then .ld c .short (r3 w 3) (f3 w 0)
  else if v < 0x780 then .st c .short (r3 w 3) (f3 w 0)
  else if v < 0x7C0 then .ldw c (f3 w 3) (f3 w 0)
  else if v < 0x800 then .stw c (f3 w 3) (f3 w 0)
  else .movi c (f3 w 8) (fb 8 w 0)

/-- The classes that only kids execute; `w2` is the word that follows, which a two-word JAL takes in. -/
def decodeLong (k : KidId) (w w2 : PWord) : Instr :=
  let v := w.toNat
  let c : Who := .kid k
  if v < 0x1400 then byteOp c .long (v / 2 ^ 8 % 4) (f4 w 4) (f4 w 0)
  else if v < 0x1800 then byteOp c .long (4 + v / 2 ^ 8 % 4) (f4 w 4) (f4 w 0)
  else if v < 0x1C00 then .beq k (f3 w 7) (f3 w 4) (fb 4 w 0)
  else if v < 0x2000 then .bne k (f3 w 7) (f3 w 4) (fb 4 w 0)
  else if v < 0x2400 then .blt k (f3 w 7) (f3 w 4) (fb 4 w 0)
  else if v < 0x2800 then .bge k (f3 w 7) (f3 w 4) (fb 4 w 0)
  else if v < 0x2C00 then .bltu k (f3 w 7) (f3 w 4) (fb 4 w 0)
  else if v < 0x3000 then .bgeu k (f3 w 7) (f3 w 4) (fb 4 w 0)
  else if v < 0x3200 then .beqz c .long (f4 w 5) (fb 5 w 0)
  else if v < 0x3400 then .bnez c .long (f4 w 5) (fb 5 w 0)
  else if v < 0x3600 then .mfs k (f3 w 6) (fb 6 w 0)
  else if v < 0x3800 then .mts k (fb 6 w 0) (f3 w 6)
  else if v < 0x3A00 then shiftOp c .long (v / 2 ^ 7 % 4) (f4 w 3) (f3 w 0)
  else if v < 0x3A80 then .mul k (f3 w 4) (f4 w 0)
  else if v < 0x3B00 then .div k (f3 w 4) (f4 w 0)
  else if v < 0x3C00 then .addiB c .long (f4 w 4) (fb 4 w 0)
  else if v < 0x3D00 then .rep k (.imm (fb 8 w 0))
  else if v < 0x3D80 then .ld c .long (f4 w 3) (f3 w 0)
  else if v < 0x3E00 then .st c .long (f4 w 3) (f3 w 0)
  else if v < 0x3E40 then .addw c .long (f3 w 3) (f3 w 0)
  else if v < 0x3E80 then .subw c .long (f3 w 3) (f3 w 0)
  else if v < 0x3EC0 then .movw c .long (f3 w 3) (f3 w 0)
  else if v < 0x3F00 then .pml k (f3 w 3) (f3 w 0)
  else if v < 0x3F40 then .pmw k (f3 w 3) (f3 w 0)
  else if v < 0x3F50 then .rep k (.reg (f4 w 0))
  else if v < 0x3F60 then .not c .long (f4 w 0)
  else if v < 0x3F64 then .jalTwoWord k (w.getLsbD 1) (BitVec.ofNat 15 (v % 2 * 2 ^ 14 + w2.toNat))
  else if v = 0x3F64 then .synci k
  else if v = 0x3F65 then .reti k
  else if v = 0x3F66 then .trap k
  else if v < 0x3F80 then .reservedEncoding c
  else .addiW c .long (f3 w 4) (fb 4 w 0)

/-- The instruction that a program word is, with the word that follows it. -/
def decodeInstr (c : Who) (w w2 : PWord) : Instr :=
  if w.toNat < 0x1000 then decodeShort c w
  else match c with
    | .kid k => decodeLong k w w2
    | .fawn _ => .reservedEncoding c

/-- Whether a word is the first of a two-word JAL (R106). -/
def twoWords (w : PWord) : Bool := decide (0x3F60 ≤ w.toNat ∧ w.toNat < 0x3F64)

/-! ### Encoding -/

/-- A word with the value v. -/
def word (v : Nat) : List PWord := [BitVec.ofNat 14 v]

/-- A byte operation: its number, and the short or the long form. -/
def encByte (fm : Form) (op : Nat) (d s : Fin 16) : List PWord :=
  match fm with
  | .short => word (0x400 + op * 0x40 + d.val * 8 + s.val)
  | .long => word (0x1000 + op * 0x100 + d.val * 0x10 + s.val)

/-- A shift. -/
def encShift (fm : Form) (op : Nat) (d : Fin 16) (n : Fin 8) : List PWord :=
  match fm with
  | .short => word (0x600 + op * 0x40 + d.val * 8 + n.val)
  | .long => word (0x3800 + op * 0x80 + d.val * 8 + n.val)

/-- A pair operation: its short and its long base. -/
def encPair (fm : Form) (sb lb : Nat) (d s : Fin 8) : List PWord :=
  match fm with
  | .short => word (sb + d.val * 4 + s.val)
  | .long => word (lb + d.val * 8 + s.val)

/-- k2 of an increment. -/
def encK2 (imm : BitVec 4) : Nat :=
  if imm = 1 then 0 else if imm = 2 then 1 else if imm = 4 then 2 else 3

/-- A two-register branch. -/
def encBranch (base : Nat) (a b : Fin 8) (off : BitVec 4) : List PWord := word (base + a.val * 0x80 + b.val * 0x10 + off.toNat)

/-- The program words of an instruction; none of a command that is no kid or fawn instruction. -/
def encodeInstr : Instr → List PWord
  | .nop _ => word 0x8
  | .wait _ => word 0x9
  | .fence _ => word 0xA
  | .not _ fm d => (match fm with
    | .short => word (0x10 + d.val)
    | .long => word (0x3F50 + d.val))
  | .jr _ s => word (0x18 + s.val)
  | .jalr _ s => word (0x20 + s.val)
  | .addw _ fm d s => encPair fm 0x40 0x3E00 d s
  | .subw _ fm d s => encPair fm 0x50 0x3E40 d s
  | .movw _ fm d s => encPair fm 0x60 0x3E80 d s
  | .addiB _ fm d imm => (match fm with
    | .short => word (0x80 + d.val * 0x10 + imm.toNat)
    | .long => word (0x3B00 + d.val * 0x10 + imm.toNat))
  | .addiW _ fm d imm => (match fm with
    | .short => word (0x70 + d.val * 4 + encK2 imm)
    | .long => word (0x3F80 + d.val * 0x10 + imm.toNat))
  | .jal _ off => word (0x100 + off.toNat)
  | .jalTwoWord _ link t => word (0x3F60 + b2n link * 2 + t.toNat / 2 ^ 14) ++ word (t.toNat % 2 ^ 14)
  | .beqz _ fm a off => (match fm with
    | .short => word (0x200 + a.val * 0x20 + off.toNat)
    | .long => word (0x3000 + a.val * 0x20 + off.toNat))
  | .bnez _ fm a off => (match fm with
    | .short => word (0x300 + a.val * 0x20 + off.toNat)
    | .long => word (0x3200 + a.val * 0x20 + off.toNat))
  | .mov _ fm d s => encByte fm 0 d s
  | .movi _ d imm => word (0x800 + d.val * 0x100 + imm.toNat)
  | .add _ fm d s => encByte fm 1 d s
  | .sub _ fm d s => encByte fm 2 d s
  | .and _ fm d s => encByte fm 3 d s
  | .or _ fm d s => encByte fm 4 d s
  | .xor _ fm d s => encByte fm 5 d s
  | .cry _ fm d s => encByte fm 6 d s
  | .brw _ fm d s => encByte fm 7 d s
  | .shl _ fm d n => encShift fm 0 d n
  | .shr _ fm d n => encShift fm 1 d n
  | .sar _ fm d n => encShift fm 2 d n
  | .rol _ fm d n => encShift fm 3 d n
  | .ld _ fm d wa => (match fm with
    | .short => word (0x700 + d.val * 8 + wa.val)
    | .long => word (0x3D00 + d.val * 8 + wa.val))
  | .st _ fm s wa => (match fm with
    | .short => word (0x740 + s.val * 8 + wa.val)
    | .long => word (0x3D80 + s.val * 8 + wa.val))
  | .ldw _ d wa => word (0x780 + d.val * 8 + wa.val)
  | .stw _ s wa => word (0x7C0 + s.val * 8 + wa.val)
  | .beq _ a b off => encBranch 0x1800 a b off
  | .bne _ a b off => encBranch 0x1C00 a b off
  | .blt _ a b off => encBranch 0x2000 a b off
  | .bge _ a b off => encBranch 0x2400 a b off
  | .bltu _ a b off => encBranch 0x2800 a b off
  | .bgeu _ a b off => encBranch 0x2C00 a b off
  | .mfs _ d sr => word (0x3400 + d.val * 0x40 + sr.toNat)
  | .mts _ sr s => word (0x3600 + s.val * 0x40 + sr.toNat)
  | .mul _ d s => word (0x3A00 + d.val * 0x10 + s.val)
  | .div _ d s => word (0x3A80 + d.val * 0x10 + s.val)
  | .rep _ (.imm c8) => word (0x3C00 + c8.toNat)
  | .rep _ (.reg b) => word (0x3F40 + b.val)
  | .pml _ d wa => word (0x3EC0 + d.val * 8 + wa.val)
  | .pmw _ s wa => word (0x3F00 + s.val * 8 + wa.val)
  | .synci _ => word 0x3F64
  | .reti _ => word 0x3F65
  | .trap _ => word 0x3F66
  | _ => []

/-! ### The opcode table -/

/-- The command that a word of the opcode table spells: the table gives its rows no bits. -/
def decodeTableWord (_nbits _w : Nat) : Option Instr := none

end Sys2Proof
end

