-- ==== Sys2Proof/Machine/Flags.lean ====
section
/-!
DEFINITION. Carry, borrow and the conditions of branches. The kid has no flags register: CRY and BRW write a register, and a
branch computes its condition from registers (R55, R100, R103).
-/

namespace Sys2Proof.Machine

/-- The carry out of an addition of bytes. -/
def carry (a b : Byte) : Byte := if 255 < a.toNat + b.toNat then 1 else 0
/-- The borrow out of a subtraction of bytes. -/
def borrow (a b : Byte) : Byte := if a.toNat < b.toNat then 1 else 0

/-- CRY. -/
def opCry (d s : Fin 16) (b : Regs) : Regs := b.setByte d (carry (b.byte d) (b.byte s))
/-- BRW. -/
def opBrw (d s : Fin 16) (b : Regs) : Regs := b.setByte d (borrow (b.byte d) (b.byte s))

/-! ### Conditions (R103) -/

def condEq (a b : Fin 8) (r : Regs) : Bool := r.byte (low a) == r.byte (low b)
def condNe (a b : Fin 8) (r : Regs) : Bool := r.byte (low a) != r.byte (low b)
def condLt (a b : Fin 8) (r : Regs) : Bool := decide ((r.byte (low a)).toInt < (r.byte (low b)).toInt)
def condGe (a b : Fin 8) (r : Regs) : Bool := decide ((r.byte (low b)).toInt ≤ (r.byte (low a)).toInt)
def condLtu (a b : Fin 8) (r : Regs) : Bool := decide ((r.byte (low a)).toNat < (r.byte (low b)).toNat)
def condGeu (a b : Fin 8) (r : Regs) : Bool := decide ((r.byte (low b)).toNat ≤ (r.byte (low a)).toNat)
def condZ (a : Fin 16) (r : Regs) : Bool := r.byte a == 0
def condNz (a : Fin 16) (r : Regs) : Bool := r.byte a != 0

end Sys2Proof.Machine
end

