-- ==== Sys2Proof/Machine/Crypto.lean ====
section
/-!
DEFINITION. The hash and the signature of images, requests and reports: SHA-256 and RSASSA-PSS of PKCS #1 v2.2 with RSA-3072,
MGF1 with SHA-256 and a salt of 32 bytes (R383). The spec names the standards; their steps are taken from them (assumption 20).
-/

namespace Sys2Proof.Machine

/-! ### SHA-256 -/

abbrev W32 := BitVec 32

/-- The largest r below 2^n, from `r` upwards, whose k-th power does not exceed m. -/
def rootOf (k m : Nat) : Nat → Nat → Nat
  | 0, r => r
  | n + 1, r => rootOf k m n (if (r + 2 ^ n) ^ k ≤ m then r + 2 ^ n else r)

/-- The first 32 bits of the fractional part of the k-th root of p. -/
def rootFrac (k p : Nat) : W32 := BitVec.ofNat 32 (rootOf k (p * 2 ^ (32 * k)) 40 0)

/-- The primes up to 311, which are 64. -/
def shaPrimes : List Nat :=
  (List.range 312).filter (fun p => decide (2 ≤ p) && (List.range p).all (fun d => decide (d < 2) || p % d != 0))

/-- What the rounds add: of the cube roots of the first 64 primes. -/
def roundConst : List W32 := shaPrimes.map (rootFrac 3)

/-- The rotations of x by the given numbers of bits, added without carry. -/
def turns (x : W32) (by_ : List Nat) : W32 := by_.foldl (fun y n => y ^^^ x.rotateRight n) 0

/-- The hash state as the latest four values of a and of e, newest first: the eight working words are these in order. -/
structure ShaSt where
  as : List W32
  es : List W32
deriving DecidableEq, Repr

/-- The hash state before the first block: of the square roots of the first eight primes. -/
def shaStart : ShaSt :=
  let h := (shaPrimes.take 8).map (rootFrac 2)
  ⟨h.take 4, h.drop 4⟩

/-- One round: a new a and a new e from the sum of what stands and the word added in this round. -/
def ShaSt.round (v : ShaSt) (add : W32) : ShaSt :=
  let a (i : Nat) : W32 := v.as.getD i 0
  let e (i : Nat) : W32 := v.es.getD i 0
  let sum := e 3 + turns (e 0) [6, 11, 25] + (e 2 ^^^ (e 0 &&& (e 1 ^^^ e 2))) + add
  ⟨(sum + turns (a 0) [2, 13, 22] + ((a 0 &&& a 1) ||| (a 2 &&& (a 0 ||| a 1)))) :: v.as.take 3, (a 3 + sum) :: v.es.take 3⟩

/-- The rounds of one block: each takes the oldest of the sixteen schedule words in the window and appends the one that these give. -/
def shaRounds : List W32 → List W32 → ShaSt → ShaSt
  | [], _, v => v
  | k :: ks, win, v =>
    let w (i : Nat) : W32 := win.getD i 0
    let next := w 0 + (turns (w 1) [7, 18] ^^^ w 1 >>> 3) + w 9 + (turns (w 14) [17, 19] ^^^ w 14 >>> 10)
    shaRounds ks (win.drop 1 ++ [next]) (v.round (k + w 0))

/-- The words of a block, big-endian. -/
def blockWords (block : List Byte) : List W32 :=
  (List.range 16).map (fun i => BitVec.ofNat 32 (ofBytesBE ((block.drop (4 * i)).take 4)))

/-- One block: what its rounds make of the state is added to it, word by word. -/
def ShaSt.absorb (v : ShaSt) (block : List Byte) : ShaSt :=
  let r := shaRounds roundConst (blockWords block) v
  ⟨List.zipWith (· + ·) v.as r.as, List.zipWith (· + ·) v.es r.es⟩

/-- Absorb n blocks. -/
def ShaSt.absorbAll : Nat → List Byte → ShaSt → ShaSt
  | 0, _, v => v
  | n + 1, bs, v => ShaSt.absorbAll n (bs.drop 64) (v.absorb bs)

/-- Bytes of a value, most significant first. -/
def bytesBE (n v : Nat) : List Byte := (bytesLE n v).reverse

/-- SHA-256: the message is closed by a one bit, zeros up to 8 bytes short of a block, and its length in bits. -/
def sha256 (bs : List Byte) : List Byte :=
  let zeros := 63 - (bs.length + 8) % 64
  let n := (bs.length + 9 + zeros) / 64
  let v := ShaSt.absorbAll n (bs ++ 0x80 :: List.replicate zeros 0 ++ bytesBE 8 (8 * bs.length)) shaStart
  (v.as ++ v.es).flatMap (fun w => bytesBE 4 w.toNat)

/-! ### RSASSA-PSS -/

/-- Modular power over the low n bits of the exponent. -/
def powMod : Nat → Nat → Nat → Nat → Nat
  | 0, _, _, m => 1 % m
  | n + 1, b, e, m =>
    let r := powMod n (b * b % m) (e / 2) m
    if e % 2 = 1 then b * r % m else r

/-- MGF1 with SHA-256, n blocks of 32 bytes. -/
def mgf1 (seed : List Byte) : Nat → List Byte
  | 0 => []
  | n + 1 => mgf1 seed n ++ sha256 (seed ++ bytesBE 4 n)

/-- Exclusive or of two byte strings. -/
def xorBytes (a b : List Byte) : List Byte := (a.zip b).map (fun p => p.1 ^^^ p.2)

/-- The encoded message is consistent with the hash of the message (EMSA-PSS with 3,071 bits). -/
def pssOk (em mHash : List Byte) : Bool :=
  let masked := em.take 351
  let h := (em.drop 351).take 32
  let db := xorBytes masked ((mgf1 h 11).take 351)
  let db := (match db with
    | b :: t => (b &&& 0x7F) :: t
    | [] => [])
  let salt := db.drop 319
  em.getD 383 0 == 0xBC && (em.getD 0 0).toNat < 128 && (db.take 318).all (fun b => b == 0) && db.getD 318 0 == 1 &&
    sha256 (List.replicate 8 0 ++ mHash ++ salt) == h

/-- Verify a signature of 384 bytes under a modulus of 384 bytes and the exponent 65,537. -/
def rsaVerify (modulus sig mHash : List Byte) : Bool :=
  let n := ofBytesBE modulus
  let v := ofBytesBE sig
  decide (2 ^ 3071 ≤ n) && decide (v < n) && pssOk (bytesBE 384 (powMod 17 v 65537 n)) mHash

/-- The encoded message for a salt. -/
def pssEncode (mHash salt : List Byte) : List Byte :=
  let h := sha256 (List.replicate 8 0 ++ mHash ++ salt)
  let db := List.replicate 318 0 ++ [0x01] ++ salt
  let masked := xorBytes db ((mgf1 h 11).take 351)
  let masked := match masked with
    | b :: t => (b &&& 0x7F) :: t
    | [] => []
  masked ++ h ++ [0xBC]

/-- Sign with a modulus and a private exponent. -/
def rsaSign (n d : Nat) (mHash salt : List Byte) : List Byte :=
  bytesBE 384 (powMod 3072 (ofBytesBE (pssEncode mHash salt)) d n)

end Sys2Proof.Machine
end

