-- ==== Sys2Proof/Machine/Cache.lean ====
section
/-!
DEFINITION. The instruction cache of a herd (R121 to R125), and the herd program store behind it (R27).
-/

namespace Sys2Proof.Machine

/-- The byte address of program word w, from 0x1000 on, in the shared memory of herd h (R27). -/
def storeAddr (h w : Nat) : Nat := 0x10_0000_0000 + h * 0x4_0000 + 0x3_2000 + (w - 0x1000) * 2

/-- The first program word of the 32-bit word with folded address f, 0xC800 to 0xFFFF (R27). -/
def storeWord (f : Nat) : Nat := 0x1000 + (f - 0xC800) * 2

/-- Where the check state of a cached copy is kept; a copy that is not listed is clean. -/
def copyKey (h f : Nat) : Nat := 0x100_C000_0000 + h * 0x4_0000 + f * 4

/-- The folded address of the k-th 32-bit word of a line. -/
def lineFold (line k : Nat) : Nat := 0xC800 + (line * 8 - 0x1000) / 2 + k

/-- A line is valid. -/
def lineValid (s : State) (h line : Nat) : Bool := (icacheOf s h).lines.any (fun l => l.line == line)

/-- A line is invalidated. -/
def dropLine (s : State) (h line : Nat) : State :=
  let c := icacheOf s h
  let s := setIcache s h { c with lines := c.lines.filter (fun l => l.line != line) }
  { s with words := (List.range 4).foldl (fun m k => alDel m (copyKey h (lineFold line k))) s.words }

/-- A fill of the line in progress is not installed (R125 cases 1 and 2). -/
def spoilFill (s : State) (h line : Nat) : State :=
  let c := icacheOf s h
  setIcache s h { c with fills := c.fills.map (fun f => if f.1 = line then (f.1, false) else f) }

/-- A write to program word w of the herd program store is snooped (R123). -/
def snoopWord (s : State) (h w : Nat) : State :=
  let line := w / 8
  let s := spoilFill s h line
  if lineValid s h line then incr (dropLine s h line) ic_ICSNOOP_COUNT h else s

/-- Snoop a write of n bytes at a device-local address. -/
def snoopWrite (s : State) (a n : Nat) : State :=
  if 0x10_0000_0000 ≤ a ∧ a < 0x10_0800_0000 then
    (List.range n).foldl (fun s i =>
      let o := a + i - 0x10_0000_0000
      if 0x3_2000 ≤ o % 0x4_0000 ∧ (i = 0 ∨ o % 2 = 0) then
        snoopWord s (o / 0x4_0000) (0x1000 + (o % 0x4_0000 - 0x3_2000) / 2)
      else s) s
  else s

/-- A fill starts, or one in progress serves this miss too. -/
def startFill (s : State) (h line : Nat) : State :=
  let c := icacheOf s h
  if c.fills.any (fun f => f.1 == line) then s
  else incr (setIcache s h { c with fills := c.fills ++ [(line, true)] }) ic_ICMISS_COUNT h

/-- INVALL (R124, R125 case 2). -/
def invallOp (s : State) (h : Nat) : State :=
  let c := icacheOf s h
  let s := c.lines.foldl (fun s l => dropLine s h l.line) s
  setIcache s h { icacheOf s h with fills := c.fills.map (fun f => (f.1, false)) }

/-- CLRCNT. -/
def clrcntOp (s : State) (h : Nat) : State :=
  wr (wr (wr (wr s ic_ICHITS_COUNT h 0) ic_ICMISS_COUNT h 0) ic_ICSNOOP_COUNT h 0) ic_ICERR_COUNT h 0

/-- ICINV. -/
def icinvOp (s : State) (h w : Nat) : State := if 0x1000 ≤ w then dropLine (spoilFill s h (w / 8)) h (w / 8) else s

/-- ICCTRL.EN is cleared: no fill in progress is installed (R125 case 5). -/
def icDisable (s : State) (h : Nat) : State :=
  let c := icacheOf s h
  setIcache s h { c with fills := c.fills.map (fun f => (f.1, false)) }

/-- The four words of a line, read from the store for the cache (REQCLASS 8). -/
def lineRead (s : State) (h line : Nat) : Nat → List (Option (List Byte)) × State
  | 0 => ([], s)
  | k + 1 =>
    let (l, s) := lineRead s h line k
    match locOf (storeAddr h (line * 8) + k * 4) with
    | some w =>
      let (r, s) := readWord s w ⟨8, h⟩
      (l ++ [r], s)
    | none => (l ++ [none], s)

/-- Program word i of a line's words, none where it is uncorrectable. -/
def lineWord (l : List (Option (List Byte))) (i : Nat) : Option PWord :=
  (l.getD (i / 2) none).map (fun bs => BitVec.ofNat 14 (ofBytesLE ((bs.drop (i % 2 * 2)).take 2)))

/-- The words that one fetch access at w delivers (R119). -/
def accessWords (w : Nat) : List Nat := if w % 2 = 0 then [w, w + 1] else [w]

/-- The target that fetch follows behind word a: in normal mode the target buffer is looked up (R131). -/
def followed (s : State) (k : Nat) (a : Word16) : Option Word16 :=
  if rdb s kd_KMODE_DET k then none else (kidOf s k).tbuf.lookup a

/-- The words of an access enter the queue in fetch order, as far as it has room (R115, R119); a word behind one from which
fetch has followed the target buffer is not on its path. -/
def enqueue (s : State) (k : Nat) (direct : Bool) : List (Word16 × Option PWord) → State
  | [] => s
  | (a, w) :: t =>
    let c := kidOf s k
    if c.pq.length < 4 ∧ c.fpc = a then
      let hit := followed s k a
      enqueue (setKid s k { c with pq := c.pq ++ [⟨a, w, direct, hit⟩], fpc := hit.getD (a + 1) }) k direct t
    else s

/-- A kid whose access waits for the line takes the words of the access; where an instruction waits for them, it can issue. -/
def deliverLine (s : State) (line : Nat) (l : List (Option (List Byte))) (k : Nat) : State :=
  let c := kidOf s k
  match c.fetching with
  | none => s
  | some x =>
    if x / 8 = line then
      let c := { c with fetching := none }
      let c := match c.wait with
        | some (.fill _) => { c with wait := none, must := true }
        | _ => c
      enqueue (setKid s k c) k false ((accessWords x).map (fun w => (BitVec.ofNat 16 w, lineWord l (w % 8))))
    else s

/-- A flip-mask armed on a copy acts when the copy is written (R177). -/
def copyFlip (s : State) (h fold : Nat) : State :=
  match s.flip with
  | some f =>
    if f.bank = 0x5000_0000 + h ∧ f.addr = fold then
      { s with flip := none,
               words := alSet s.words (copyKey h fold)
                 ⟨true, true, xorCols (dataCol .w32) 32 (f.d % 2 ^ 32) ^^^ f.c % 128⟩ }
    else s
  | none => s

/-- A copy takes the check bits of the store's word (R151): where one of them is in error there, it is in error in the copy;
a word with gathered bytes over it is encoded anew. -/
def copyCheck (s : State) (h fold : Nat) : State :=
  match locOf (0x10_0000_0000 + h * 0x4_0000 + fold * 4) with
  | some w =>
    if decodeAt s w = .check ∧ s.merges.any (fun m => m.word == w.base) = false then
      { s with words := alSet s.words (copyKey h fold) ⟨true, true, (metaOf s w).synd⟩ }
    else s
  | none => s

/-- The line takes the next way of its set. -/
def installLine (s : State) (h line : Nat) : State :=
  let c := icacheOf s h
  let set := line % 32
  let way := (c.next.lookup set).getD 0
  let out := c.lines.filter (fun l => l.line % 32 == set && l.way == way)
  let s := out.foldl (fun s l => dropLine s h l.line) s
  let c := icacheOf s h
  let s := setIcache s h { c with lines := ⟨way, line⟩ :: c.lines, next := alSet c.next set ((way + 1) % 4) }
  (List.range 4).foldl (fun s k => copyFlip (copyCheck s h (lineFold line k)) h (lineFold line k)) s

/-- A fill ends (R125). -/
def lineFillOp (s : State) (h line : Nat) (ok : Bool) : State :=
  let c := icacheOf s h
  let s := setIcache s h { c with fills := c.fills.filter (fun f => f.1 != line) }
  let (l, s) := lineRead s h line 4
  let s := if ok && l.all Option.isSome then installLine s h line else s
  (List.range 64).foldl (fun s i => deliverLine s line l (h * 64 + i)) s

/-- The decode of a cached copy. -/
def copyDec (s : State) (h fold : Nat) : Dec := match alGet s.words (copyKey h fold) with
  | some m => decodeSynd .w32 m.synd
  | none => .clean

/-- The copies that an access reads are checked: `false` where one is in error, which counts, and invalidates the line
(R125 case 3). -/
def checkCopies (s : State) (k h : Nat) (w : Nat) : Bool × State :=
  let fold := 0xC800 + (w - 0x1000) / 2
  let d := copyDec s h fold
  if d = .clean then (true, s)
  else
    let synd := ((alGet s.words (copyKey h fold)).map (fun m => m.synd)).getD 0
    let s := countSynd s ⟨0x5000_0000 + h, fold, copyKey h fold, .w32⟩ synd d ⟨0, k⟩ true
    (false, incr (dropLine s h (w / 8)) ic_ICERR_COUNT h)

/-! ### Commands -/

/-- A write that reaches the cache block of herd h. -/
def atIcache (s : State) (h : Nat) (q : BusReq) (act : State → State) : Out :=
  atBlock s (herdDom h) (s.rst.herds.contains h) q act

/-- LINE_FILL. -/
def execLineFill (h : HerdId) (line : Fin 4096) (s : State) : Out :=
  match (icacheOf s h).fills.find? (fun f => f.1 == line.val) with
  | some (_, ok) => due s (!herdHeld s h) (lineFillOp s h line ok)
  | none => .next s

/-- ICCTRL_INVALL. -/
def execIccInvall (h : HerdId) (s : State) : Out :=
  atIcache s h (regReq ic_ICCTRL_EN h 0 (rd s ic_ICCTRL_EN h + 2) 1) (fun s => invallOp s h)

/-- ICCTRL_CLRCNT. -/
def execIccClrcnt (h : HerdId) (s : State) : Out :=
  atIcache s h (regReq ic_ICCTRL_EN h 0 (rd s ic_ICCTRL_EN h + 4) 1) (fun s => clrcntOp s h)

/-- ICINV. -/
def execIcinv (h : HerdId) (w : BitVec 15) (s : State) : Out :=
  atIcache s h (regReq ic_ICINV_WORD h 0 w.toNat 2) (fun s => icinvOp s h w.toNat)

end Sys2Proof.Machine
end

