-- ==== Sys2Proof/Machine/Integrity.lean ====
section
/-!
DEFINITION. The requests of the memory integrity block (R163, R170, R173 to R182, R477, R478).
-/

namespace Sys2Proof.Machine

/-- The power domain of a bank (R399). -/
def bankDom (bank : Nat) : Nat :=
  let t := bank / 2 ^ 28
  let r := bank % 2 ^ 28
  if t = 1 ∨ t = 2 then herdDom (r / 64)
  else if t = 3 then herdDom (r / 16)
  else if t = 5 ∨ t = 6 ∨ t = 7 then herdDom r
  else if t = 8 then hbmDom (r / 2 ^ 11 % 4)
  else if t = 4 then
    (if r < 128 then edgeDom (r / 32) else if r < 144 then edgeDom ((r - 128) / 4) else linkDom ((r - 144) / 2))
  else if r < 32768 then herdDom (r / 64)
  else if r < 0x9000 then edgeDom ((r - 0x8000) / 64)
  else if r < 0xA000 then edgeDom ((r - 0x9000) / 4)
  else if r < 0xB000 then edgeDom ((r - 0xA000) / 8)
  else linkDom ((r - 0xB000) / 4)

/-- Whether a folded address exists in a bank (R478). -/
def addrExists (bank fold : Nat) : Bool :=
  bankExists bank && ((baseOf bank fold).isSome || bank / 2 ^ 28 == 5 && decide (0xC800 ≤ fold ∧ fold < 0x1_0000))

/-- The result code of a decode (R170). -/
def cipCode : Dec → Nat
  | .clean => 1 | .check => 2 | .data _ => 2 | .uncorr => 3 | .valid => 3 | .unwritten => 4 | .addr _ => 5

/-- A correct-in-place request of a word that R478 gives (R170, R477). -/
def cipWord (s : State) (w : Loc) : Nat × State :=
  let s := commitWord s w
  let d := decodeAt s w
  let s := countDec s w d ⟨9, 0⟩ false
  let s := if d.correctable then
      match d.value (rawData s w) with
      | some v => fullWrite s w v
      | none => s
    else s
  (cipCode d, s)

/-- A correct-in-place request of a cached copy: a copy in error counts in ICERR, and a FIXED one frees its repeat entry (R124,
R168, R478). -/
def cipCopy (s : State) (h fold : Nat) : Nat × State :=
  let line := storeWord fold / 8
  if lineValid s h line then
    let d := copyDec s h fold
    let synd := ((alGet s.words (copyKey h fold)).map (fun m => m.synd)).getD 0
    let s := countSynd s ⟨0x5000_0000 + h, fold, copyKey h fold, .w32⟩ synd d ⟨9, 0⟩ false
    let s := if d = .clean then s else incr s ic_ICERR_COUNT h
    let s := if d.correctable then rptFree s ⟨0x5000_0000 + h, fold, copyKey h fold, .w32⟩ else s
    (cipCode d, dropLine s h line)
  else (1, s)

/-- A correct-in-place request runs. -/
def cipRun (s : State) (bank fold : Nat) : Nat × State :=
  if !addrExists bank fold then (6, s)
  else if bank / 2 ^ 28 = 5 then cipCopy s (bank % 2 ^ 28) fold
  else match (baseOf bank fold).bind locOf with
    | some w => cipWord s w
    | none => (6, s)

/-- CIPGO (R170, R182 case 8). A gated bank's domain starts to wake. -/
def cipgoOp (s : State) : State :=
  if rdb s mi_CIPBUSY then wr s mi_MIFAULT_BUSYGO 0 1
  else
    let b := rd s mi_CIPBANK
    let s := if bankExists b then touch s (bankDom b) else s
    { wr s mi_CIPBUSY 0 1 with cip := some (b, rd s mi_CIPADDR) }

/-- The request ends. -/
def cipEnd (s : State) (bank fold : Nat) : State :=
  let (r, s) := cipRun s bank fold
  { wr (wr s mi_CIPRES 0 r) mi_CIPBUSY 0 0 with cip := none }

/-- FLIPARM (R177). -/
def fliparmOp (s : State) : State :=
  { s with flip := some ⟨rd s mi_FLIPBANK, rd s mi_FLIPADDR, rd s mi_FLIPD, rd s mi_FLIPC, rdb s mi_FLIPV⟩ }

/-- LOGPOP. -/
def logpopOp (s : State) : State := { s with milog := s.milog.drop 1 }

/-- CNTCLR. -/
def cntclrOp (s : State) : State :=
  wr (wr (wr (wr (wr s mi_CECOUNT 0 0) mi_UECOUNT 0 0) mi_AFCOUNT 0 0) mi_REJCOUNT 0 0) mi_LOSTCOUNT 0 0

/-- The code of a bank's words. -/
def codeOf (bank : Nat) : Code :=
  let t := bank / 2 ^ 28
  if t = 1 then .kidProg else if t = 4 then .fawnProg else if t = 8 then .hbm else .w32

/-- Spares of a kind that the bank has, and those that the fuse map and the field-repair region have taken (R178). -/
def sparesLeft (s : State) (bank : Nat) (col : Bool) : Bool :=
  let used := Config.fuseSparesUsed bank col + (s.otp.repairs.filter (fun r => r.bank == bank && r.col == col)).length
  if bank / 2 ^ 28 = 8 then decide (used < Config.hbmSpares bank) else decide (used < if col then 2 else 4)

/-- The pseudo-channel of an HBM bank is fenced and drained (R439). -/
def hbmFenced (s : State) (bank : Nat) : Bool :=
  rd s ts_HBMFSTK == bits bank 12 11 && bit (rd s ts_HBMFST) (bits bank 10 6)

/-- A row or bit position exists. HBM has rows only; the rows of an instruction cache are named by the store's folded addresses, as
CIPADDR names its words (R478), and its copies hold no valid bits (assumption 27). -/
def repairOk (r : Repair) : Bool :=
  addrExists r.bank r.addr &&
    (!r.col || (r.bank / 2 ^ 28 != 8 && decide (r.bitp < (codeOf r.bank).dataBits + (codeOf r.bank).checkBits +
      (if r.bank / 2 ^ 28 = 5 then 0 else 2))))

/-- The result of a repair request, 0 where an HBM repair begins (R179, R181). -/
def repairCode (s : State) (r : Repair) : Nat :=
  if !repairOk r then 6
  else if s.otp.lcstate = 0 ∨ s.otp.lcstate = 4 then 5
  else if r.bank / 2 ^ 28 = 8 ∧ hbmFenced s r.bank = false then 7
  else if 512 ≤ s.otp.repairs.length then 4
  else if sparesLeft s r.bank r.col = false then 3
  else if r.bank / 2 ^ 28 = 8 then 0
  else 1

/-- RPRGO (R179, R182 case 8). -/
def rprgoOp (s : State) : State :=
  if rdb s mi_RPRBUSY then wr s mi_MIFAULT_BUSYGO 0 1
  else
    let r : Repair := ⟨rd s mi_RPRBANK, rd s mi_RPRADDR, rd s mi_RPRBIT, rdb s mi_RPRCOL⟩
    let c := repairCode s r
    if c = 0 then { wr s mi_RPRBUSY 0 1 with hppr := some r }
    else
      let s := wr s mi_RPRRES 0 c
      if c = 1 then { s with otp := { s.otp with repairs := s.otp.repairs ++ [r] } } else s

/-- Whether two HBM addresses lie in one row of one bank. -/
def sameRow (r : Repair) (a : Nat) : Bool :=
  decide (a < 0x10_0000_0000) && hbmBank a == r.bank && Config.hbmRow (bits a 33 19) == Config.hbmRow (bits (r.addr * 8) 33 19)

/-- The hPPR ends: the row's words are zero with correct check bits, and the repair is recorded (R181). -/
def hpprOp (s : State) (r : Repair) : State :=
  let s := clearMem s (sameRow r)
  let s := setRpt s r.bank ((rptOf s r.bank).filter (fun e => !sameRow r (e.addr * 8)))
  let s := wr (wr s mi_RPRRES 0 2) mi_RPRBUSY 0 0
  { s with hppr := none, otp := { s.otp with repairs := s.otp.repairs ++ [r] } }

/-! ### Commands -/

/-- A write that reaches a block of the service die's domain 149: memory integrity, test access, DEVFEAT (R399). -/
def atService (s : State) (q : BusReq) (act : State → State) : Out := atBlock s 149 false q act

/-- MERGE_COMMIT: the bank of the word has no other request waiting (R164). -/
def execMergeCommit (w : Nat) (s : State) : Out :=
  match locOf w with
  | some l => due s (s.merges.any (fun m => m.word == l.base)) (commitWord s l)
  | none => .next s

/-- CIPGO. -/
def execCipgo (s : State) : Out := atService s (regReq mi_CIPGO 0 0 1 1) cipgoOp

/-- CORRECT_IN_PLACE: the bank serves the request, once its domain is on. -/
def execCorrectInPlace (s : State) : Out :=
  match s.cip with
  | some (b, f) => due s (!bankExists b || pstate s (bankDom b) == 0) (cipEnd s b f)
  | none => .next s

/-- FLIPARM. -/
def execFliparm (s : State) : Out := atService s (regReq mi_FLIPARM 0 0 1 1) fliparmOp
/-- FLIPCAN. -/
def execFlipcan (s : State) : Out := atService s (regReq mi_FLIPCAN 0 0 2 1) (fun s => { s with flip := none })
/-- LOGPOP. -/
def execLogpop (s : State) : Out := atService s (regReq mi_LOGPOP 0 0 1 1) logpopOp
/-- CNTCLR. -/
def execCntclr (s : State) : Out := atService s (regReq mi_CNTCLR 0 0 2 1) cntclrOp
/-- RPRGO. -/
def execRprgo (s : State) : Out := atService s (regReq mi_RPRGO 0 0 1 1) rprgoOp
/-- HPPR. -/
def execHppr (s : State) : Out :=
  match s.hppr with
  | some r => .next (hpprOp s r)
  | none => .next s

end Sys2Proof.Machine
end

