-- ==== Sys2Proof/Machine/Oryx.lean ====
section
/-!
DEFINITION. The oryx engines: mailbox slots, posting and the FIFO, the start check, the commands, and completion
(R229 to R249, R475).
-/

namespace Sys2Proof.Machine

/-! ### Descriptor fields (R234) -/

def Desc.op (d : Desc) : Nat := bits d.d 5 0
def Desc.fmt (d : Desc) : Nat := bits d.d 10 8
def Desc.sat (d : Desc) : Bool := bit d.d 11
def Desc.rnd (d : Desc) : Nat := bits d.d 13 12
def Desc.dest (d : Desc) : Nat := bits d.d 15 14
def Desc.n1 (d : Desc) : Nat := bits d.d 23 16
def Desc.n2 (d : Desc) : Nat := bits d.d 31 24
def Desc.n3 (d : Desc) : Nat := bits d.d 39 32
def Desc.tag (d : Desc) : Nat := bits d.d 47 40
def Desc.src (d : Desc) : Nat := bits d.d 59 48
def Desc.dst (d : Desc) : Nat := bits d.d 75 64
def Desc.vin (d : Desc) : Nat := bits d.d 91 80
def Desc.incm (d : Desc) : Bool := bit d.d 92
def Desc.db (d : Desc) : Bool := bit d.d 93
/-- Bytes of one unit: an element, or 8 bytes for PUT and GET. -/
def Desc.unit (d : Desc) : Nat := if d.op = 0x0B ∨ d.op = 0x0C then 8 else fmtSize d.fmt
/-- The endpoint of DEST 2. -/
def Desc.ep (d : Desc) (h : Nat) : Nat := h * 64 + d.dst % 64

/-! ### The command table (R239) -/

/-- Units of the operand block at SRC. -/
def Desc.blkLen (d : Desc) : Nat :=
  let n := d.n1; let m := d.n2; let p := d.n3
  if d.op = 2 then n + 1 else if d.op = 3 then 10 else if d.op = 4 then 19
  else if d.op = 5 then n * n + n * m + p * n + p * m + n
  else if d.op = 6 then 9 else if d.op = 8 then n * m
  else if d.op = 9 then (if m = 0 then n + 3 else 4 + (n + 1) * (m + 1))
  else if d.op = 0x0A then n else if d.op = 0x0C then n else 0

/-- Elements of the input vector. -/
def Desc.inLen (d : Desc) : Nat :=
  if d.op = 2 then 1 else if d.op = 3 then 3 else if d.op = 4 then 4 else if d.op = 5 then d.n2
  else if d.op = 6 then 1 else if d.op = 7 then d.n1 + 1 else if d.op = 8 then d.n2 * d.n3
  else if d.op = 9 then (if d.n2 = 0 then 1 else 2) else if d.op = 0x0A then d.n1 else 0

/-- Units of the result. -/
def Desc.outLen (d : Desc) : Nat :=
  if d.op = 2 then d.n2 + 1 else if d.op = 3 then 2 else if d.op = 4 then 3 else if d.op = 5 then d.n3
  else if d.op = 6 then 1 else if d.op = 7 then 2 else if d.op = 8 then d.n1 * d.n3 else if d.op = 9 then 1
  else if d.op = 0x0A then (if d.n2 = 4 then 1 else d.n1) else if d.op = 0x0C then d.n1 else 0

/-- Whether the command uses N1, N2, N3 and SRC. -/
def Desc.uses (d : Desc) : Bool × Bool × Bool × Bool :=
  if d.op = 2 then (true, true, false, true)
  else if d.op = 3 ∨ d.op = 4 ∨ d.op = 6 then (false, false, false, true)
  else if d.op = 5 ∨ d.op = 8 then (true, true, true, true)
  else if d.op = 7 then (true, false, false, false)
  else if d.op = 9 ∨ d.op = 0x0A then (true, true, false, true)
  else if d.op = 0x0B then (true, false, false, false)
  else if d.op = 0x0C then (true, false, false, true)
  else (false, false, false, false)

/-- The dimensions lie in their ranges. -/
def Desc.dimsOk (d : Desc) : Bool :=
  let inR (v lo hi : Nat) : Bool := decide (lo ≤ v) && decide (v ≤ hi)
  if d.op = 2 then inR d.n1 0 7 && inR d.n2 0 3
  else if d.op = 5 then inR d.n1 1 16 && inR d.n2 1 4 && inR d.n3 1 4
  else if d.op = 7 then inR d.n1 0 1
  else if d.op = 8 then inR d.n1 1 4 && inR d.n2 1 4 && inR d.n3 1 4
  else if d.op = 9 then inR d.n1 1 255
  else if d.op = 0x0A then inR d.n1 1 16 && inR d.n2 0 4
  else if d.op = 0x0B ∨ d.op = 0x0C then inR d.n1 1 4
  else true

/-- A reserved or unused field is not 0, or INCM is not what the command requires (R235, R239). -/
def Desc.rsvd (d : Desc) : Bool :=
  let (u1, u2, u3, us) := d.uses
  let raw := d.op == 0x0B || d.op == 0x0C
  let axpy := d.op == 0x0A && d.n2 == 3
  bits d.d 7 6 != 0 || bits d.d 63 60 != 0 || bits d.d 79 76 != 0 || bits d.d 127 94 != 0 ||
  decide (6 ≤ d.fmt) || d.dest == 3 ||
  (!u1 && d.n1 != 0) || (!u2 && d.n2 != 0) || (!u3 && d.n3 != 0) || (!us && d.src != 0) ||
  (d.dest == 0 && d.dst != 0) || (d.dest == 2 && d.dst / 64 != 0) ||
  (!d.incm && d.vin != 0) ||
  (d.incm && !(d.op == 5 || d.op == 8 || d.op == 0x0A)) || (axpy && !d.incm) ||
  (raw && (d.fmt != 0 || d.sat || d.rnd != 0)) || (d.op == 0x0B && d.dest != 1) || (d.op == 0x0C && d.dest == 1)

/-- DEST 2 names a producer endpoint of this oryx (R244). -/
def oryxEp (s : State) (h : Nat) (d : Desc) : Bool :=
  role s (d.ep h) == 1 && ownedByEngine s (d.ep h) (0x1000 + h)

/-- The start check: the error that stands highest in the table of R246, 0 where there is none. -/
def startCheck (s : State) (h : Nat) (d : Desc) : Nat :=
  let u := d.unit
  let (_, _, _, us) := d.uses
  let outBytes := if d.op = 0x0B then 8 * d.n1 else d.outLen * u
  if d.op = 0 ∨ 0x0D ≤ d.op then 1
  else if d.rsvd then 2
  else if !d.dimsOk then 3
  else if (us && d.src % u != 0) || (d.dest == 1 && d.dst % u != 0) || (d.incm && d.vin % u != 0) then 4
  else if (us && decide (0x1000 < d.src + d.blkLen * u)) || (d.incm && decide (0x1000 < d.vin + d.inLen * u)) ||
      (d.dest == 1 && decide (0x1000 < d.dst + outBytes)) then 5
  else if (!d.incm && decide (32 < d.inLen * u)) || (d.dest == 0 && decide (32 < d.outLen * u)) then 6
  else if d.dest = 2 ∧ oryxEp s h d = false then 7
  else 0

/-! ### Formulas (R240, R475) -/

/-- Element i of a vector. -/
def el (l : List Val) (i : Nat) : Val := l.getD i (.int 0)

/-- A chain of fused multiply-adds over indices 0 to n − 1, ascending. -/
def fmaChain (fmt rnd : Nat) (x y : Nat → Val) (n : Nat) (acc : Val) : Val :=
  (List.range n).foldl (fun a k => Val.fma fmt rnd (x k) (y k) a) acc

/-- i! / (i − r)!. -/
def fallFact (i r : Nat) : Nat := (List.range r).foldl (fun a k => a * (i - k)) 1

/-- The k-th derivative of a polynomial (SEG). -/
def segVal (fmt rnd : Nat) (c : List Val) (d k : Nat) (t : Val) : Val :=
  if d < k then .int 0
  else
    let coef (i : Nat) : Val := Val.mul fmt rnd (el c i) (.int (fallFact i k))
    (List.range (d - k)).foldl (fun acc j => Val.fma fmt rnd acc t (coef (d - 1 - j))) (coef d)

def segCalc (fmt rnd d r : Nat) (c : List Val) (t : Val) : List Val := (List.range (r + 1)).map (fun k => segVal fmt rnd c d k t)

def xf2Calc (fmt rnd : Nat) (b x : List Val) : List Val :=
  let f := Val.fma fmt rnd
  let dt := Val.sub fmt rnd (el x 2) (el b 9)
  let x1 := f (el b 6) (el x 1) (el x 0)
  let xs := Val.mul fmt rnd x1 (f (el b 7) dt (.int 1))
  let ys := Val.mul fmt rnd (el x 1) (f (el b 8) dt (.int 1))
  [f (el b 1) ys (f (el b 0) xs (el b 4)), f (el b 3) ys (f (el b 2) xs (el b 5))]

def xf3Calc (fmt rnd : Nat) (b x : List Val) : List Val :=
  let f := Val.fma fmt rnd
  let dt := Val.sub fmt rnd (el x 3) (el b 18)
  let x1 := f (el b 13) (el x 2) (f (el b 12) (el x 1) (el x 0))
  let y1 := f (el b 14) (el x 2) (el x 1)
  let sc (v : Val) (i : Nat) : Val := Val.mul fmt rnd v (f (el b i) dt (.int 1))
  let s0 := sc x1 15
  let s1 := sc y1 16
  let s2 := sc (el x 2) 17
  (List.range 3).map (fun i =>
    f (el b (4 * i + 2)) s2 (f (el b (4 * i + 1)) s1 (f (el b (4 * i)) s0 (el b (4 * i + 3)))))

/-- One row of SS: the state part, then the input part. -/
def ssRow (fmt rnd n m : Nat) (b u : List Val) (stateAt inAt xAt : Nat) : Val :=
  let acc := fmaChain fmt rnd (fun k => el b (stateAt + k)) (fun k => el b (xAt + k)) n (.int 0)
  fmaChain fmt rnd (fun k => el b (inAt + k)) (fun k => el u k) m acc

/-- SS: the outputs from the old state, and the new state. -/
def ssCalc (fmt rnd n m p : Nat) (b u : List Val) : List Val × List Val :=
  let bAt := n * n
  let cAt := bAt + n * m
  let dAt := cAt + p * n
  let xAt := dAt + p * m
  ((List.range p).map (fun i => ssRow fmt rnd n m b u (cAt + i * n) (dAt + i * m) xAt),
   (List.range n).map (fun i => ssRow fmt rnd n m b u (i * n) (bAt + i * m) xAt))

/-- A clamp, and whether it acts (R475). A clamped value keeps the flags of what it replaces. -/
def clampVal (v lo hi : Val) : Val × Bool :=
  if v.n.lt lo.n then (lo.with v.f, true) else if hi.n.lt v.n then (hi.with v.f, true) else (v, false)

/-- PID: the output, the new integrator, and whether a clamp acted. -/
def pidCalc (fmt rnd : Nat) (b : List Val) (e : Val) : Val × Val × Bool :=
  let f := Val.fma fmt rnd
  let (ip, c1) := clampVal (f (el b 1) e (el b 7)) (el b 3) (el b 4)
  let o := Val.add fmt rnd (f (el b 0) e ip) (Val.mul fmt rnd (el b 2) (Val.sub fmt rnd e (el b 8)))
  let (oc, c2) := clampVal o (el b 5) (el b 6)
  let signDiff : Int := if oc.n.lt o.n then 1 else -1
  let ip := if c2 && decide (signDiff = e.n.sign) then (el b 7).with ip.f else ip
  (oc, ip, c1 || c2)

def matmulCalc (fmt rnd a b c : Nat) (A B : List Val) : List Val :=
  (List.range (a * c)).map (fun ij =>
    fmaChain fmt rnd (fun k => el A (ij / c * b + k)) (fun k => el B (k * c + ij % c)) b (.int 0))

/-- Floor of a number as a natural, clamped to `max`. -/
def floorNat (x : Num) (max_ : Nat) : Nat := match x with
  | .fin m p => min (floorDy m p).toNat max_
  | .inf false => max_
  | _ => 0

/-- The place in one axis of an interpolation table: index, fraction, and whether the input was clamped. -/
def interpAxis (fmt rnd nx : Nat) (x0 rdx x : Val) : Nat × Val × Bool :=
  let f := Val.mul fmt rnd (Val.sub fmt rnd x x0) rdx
  let (f, rng) := clampVal f (.int 0) (.int nx)
  let i := floorNat f.n (nx - 1)
  (i, Val.sub fmt rnd f (.int i), rng)

/-- VEC. -/
def vecCalc (fmt rnd sub l : Nat) (x y : List Val) (k : Val) : List Val :=
  if sub = 4 then [fmaChain fmt rnd (el x) (el y) l (.int 0)]
  else (List.range l).map (fun i =>
    if sub = 0 then Val.add fmt rnd (el x i) (el y i)
    else if sub = 1 then Val.sub fmt rnd (el x i) (el y i)
    else if sub = 2 then Val.mul fmt rnd (el x i) (el y i)
    else Val.fma fmt rnd k (el x i) (el y i))

/-! ### Memory of the oryx -/

def coefBase (h : Nat) : Nat := 0x12_0000_3000 + h * 0x1_0000
def slotBase (h j : Nat) : Nat := 0x12_0000_2000 + h * 0x1_0000 + j * 0x40
def oryxRq (h : Nat) : Rq := ⟨4, h⟩

/-- Split bytes into elements of e bytes. -/
def splitBytes (e : Nat) : Nat → List Byte → List Nat
  | 0, _ => []
  | n + 1, bs => ofBytesLE (bs.take e) :: splitBytes e n (bs.drop e)

/-- Read n elements of coefficient memory. -/
def coefRead (s : State) (h off e n : Nat) : Option (List Nat) × State :=
  let (r, s) := memRead s (coefBase h + off) (e * n) (oryxRq h)
  (r.map (splitBytes e n), s)

def coefWrite (s : State) (h off : Nat) (bs : List Byte) : State := memWrite s (coefBase h + off) bs (oryxRq h)

/-! ### Completion (R242 to R244, R246) -/

/-- STAT.PENDING of a slot, OXENG and BUSY are read from the FIFO. -/
def slotPending (s : State) (h j : Nat) : Nat := ((oryxOf s h).fifo.filter (fun d => d.slot == j)).length
def slotBusy (s : State) (h j : Nat) : Bool := match (oryxOf s h).fifo with
  | d :: _ => d.slot == j
  | [] => false

/-- The slot's status after a completion, and the end of the descriptor (R243 step 3). -/
def finishDesc (s : State) (h : Nat) (d : Desc) (err tag : Nat) (fl : Flags) : State :=
  let i := h * 64 + d.slot
  let s := wr s ox_STAT_ERR i err
  let s := wr s ox_STAT_SATF i (b2n fl.satf)
  let s := wr s ox_STAT_INV i (b2n fl.inv)
  let s := wr s ox_STAT_OVF i (b2n fl.ovf)
  let s := wr s ox_STAT_DOM i (b2n fl.dom)
  let s := wr s ox_STAT_RNG i (b2n fl.rng)
  let s := wr s ox_STAT_AWU i (b2n fl.awu)
  let s := wr s ox_STAT_TAG i tag
  let s := wr s ox_STAT_VALID i 1
  let s := incr s ox_DONES i
  let s := if err = 0 then s else incrSat s ox_ERRS i
  let s := if err = 8 then wr s ox_OXFAULT_UECC (h * 64) 1 else s
  let o := oryxOf s h
  setOryx s h { o with fifo := o.fifo.drop 1 }

/-- The doorbell of a completion (R243 step 5). -/
def raiseDb (s : State) (h : Nat) (db : Bool) : State :=
  if db then raiseMapped s (rdb s hd_OXDB_MAPPED h) h (16 + rd s hd_OXDB_SRC h) else s

/-- The payload of a result clause (R244). -/
def resultClause (d : Desc) (fl : Flags) (err : Nat) (res : List Byte) : List Byte :=
  [BitVec.ofNat 8 d.tag, BitVec.ofNat 8 d.slot, BitVec.ofNat 8 d.op, BitVec.ofNat 8 d.fmt, BitVec.ofNat 8 fl.word,
   BitVec.ofNat 8 err, 0, 0] ++ res

/-- The header of a result clause: TYPE 0x30. -/
def oryxHdr (n : Nat) : Nat := n + 0x30 * 2 ^ 11

/-- Whether the completion can push its clause now; without DEST 2, or with an endpoint that is none, nothing is pushed. -/
def pushReady (s : State) (h : Nat) (d : Desc) (n : Nat) : Bool :=
  d.dest != 2 || !oryxEp s h d || enginePushOk s (d.ep h) (8 + n)

/-- An error completion (R243, R246). -/
def failDesc (s : State) (h : Nat) (d : Desc) (err : Nat) : State :=
  let s := if d.dest = 2 ∧ err ≠ 7 ∧ oryxEp s h d then
    enginePush s (d.ep h) (oryxHdr 8) (resultClause d {} err []) else s
  finishDesc s h d err d.tag {}

/-- A completion with results: they are written or pushed, then the write-back, then the status. -/
def passDesc (s : State) (h : Nat) (d : Desc) (fl : Flags) (res : List Byte) (back : List (Nat × List Byte)) : State :=
  let s :=
    if d.op = 0x0B then coefWrite s h d.dst res
    else if d.dest = 0 then memWrite s (slotBase h d.slot + 0x10) res (oryxRq h)
    else if d.dest = 1 then coefWrite s h d.dst res
    else enginePush s (d.ep h) (oryxHdr (8 + res.length)) (resultClause d fl 0 res)
  let s := back.foldl (fun s b => coefWrite s h b.1 b.2) s
  finishDesc s h d 0 d.tag fl

/-- What a command computes from the coefficient memory: flags, result bytes and write-back, or an uncorrectable word. -/
abbrev Calc := Option (Flags × List Byte × List (Nat × List Byte)) × State

/-- Encode results. -/
def encodeAll (d : Desc) (l : List Val) : List Byte × Flags :=
  l.foldl (fun (bs, fl) v =>
    let (r, f) := encodeVal d.fmt d.rnd d.sat v
    (bs ++ bytesLE (fmtSize d.fmt) r, fl.or f)) ([], {})

/-- The input vector (R239). -/
def inputs (s : State) (h : Nat) (d : Desc) : Option (List Val) × State :=
  let e := fmtSize d.fmt
  if d.incm then
    let (r, s) := coefRead s h d.vin e d.inLen
    (r.map (fun l => l.map (decodeVal d.fmt)), s)
  else (some ((splitBytes e d.inLen d.opnd).map (decodeVal d.fmt)), s)

/-- The operand block. -/
def block (s : State) (h : Nat) (d : Desc) : Option (List Val) × State :=
  let (r, s) := coefRead s h d.src (fmtSize d.fmt) d.blkLen
  (r.map (fun l => l.map (decodeVal d.fmt)), s)

/-- A command that reads its whole block and input, computes results from them, and writes nothing back. -/
def plainCalc (f : List Val → List Val → List Val) (s : State) (h : Nat) (d : Desc) : Calc :=
  let (b, s) := block s h d
  let (x, s) := inputs s h d
  (match b, x with
    | some b, some x =>
      let (bs, fl) := encodeAll d (f b x)
      some (fl, bs, [])
    | _, _ => none, s)

def ssRun (s : State) (h : Nat) (d : Desc) : Calc :=
  let (b, s) := block s h d
  let (u, s) := inputs s h d
  (match b, u with
    | some b, some u =>
      let (y, x) := ssCalc d.fmt d.rnd d.n1 d.n2 d.n3 b u
      let (ys, f1) := encodeAll d y
      let (xs, f2) := encodeAll d x
      some (f1.or f2, ys, [(d.src + (d.blkLen - d.n1) * fmtSize d.fmt, xs)])
    | _, _ => none, s)

def pidRun (s : State) (h : Nat) (d : Desc) : Calc :=
  let (b, s) := block s h d
  let (x, s) := inputs s h d
  (match b, x with
    | some b, some x =>
      let e := el x 0
      let (oc, ip, act) := pidCalc d.fmt d.rnd b e
      let (ys, f1) := encodeAll d [oc]
      let (ws, f2) := encodeAll d [ip, e]
      some ((f1.or f2).or { awu := act }, ys, [(d.src + 7 * fmtSize d.fmt, ws)])
    | _, _ => none, s)

def cordicRun (s : State) (d : Desc) : Calc :=
  let raw := splitBytes (fmtSize d.fmt) d.inLen d.opnd
  let pick := Config.cordic d.fmt d.n1 raw
  let (a, b) :=
    if d.n1 = 0 then cordicCosSin d.fmt pick (decodeNum d.fmt (raw.getD 0 0))
    else cordicAtan2 d.fmt pick (decodeNum d.fmt (raw.getD 0 0)) (decodeNum d.fmt (raw.getD 1 0))
  let (bs, fl) := encodeAll d [a, b]
  (some (fl, bs, []), s)

/-- One element of the table of INTERP. -/
def tableAt (s : State) (h : Nat) (d : Desc) (i : Nat) : Option Val × State :=
  let e := fmtSize d.fmt
  let (r, s) := coefRead s h (d.src + i * e) e 1
  (r.map (fun l => decodeVal d.fmt (l.getD 0 0)), s)

/-- fma(fr, b − a, a). -/
def lerp (d : Desc) (fr a b : Val) : Val := Val.fma d.fmt d.rnd fr (Val.sub d.fmt d.rnd b a) a

def interpRun (s : State) (h : Nat) (d : Desc) : Calc :=
  let e := fmtSize d.fmt
  let hd := if d.n2 = 0 then 2 else 4
  let (hr, s) := coefRead s h d.src e hd
  let x := (splitBytes e d.inLen d.opnd).map (decodeVal d.fmt)
  match hr with
  | none => (none, s)
  | some hl =>
    let b := hl.map (decodeVal d.fmt)
    let (i, frx, r1) := interpAxis d.fmt d.rnd d.n1 (el b 0) (el b 1) (el x 0)
    if d.n2 = 0 then
      let (v0, s) := tableAt s h d (2 + i)
      let (v1, s) := tableAt s h d (3 + i)
      (match v0, v1 with
        | some v0, some v1 =>
          let (bs, fl) := encodeAll d [lerp d frx v0 v1]
          some (fl.or { rng := r1 }, bs, [])
        | _, _ => none, s)
    else
      let (j, fry, r2) := interpAxis d.fmt d.rnd d.n2 (el b 2) (el b 3) (el x 1)
      let w := d.n1 + 1
      let (a0, s) := tableAt s h d (4 + j * w + i)
      let (a1, s) := tableAt s h d (5 + j * w + i)
      let (b0, s) := tableAt s h d (4 + (j + 1) * w + i)
      let (b1, s) := tableAt s h d (5 + (j + 1) * w + i)
      (match a0, a1, b0, b1 with
        | some a0, some a1, some b0, some b1 =>
          let (bs, fl) := encodeAll d [lerp d fry (lerp d frx a0 a1) (lerp d frx b0 b1)]
          some (fl.or { rng := r1 || r2 }, bs, [])
        | _, _, _, _ => none, s)

/-- What each command computes. -/
def compute (s : State) (h : Nat) (d : Desc) : Calc :=
  let fmt := d.fmt
  let rnd := d.rnd
  if d.op = 2 then plainCalc (fun b x => segCalc fmt rnd d.n1 d.n2 b (el x 0)) s h d
  else if d.op = 3 then plainCalc (fun b x => xf2Calc fmt rnd b x) s h d
  else if d.op = 4 then plainCalc (fun b x => xf3Calc fmt rnd b x) s h d
  else if d.op = 5 then ssRun s h d
  else if d.op = 6 then pidRun s h d
  else if d.op = 7 then cordicRun s d
  else if d.op = 8 then plainCalc (fun b x => matmulCalc fmt rnd d.n1 d.n2 d.n3 b x) s h d
  else if d.op = 9 then interpRun s h d
  else if d.op = 0x0A then
    plainCalc (fun b x => vecCalc fmt rnd d.n2 d.n1 b x (decodeVal fmt (ofBytesLE (d.opnd.take (fmtSize fmt))))) s h d
  else if d.op = 0x0B then (some ({}, d.opnd.take (8 * d.n1), []), s)
  else if d.op = 0x0C then
    let (r, s) := memRead s (coefBase h + d.src) (8 * d.n1) (oryxRq h)
    (r.map (fun bs => ({}, bs, [])), s)
  else (some ({}, [], []), s)

/-- The running descriptor of herd h completes, to the update of STAT (R235, R243 steps 1 to 3, R246). -/
def runDesc (s : State) (h : Nat) (d : Desc) : State :=
  let err := startCheck s h d
  if err ≠ 0 then failDesc s h d err
  else if d.ueO then failDesc s h d 8
  else match compute s h d with
    | (some (fl, res, back), s) => passDesc s h d fl res back
    | (none, s) => failDesc s h d 8

/-- An engine whose herd takes part: on, and not held by a reset. -/
def oryxUp (s : State) (h : Nat) : Bool := !herdHeld s h

/-- Result bytes of the clause that a descriptor pushes: none with an error (R244). -/
def clauseLen (s : State) (h : Nat) (d : Desc) : Nat :=
  if startCheck s h d = 0 ∧ d.ueO = false ∧ (compute s h d).1.isSome = true then d.outLen * d.unit else 0

/-! ### Mailbox accesses and posting (R230 to R233) -/

/-- Who reaches slot j of herd h (R230); a kid of another herd comes through the global window with SUP. -/
def slotRight (s : State) (ag : Agent) (h j : Nat) : Bool := match ag with
  | .kid k => rdb s kd_KMODE_SUP k || (k.val / 64 == h && k.val % 64 == j)
  | .host | .tap | .image => true
  | _ => false

/-- The requester of an access in the log (R174). -/
def agentRq (ag : Agent) (write : Bool) : Rq := match ag with
  | .kid k => ⟨if write then 2 else 1, k⟩
  | .fawn f => ⟨3, f⟩
  | .link l _ => ⟨7, l⟩
  | .image => ⟨11, 0⟩
  | _ => ⟨6, 0⟩

/-- The oryx captures DESC and OPND of a slot into its FIFO (R232, R246). -/
def captureOp (s : State) (h j : Nat) : State :=
  let (d, s) := memRead s (slotBase h j) 16 (oryxRq h)
  let (o, s) := memRead s (slotBase h j + 0x10) 32 (oryxRq h)
  let e : Desc := ⟨j, ofBytesLE (d.getD []), o.getD [], d.isNone, o.isNone⟩
  let q := oryxOf s h
  setOryx s h { q with fifo := q.fifo ++ [e] }

/-- A posting write is served: its bytes, then the capture. -/
def servePost (s : State) (h : Nat) (r : PostReq) : State :=
  captureOp (memWrite s (slotBase h r.slot + r.off) (bytesLE r.n r.v) (agentRq r.ag true)) h r.slot

/-- A write to DESC that includes byte 0x0F: captured now, or waiting for a free entry (R233). -/
def postOp (s : State) (h : Nat) (r : PostReq) : State :=
  let o := oryxOf s h
  if o.fifo.length < 16 ∧ o.posts = [] then { servePost s h r with reply := .done }
  else { setOryx s h { o with posts := o.posts ++ [r] } with reply := .waits }

/-- A write that reaches a slot of herd h, at offset o below 0x30. -/
def slotWrite (s : State) (ag : Agent) (h j o n v : Nat) (ret : Ret) : State :=
  if o ≤ 0x0F ∧ 0x0F < o + n then postOp s h ⟨ag, j, o, n, v, ret⟩
  else { memWrite s (slotBase h j + o) (bytesLE n v) (agentRq ag true) with reply := .done }

/-- The value of STAT as it reads (R231). -/
def statOf (s : State) (h j : Nat) : Nat :=
  let i := h * 64 + j
  slotPending s h j + 2 ^ 5 * b2n (slotBusy s h j) + 2 ^ 6 * rd s ox_STAT_VALID i + 2 ^ 8 * rd s ox_STAT_ERR i +
    2 ^ 16 * rd s ox_STAT_SATF i + 2 ^ 17 * rd s ox_STAT_INV i + 2 ^ 18 * rd s ox_STAT_OVF i +
    2 ^ 19 * rd s ox_STAT_DOM i + 2 ^ 20 * rd s ox_STAT_RNG i + 2 ^ 21 * rd s ox_STAT_AWU i + 2 ^ 24 * rd s ox_STAT_TAG i

/-- The engine returns to its reset state with its herd: the FIFO is discarded; waiting posts are withdrawn and, unless
their kid is reset too, served anew when the reset ends (R249 case 5). -/
def resetOryx (s : State) (h : Nat) : State :=
  let o := oryxOf s h
  let wait := o.posts.filter (fun r => !r.ag.isKid || (match r.ag with
    | .kid k => k.val / 64 != h
    | _ => false))
  let s := setOryx s h { fifo := [], posts := [] }
  let s := (List.range 64).foldl (fun s j => resetBlk s .oryxSlot (h * 64 + j)) s
  { s with held := s.held ++ wait.map (fun r => ⟨r.ag, slotBase h r.slot + r.off, r.n, some r.v, r.ret⟩) }

/-! ### Commands -/

/-- POST. -/
def execPost (ag : Agent) (h : HerdId) (j : Fin 64) (off : Fin 16) (sz : Size) (v : BitVec 64) (s : State) : Out :=
  let w := v.toNat % 256 ^ sz.bytes
  if slotRight s ag h j then
    atBlockAns s (herdDom h) (s.rst.herds.contains h.val) ⟨ag, slotBase h j + off.val, sz.bytes, some w, .none⟩
      (fun s => slotWrite s ag h j off.val sz.bytes w .none)
  else .next { s with reply := .reserved }

/-- The first posting write that waits is captured, now that an entry is free. -/
def captureNext (s : State) (h : Nat) : Option (State × PostReq) :=
  let o := oryxOf s h
  match o.posts with
  | [] => none
  | r :: rs => if o.fifo.length < 16 then some (servePost (setOryx s h { o with posts := rs }) h r, r) else none

end Sys2Proof.Machine
end

