-- ==== Sys2Proof/Machine/KidCtl.lean ====
section
/-!
DEFINITION. Kid control: run, halt, step and KID reset (R56, R83 to R88, R145, R211, R420, R424 to R428).
-/

namespace Sys2Proof.Machine

/-- The stores of a kid that wait at its herd's endpoints are withdrawn (R145 case 5, R428 case 6). -/
def dropPushes (s : State) (k : Nat) : State :=
  { s with prods := s.prods.map (fun e =>
      if e.1 / 64 = herdOfKid k then
        (e.1, { e.2 with waitq := e.2.waitq.filter (fun r => match r.ag with
          | .kid j => j.val != k
          | _ => true) })
      else e) }

/-- A kid's posting writes and held accesses are withdrawn, and its outstanding requests answer nobody. -/
def dropPosts (s : State) (k : Nat) : State :=
  let own (ag : Agent) : Bool := match ag with
    | .kid j => j.val == k
    | _ => false
  { s with
    oryxes := s.oryxes.map (fun e => (e.1, { e.2 with posts := e.2.posts.filter (fun r => !own r.ag) }))
    held := s.held.filter (fun q => !own q.ag)
    reqs := s.reqs.map (fun e => if own e.2.ag then (e.1, { e.2 with ret := .none }) else e) }

/-- The kid owns the producer's open clause or partial header (R211 cases 1 and 13). -/
def ownsOpen (s : State) (k e : Nat) : Bool :=
  role s e == 1 && (rd s qx_OWNER e == k % 64 || (rd s qx_OWNER e == 0x40 && (prodOf s e).lock == some k))

/-- The open clauses of a kid are completed, its partial headers dropped. -/
def padKid (s : State) (k : Nat) : State :=
  ((List.range 64).map (fun j => herdOfKid k * 64 + j)).foldl (fun s e => if ownsOpen s k e then padClause s e else s) s

/-- The special registers of a kid take their reset values; KMODE.SUP stays (R423). -/
def resetSr (s : State) (k : Nat) : State :=
  dropRegs s (fun r => r.inBlk .kidSr k && decide (r.off ≠ 0 ∨ r.lo ≠ 0))

/-- A KID reset takes effect (R420, R423, R426). -/
def resetKid (s : State) (k : Nat) : State :=
  let s := unreport (completeClaim s k) k
  let s := padKid (dropPosts (dropPushes s k) k) k
  let s := clearBank (resetSr s k) (0x2000_0000 + k)
  let s := wr (wr (incr s kc_KRESETS k) kc_KSTAT_STATE k 3) kc_KSTAT_WHY k 0
  setKid s k { pos := (kidOf s k).pos }

/-- A KID reset of its own, which ends 80 steps later (R420). -/
def resetKidAlone (s : State) (k : Nat) : State := stampAt (resetKid s k) (.kid k)

/-- A KID reset ends: the kid runs from word 0x0000 (R56). -/
def startKid (s : State) (k : Nat) : State := wr s kc_KSTAT_STATE k 0

/-- Whether a kid waits on a queue-port handshake (R145 case 5). -/
def queueWait (c : Kid) : Bool := match c.wait with
  | some (.load _ a) => decide (0xC000 ≤ a.toNat ∧ a.toNat < 0xE000)
  | some (.store _ _ a) => decide (0xC000 ≤ a.toNat ∧ a.toNat < 0xE000)
  | _ => false

/-- The access that a kid waits on at a queue port is withdrawn, and with it its pair (R145 case 5). -/
def withdraw (s : State) (k : Nat) : State :=
  let s := dropPosts (dropPushes s k) k
  let c := kidOf s k
  let c := match c.slot0 with
    | some p =>
      if p.paired then { c with b := p.before, pc := p.pc, kpend := p.kpend, stepc := p.stepc, pq := p.q :: c.pq } else c
    | none => c
  setKid s k { c with wait := none, must := false, slot0 := none }

/-- No instruction is under way: the kid waits for nothing, and no pair has issued in part (R144). -/
def Kid.between (c : Kid) : Bool := c.wait.isNone && !c.must && c.slot0.isNone

/-- HALT (R138 case 8, R425). A kid that is halted or in KID reset stays as it is. -/
def kctlHaltOp (s : State) (k : Nat) : State :=
  let c := kidOf s k
  if 2 ≤ kstate s k then s
  else if kstate s k = 1 then haltKid s k 1
  else
    let s := if queueWait c then withdraw s k else s
    let c := kidOf s k
    if c.between && c.sbuf.isEmpty then haltKid s k 1 else setKid s k { c with haltReq := some (c.haltReq.getD 1) }

/-- A kid leaves halt; an open repeat goes on (R425). -/
def leaveHalt (s : State) (k : Nat) (stepping : Bool) : State :=
  let s := wr (wr s kc_KSTAT_STATE k 0) kc_KSTAT_WHY k 0
  setKid s k { kidOf s k with rep := decide (rd s kd_KRPT_COUNT k ≠ 0), stepping := stepping }

/-- RUN. -/
def kctlRunOp (s : State) (k : Nat) : State :=
  if kstate s k = 2 then leaveHalt s k false else wr s kc_KCFAULT_CTLREF k 1

/-- STEP. -/
def kctlStepOp (s : State) (k : Nat) : State :=
  if kstate s k = 2 then leaveHalt s k true else wr s kc_KCFAULT_CTLREF k 1

/-- A write of RSTHOLD. -/
def kctlHoldOp (s : State) (k : Nat) (v : Bool) : State :=
  let s := wrb s kc_KCTL_RSTHOLD k v
  if v && kstate s k != 3 then resetKidAlone s k else s

/-- After an instruction has completed, or a store has drained: a halt that waits takes effect. -/
def haltDue (s : State) (k : Nat) : State :=
  let c := kidOf s k
  match c.haltReq with
  | some why => if kstate s k < 2 ∧ c.between = true ∧ c.sbuf.isEmpty = true then haltKid s k why else s
  | none => s

/-- Whether a herd is held by a HERD reset or its domain by a DOMAIN reset (R420). -/
def herdShut (s : State) (h : Nat) : Bool := s.rst.herds.contains h

/-- A write that reaches the kid-control block of kid k. -/
def atKid (s : State) (k : Nat) (q : BusReq) (act : State → State) : Out :=
  atBlock s (herdDom (herdOfKid k)) (herdShut s (herdOfKid k)) q act

/-! ### Commands -/

/-- KCTL_RUN. -/
def execKctlRun (k : KidId) (s : State) : Out :=
  atKid s k (regReq kc_KCTL_RUN k 0 (1 + 16 * rd s kc_KCTL_RSTHOLD k) 1) (fun s => kctlRunOp s k)
/-- KCTL_HALT. -/
def execKctlHalt (k : KidId) (s : State) : Out :=
  atKid s k (regReq kc_KCTL_RUN k 0 (2 + 16 * rd s kc_KCTL_RSTHOLD k) 1) (fun s => kctlHaltOp s k)
/-- KCTL_RESET. -/
def execKctlReset (k : KidId) (s : State) : Out :=
  atKid s k (regReq kc_KCTL_RUN k 0 (4 + 16 * rd s kc_KCTL_RSTHOLD k) 1) (fun s => resetKidAlone s k)
/-- KCTL_STEP. -/
def execKctlStep (k : KidId) (s : State) : Out :=
  atKid s k (regReq kc_KCTL_RUN k 0 (8 + 16 * rd s kc_KCTL_RSTHOLD k) 1) (fun s => kctlStepOp s k)
/-- KCTL_RSTHOLD. -/
def execKctlRsthold (k : KidId) (v : Bool) (s : State) : Out :=
  atKid s k (regReq kc_KCTL_RUN k 0 (16 * b2n v) 1) (fun s => kctlHoldOp s k v)
/-- KID_RESET_ENDS: after 80 steps, 24 ns (R420); unless RSTHOLD holds the kid, or a reset of its herd or domain does. -/
def execKidResetEnds (k : KidId) (s : State) : Out :=
  due s (kstate s k == 3 && !rdb s kc_KCTL_RSTHOLD k && !herdHeld s (herdOfKid k) && decide (24 ≤ since s (.kid k)))
    (startKid s k)

end Sys2Proof.Machine
end

