-- ==== Sys2Proof/Machine/LinkCode.lean ====
section
/-!
DEFINITION. The lines of the Jalari links: RS(544,514), codewords, lanes and PAM4, training frames, flits (R339, R341, R343).
What R341 takes from IEEE 802.3 is PRESUMED (assumption 76).
-/

namespace Sys2Proof.Machine

/-! ### The field GF(2^10), with x^10 + x^3 + 1 (R341) -/

/-- Multiplication by α. -/
def gfX (a : Nat) : Nat := if bit a 9 then a * 2 % 1024 ^^^ 9 else a * 2
/-- A product. -/
def gfMul (a b : Nat) : Nat := (List.range 10).foldr (fun i r => (if bit b i then a else 0) ^^^ gfX r) 0
/-- α^n. -/
def gfExp (n : Nat) : Nat := (List.range n).foldl (fun r _ => gfX r) 1
/-- The inverse of a nonzero element: its power 1,022. -/
def gfInv (a : Nat) : Nat := (List.range 9).foldl (fun r _ => gfMul (gfMul r r) (gfMul a a)) 1

/-- Polynomials, the constant term first: value, sum, multiple, product. -/
def gfEval (p : List Nat) (x : Nat) : Nat := p.foldr (fun c r => gfMul r x ^^^ c) 0
def gfAdd : List Nat → List Nat → List Nat
  | [], q => q
  | p, [] => p
  | a :: p, b :: q => (a ^^^ b) :: gfAdd p q
def gfScale (c : Nat) (p : List Nat) : List Nat := p.map (gfMul c)
def gfPolyMul : List Nat → List Nat → List Nat
  | [], _ => []
  | a :: p, q => gfAdd (gfScale a q) (0 :: gfPolyMul p q)

/-! ### RS(544,514): symbol i of a codeword is the coefficient of x^(543 - i) -/

/-- The generator polynomial, whose roots are α^0 to α^29, without its leading term: 10 bits a coefficient, the constant term lowest. -/
def rsGen : Nat := 0x8fe282ece68a0011b235468f99448417ad07bd81eb9f7dcd69c5262305881fcb927880d0a0b

/-- The place of the leading coefficient of a remainder. -/
def rsTop : Nat := 2 ^ 145 * 2 ^ 145
/-- b in each of the 30 coefficients. -/
def rsLanes (b : Nat) : Nat := (rsTop * 1024 - 1) / 1023 * b

/-- Every coefficient times α. -/
def rsX (v : Nat) : Nat :=
  let top := v / 512 &&& rsLanes 1
  ((v &&& rsLanes 511) * 2) ^^^ (top * 9)

/-- One symbol enters the remainder. -/
def rsStep (st m : Nat) : Nat :=
  let f := st / rsTop
  (st % rsTop * 1024 + m) ^^^ (List.range 10).foldr (fun i r => (if bit f i then rsGen else 0) ^^^ rsX r) 0

/-- The remainder of a word, by symbols: zero for a codeword; of a message, its parity. -/
def rsRem (ms : List Nat) : Nat := ms.foldl rsStep 0

/-- The 30 coefficients of a remainder, the constant term first. -/
def rsCoefs (v : Nat) : List Nat := (List.range 30).map (fun i => v / 2 ^ (10 * i) % 1024)

/-- A message of 514 symbols with its parity. -/
def rsEncode (ms : List Nat) : List Nat := ms ++ (rsCoefs (rsRem (ms ++ List.replicate 30 0))).reverse

/-- Berlekamp and Massey: the locator, its latest predecessor, the length, the shift, the predecessor's discrepancy. -/
structure RsSearch where
  c : List Nat
  b : List Nat
  l : Nat
  m : Nat
  d : Nat
deriving DecidableEq, Repr

def rsAdvance (syn : List Nat) (r : RsSearch) (n : Nat) : RsSearch :=
  let d := (List.range (r.l + 1)).foldl (fun x i => x ^^^ gfMul (r.c.getD i 0) (syn.getD (n - i) 0)) 0
  let c := gfAdd r.c (List.replicate r.m 0 ++ gfScale (gfMul d (gfInv r.d)) r.b)
  if d = 0 then { r with m := r.m + 1 }
  else if 2 * r.l ≤ n then ⟨c, r.c, n + 1 - r.l, 1, d⟩
  else { r with c := c, m := r.m + 1 }

/-- The errors of a word with a nonzero remainder: symbol and value, none where it cannot be corrected. -/
def rsErrors (rem : Nat) : Option (List (Nat × Nat)) :=
  let syn := (List.range 30).map (fun j => gfEval (rsCoefs rem) (gfExp j))
  let r := (List.range 30).foldl (rsAdvance syn) ⟨[1], [1], 0, 1, 1⟩
  let omega := (gfPolyMul syn r.c).take 30
  let deriv := (r.c.drop 1).mapIdx (fun i a => if i % 2 = 0 then a else 0)
  let roots := (List.range 544).filter (fun p => gfEval r.c (gfExp ((1023 - p) % 1023)) == 0)
  if 15 < r.l ∨ roots.length ≠ r.l then none
  else some (roots.map (fun p =>
    let xi := gfExp ((1023 - p) % 1023)
    (543 - p, gfMul (gfExp p) (gfMul (gfEval omega xi) (gfInv (gfEval deriv xi))))))

/-- What the decoder makes of 544 symbols: the message, and whether it was corrected. -/
def rsDecode (cw : List Nat) : Option (List Nat × Bool) :=
  let rem := rsRem cw
  if rem = 0 then some (cw.take 514, false)
  else (rsErrors rem).map (fun es => ((es.foldl (fun w e => w.set e.1 (w.getD e.1 0 ^^^ e.2)) cw).take 514, true))

/-! ### Codewords (R341) -/

/-- What a codeword carries. -/
structure CwData where
  marker : Nat
  seq    : Nat
  flits  : List (List Byte)
deriving DecidableEq, Repr

/-- Bits as numbers of n bits each, lowest first. -/
def splitBits (n k v : Nat) : List Nat := (List.range k).map (fun i => v / 2 ^ (n * i) % 2 ^ n)
def joinBits (n : Nat) (l : List Nat) : Nat := l.foldr (fun a r => a + 2 ^ n * r) 0

/-- The message symbols of a codeword. -/
def CwData.symbols (c : CwData) : List Nat :=
  splitBits 10 514 (c.marker + 2 ^ 10 * c.seq + 2 ^ 20 * ofBytesLE c.flits.flatten)

/-- What the message symbols carry. -/
def cwData (ms : List Nat) : CwData :=
  let v := joinBits 10 ms
  ⟨v % 2 ^ 10, bits v 17 10, (List.range 10).map (fun f => bytesLE 64 (v / 2 ^ (20 + 512 * f)))⟩

/-- Gray mapping: the level of two bits, and the bits of a level; the first bit is the more significant. -/
def pam4 (b : Nat) : BitVec 2 := [0#2, 3#2, 1#2, 2#2].getD b 0#2
def unpam4 (v : BitVec 2) : Nat := [0, 2, 3, 1].getD v.toNat 0

/-- RS symbol i goes to lane i mod 4, bit 0 first. -/
def toLanes (cw : List Nat) : List (List (BitVec 2)) :=
  (List.range 4).map (fun k => (List.range 136).flatMap (fun j => (splitBits 2 5 (cw.getD (4 * j + k) 0)).map pam4))

/-- The symbols that four lanes carry. -/
def fromLanes (ls : List (List (BitVec 2))) : List Nat :=
  (List.range 544).map (fun i => joinBits 2 (((ls.getD (i % 4) []).drop (i / 4 * 5)).take 5 |>.map unpam4))

/-- A lane whose polarity is inverted (R338). -/
def invertLane (l : List (BitVec 2)) : List (BitVec 2) := l.map (fun v => 3 - v)

/-- A codeword as the lanes carry it, and as they are decoded, with the lanes corrected that LANEINV names. -/
def CwData.lanes (c : CwData) : List (List (BitVec 2)) := toLanes (rsEncode c.symbols)
def decodeLanes (inv : Nat) (ls : List (List (BitVec 2))) : Option (CwData × Bool) :=
  (rsDecode (fromLanes (ls.mapIdx (fun k l => if bit inv k then invertLane l else l)))).map (fun r => (cwData r.1, r.2))

/-! ### Flits (R343) -/

/-- CRC-32 of IEEE 802.3: one bit, one byte, a message. -/
def crc32Bit (c : Nat) : Nat := if bit c 0 then c / 2 ^^^ 0xEDB8_8320 else c / 2
def crc32Byte (c : Nat) (b : Byte) : Nat :=
  crc32Bit (crc32Bit (crc32Bit (crc32Bit (crc32Bit (crc32Bit (crc32Bit (crc32Bit (c ^^^ b.toNat))))))))
def crc32 (bs : List Byte) : Nat := bs.foldl crc32Byte 0xFFFF_FFFF ^^^ 0xFFFF_FFFF

/-- The 64 bytes of a flit. -/
def flitBytes (ty seq ack : Nat) (nak : Bool) (crReq crRsp : Nat) (body : List Byte) : List Byte :=
  let h := bytesLE 2 (ty + 2 ^ 4 * seq) ++ bytesLE 2 (ack + 2 ^ 12 * b2n nak) ++
    [BitVec.ofNat 8 crReq, BitVec.ofNat 8 crRsp, BitVec.ofNat 8 body.length, 0] ++ (body ++ List.replicate 52 0).take 52
  h ++ bytesLE 4 (crc32 h)

/-- A flit's CRC is good. -/
def flitGood (bs : List Byte) : Bool := bs.length == 64 && crc32 (bs.take 60) == ofBytesLE (bs.drop 60)

/-! ### Training frames (R339) -/

/-- The first 64 bits of a training frame. -/
def TFrame.word (f : TFrame) : Nat :=
  0xA7E3 + 2 ^ 16 * f.lane + 2 ^ 18 * f.phase + 2 ^ 20 * f.reqPre + 2 ^ 22 * f.reqPost + 2 ^ 24 * f.stPre + 2 ^ 26 * f.stPost +
    2 ^ 28 * b2n f.reseq + 2 ^ 32 * f.node.toNat + 2 ^ 48 * f.linkNum.toNat

/-- The next bit of PRBS13, from the 13 bits before it, the latest lowest. -/
def prbsBit (s : Nat) : Nat := (b2n (bit s 0) + b2n (bit s 1) + b2n (bit s 11) + b2n (bit s 12)) % 2
/-- The next n bits, the first lowest, and the generator after them. -/
def prbs13 (s : Nat) : Nat → Nat × Nat
  | 0 => (0, s)
  | n + 1 =>
    let (v, t) := prbs13 s n
    (v + 2 ^ n * prbsBit t, (t * 2 + prbsBit t) % 2 ^ 13)

/-- The 1,360 bits of a training frame, bit 0 first. -/
def TFrame.bits (f : TFrame) (prbs : Nat) : BitVec 1360 :=
  BitVec.ofNat 1360 (f.word + 2 ^ 64 * crc16 (bytesLE 8 f.word) + 2 ^ 80 * (prbs13 prbs 1280).1)

/-- A frame as received, and whether its lane is inverted; none where TMARK or TCRC fails. -/
def trainFrame (v : BitVec 1360) : Option (TFrame × Bool) :=
  let w := v.toNat % 2 ^ 80
  let inv := w % 2 ^ 16 != 0xA7E3
  let w := if inv then 2 ^ 80 - 1 - w else w
  if w % 2 ^ 16 = 0xA7E3 ∧ crc16 (bytesLE 8 w) = bits w 79 64 then
    some (⟨bits w 17 16, bits w 19 18, bits w 21 20, bits w 23 22, bits w 25 24, bits w 27 26, bit w 28,
      BitVec.ofNat 16 (bits w 47 32), BitVec.ofNat 4 (bits w 51 48)⟩, inv)
  else none

end Sys2Proof.Machine
end

