-- ==== Sys2Proof/Machine/Timebase.lean ====
section
/-!
DEFINITION. The timebase: counter, alarms, the correction by an exchange, faults (R326 to R336).
-/

namespace Sys2Proof.Machine

/-- Any axis port is in RUN (R332, R335). -/
def anyPortRun (s : State) : Bool := (List.range 64).any (fun p => portState s p == 4)

/-- A timebase fault: its bit, and source 7 in the fault herd (R335). -/
def tbFault (s : State) (F : Fld) : State := raiseFault (wr s F 0 1) 7

/-- One 1 GHz period passes, and the counter adds n. -/
def Tb.period (b : Tb) (n : Time) : Tb :=
  { b with count := b.count + n, outs := b.outs.map (fun x => (x.1, x.2 + 1)), age := b.age.map (· + 1), slewIn := b.slewIn - 1 }

/-- One tick of the counter: 8 LSB for each 1 GHz period (R327). -/
def tick (s : State) : State := if s.tb.runs then { s with tb := s.tb.period 8 } else s

/-! ### Alarms (R330) -/

/-- Alarm i is enabled and its time is reached. -/
def alarmDue (s : State) (i : Nat) : Bool := rdb s tb_ALM_EN 0 i && decide (rd s tb_ALMT 0 i ≤ now s)

/-- Alarm i fires: FIRED, its source where it is mapped, and the advance of ALMT or the end of EN. -/
def alarmFire (s : State) (i : Nat) : State :=
  let s := wr s tb_ALM_FIRED 0 1 i
  let s := raiseMapped s (rdb s tb_ALM_MAPPED 0 i) (rd s tb_ALM_HERD 0 i) (16 + rd s tb_ALM_SRC 0 i)
  let per := rd s tb_ALMPER 0 i
  if per = 0 then wr s tb_ALM_EN 0 0 i
  else
    let t := rd s tb_ALMT 0 i
    let k := (now s - t) / per + 1
    let s := wr s tb_ALMT 0 (t + k * per) i
    wr s tb_ALM_MISSED 0 (min 255 (rd s tb_ALM_MISSED 0 i + (k - 1))) i

/-- Compare alarm i now. -/
def alarmCompare (s : State) (i : Nat) : State := if alarmDue s i then alarmFire s i else s

/-- Every alarm is compared again (R332). -/
def alarmsCompare (s : State) : State := (List.range 8).foldl alarmCompare s

/-- A write of ALMT re-arms the alarm. -/
def almtOp (s : State) (i v : Nat) : State := alarmCompare (wr s tb_ALMT 0 v i) i

/-- EN is set; a change from 0 re-arms the alarm. -/
def almEnOp (s : State) (i : Nat) : State := if rdb s tb_ALM_EN 0 i then s else alarmCompare (wr s tb_ALM_EN 0 1 i) i

/-! ### Setting and correcting the counter (R331 to R335) -/

def setCount (s : State) (t : Time) : State := { s with tb := { s.tb with count := t } }

/-- TBCTL.SET (R335). -/
def tbSet (s : State) : State :=
  if anyPortRun s then tbFault s tb_TBFAULT_SETREF
  else alarmsCompare (setCount s (BitVec.ofNat 64 (rd s tb_TBSETV)))

/-- The counter is corrected by an offset (R332); one beyond 2^20 LSB while a port is in RUN is a fault, and SYNC is clear (R335). -/
def correct (s : State) (offset : Int) : State :=
  let far := decide ((rd s tb_LOCKTHR : Int) < iabs offset)
  if anyPortRun s then
    let s := { s with tb := { s.tb with owed := if far then offset else 0 } }
    if 2 ^ 20 < iabs offset then wr (tbFault s tb_TBFAULT_OFFLIM) tb_TBSTAT_SYNC 0 0 else s
  else if far then
    alarmsCompare (setCount { s with tb := { s.tb with owed := 0 } } (s.tb.count - BitVec.ofInt 64 offset))
  else s

/-- SYNC after 8 exchanges within LOCKTHR, cleared after 4 above it (R333). -/
def syncRuns (s : State) (offset : Int) : State :=
  if iabs offset ≤ rd s tb_LOCKTHR then
    let g := satInc 8 s.tb.good
    let s := { s with tb := { s.tb with good := g, badx := 0 } }
    if g = 8 then wr s tb_TBSTAT_SYNC 0 1 else s
  else
    let b := satInc 4 s.tb.badx
    let s := { s with tb := { s.tb with good := 0, badx := b } }
    if b = 4 then wr s tb_TBSTAT_SYNC 0 0 else s

/-- A signed difference of two times. -/
def timeDiff (a b : Time) : Int := (a - b).toInt

/-- An exchange completes with its four times and the upstream hop count (R331, R334). -/
def exchangeDone (s : State) (link : Nat) (t1 t2 t3 t4 : Time) (hops : Nat) : State :=
  let s := { s with tb := { s.tb with outs := s.tb.outs.filter (fun x => x.1 != some t1) } }
  if 15 ≤ hops then tbFault s tb_TBFAULT_LOOP
  else
    let a := timeDiff t2 t1
    let b := timeDiff t4 t3
    let offset := Int.fdiv (b - a + sext 16 (rd s tb_ASYM 0 link)) 2
    let s := incr s tb_EXCH
    let s := wr (wr s tb_OFFSET 0 (twos 32 offset)) tb_DELAY 0 (twos 32 (Int.fdiv (a + b) 2))
    let s := wr (wr s tb_TBSTAT_HOPS 0 (hops + 1)) tb_TBSTAT_HOLD 0 0
    correct (syncRuns s offset) offset

/-- TXINT in 1 GHz periods; 0 acts as 1 µs (R336). -/
def exchangeEvery (s : State) : Nat := max (rd s tb_TXINT) 1 * 1000

/-- The upstream link, none for a master (R331). -/
def upstream (s : State) : Option Nat := if rd s tb_TBSRC < 12 then some (rd s tb_TBSRC) else none

/-! ### Commands -/

/-- A write that reaches the timebase block. -/
def atTimebase (s : State) (act : State → State) : Out := served s act

/-- TBCTL_CAP. -/
def execTbctlCap (s : State) : Out := atTimebase s (fun s => wr s tb_TBCAPT 0 (now s))
/-- TBCTL_SET. -/
def execTbctlSet (s : State) : Out := atTimebase s tbSet

/-- The oldest exchange has had no response: holdover, and SYNC is cleared (R334, R335). -/
def norespOp (s : State) : State :=
  let s := tbFault { s with tb := { s.tb with outs := s.tb.outs.dropLast, good := 0 } } tb_TBFAULT_NORESP
  wr (wr s tb_TBSTAT_HOLD 0 1) tb_TBSTAT_SYNC 0 0

/-- NORESP: an exchange is 4 × TXINT old (R334). -/
def execNoresp (s : State) : Out := due s (s.tb.outs.any (fun x => decide (4 * exchangeEvery s ≤ x.2))) (norespOp s)

/-- A 1 GHz period adds 9 or 7 in place of 8, toward the time of the master, and the next may do so 1,024 ns later (R332). -/
def slewOp (s : State) (up : Bool) : State :=
  let b := s.tb.period (if up then 9 else 7)
  { s with tb := { b with owed := b.owed + (if up then 1 else -1), slewIn := 1023 } }

/-- SLEW: while a port is in RUN, at most once in 1,024 ns (R332). -/
def execSlew (up : Bool) (s : State) : Out :=
  due s (s.tb.runs && anyPortRun s && s.tb.slewIn == 0 && (if up then decide (s.tb.owed < 0) else decide (0 < s.tb.owed)))
    (slewOp s up)

/-- UNLOCK (R335): LOCK is cleared. TBSTAT.HOLD, which R334 defines for a missing response, is left as it is (assumption 42). -/
def execUnlock (s : State) : Out :=
  due s (rdb s tb_TBSTAT_LOCK) (wr (tbFault s tb_TBFAULT_UNLOCK) tb_TBSTAT_LOCK 0 0)

/-- ALARM. -/
def execAlarm (i : Fin 8) (s : State) : Out := due s (alarmDue s i) (alarmFire s i)
/-- ALMT. -/
def execAlmt (i : Fin 8) (v : BitVec 64) (s : State) : Out := atTimebase s (fun s => almtOp s i v.toNat)
/-- ALM_EN. -/
def execAlmEn (i : Fin 8) (s : State) : Out := atTimebase s (fun s => almEnOp s i)

end Sys2Proof.Machine
end

