-- ==== Sys2Proof/Machine/Link.lean ====
section
/-!
DEFINITION. The Jalari links: training, codewords, flits, retry, credits, streams, routing, requests and their log
(R337 to R361, R467).
-/

namespace Sys2Proof.Machine

/-! ### Headers (R347, R348) -/

def Msg.tt (m : Msg) : Nat := bits m.h 3 0
def Msg.len (m : Msg) : Nat := bits m.h 12 4
def Msg.sup (m : Msg) : Bool := bit m.h 13
def Msg.hops (m : Msg) : Nat := bits m.h 19 14
def Msg.tag (m : Msg) : Nat := bits m.h 31 20
def Msg.src (m : Msg) : Nat := bits m.h 47 32
def Msg.dst (m : Msg) : Nat := bits m.h 63 48
def Msg.addr (m : Msg) : Nat := bits m.h 103 64
def Msg.opx (m : Msg) : Nat := bits m.h 107 104
def Msg.aux (m : Msg) : Nat := bits m.h 127 112

/-- A header. -/
def header (tt len : Nat) (sup : Bool) (hops tag src dst addr opx aux : Nat) : Nat :=
  tt + 2 ^ 4 * len + 2 ^ 13 * b2n sup + 2 ^ 14 * hops + 2 ^ 20 * tag + 2 ^ 32 * src + 2 ^ 48 * dst + 2 ^ 64 * addr +
    2 ^ 104 * opx + 2 ^ 112 * aux

/-- The bytes of a message. -/
def Msg.bytes (m : Msg) : List Byte := bytesLE 16 m.h ++ m.d

/-- A type of the REQ stream; of the RSP stream; a posted type. -/
def ttReq (tt : Nat) : Bool := decide (1 ≤ tt ∧ tt ≤ 5)
def ttRsp (tt : Nat) : Bool := decide (6 ≤ tt ∧ tt ≤ 8)
def ttPosted (tt : Nat) : Bool := tt == 5 || tt == 6

/-- The data bytes that follow a header. -/
def dataLen (m : Msg) : Nat :=
  if m.tt = 1 ∨ m.tt = 8 then 0 else if m.tt = 3 then (if m.opx = 1 then 2 * m.len else m.len) else m.len

/-- LEN lies in the range of its type. -/
def lenOk (m : Msg) : Bool :=
  if m.tt = 1 ∨ m.tt = 2 ∨ m.tt = 5 then decide (1 ≤ m.len ∧ m.len ≤ 256)
  else if m.tt = 3 then m.len == 4 || m.len == 8
  else if m.tt = 4 then m.len == 1
  else if m.tt = 6 then m.len == 4
  else if m.tt = 7 then (if m.opx = 0 then decide (1 ≤ m.len ∧ m.len ≤ 256) else m.len == 0)
  else if m.tt = 8 then m.len == 0
  else if m.tt = 9 then m.len == 8
  else m.len == 24

/-- The bits that must be 0 are 0 (R347). -/
def zerosOk (m : Msg) : Bool :=
  bits m.h 111 108 == 0 && (m.aux == 0 || (m.tt == 0xA && decide (m.aux < 16))) && (!ttPosted m.tt || m.tag == 0)


/-! ### Link state and faults (R353, R354) -/

/-- LSTATE: 0 DOWN, 1 TRAIN, 2 UP, 3 FAULT. -/
def linkState (s : State) (l : Nat) : Nat := rd s lk_LSTATE l
def linkOn (s : State) (l : Nat) : Bool := pstate s (linkDom l) == 0
def linkFenced (s : State) (l : Nat) : Bool := bit (rd s ts_FENCEL) l
def rxFawn (l : Nat) : Nat := 144 + 2 * l
def txFawn (l : Nat) : Nat := 145 + 2 * l
def linkEvent (s : State) (l : Nat) : State := wakeFawn (wakeFawn s (rxFawn l)) (txFawn l)
def linkRq (l : Nat) : Rq := ⟨7, l⟩

/-- LFAULT as it reads. -/
def lfault (s : State) (l : Nat) : Nat :=
  [lk_LFAULT_RSVW, lk_LFAULT_IMGW, lk_LFAULT_TRAINTO, lk_LFAULT_PEERMIS, lk_LFAULT_LANESWAP, lk_LFAULT_MKLOST, lk_LFAULT_RETRY,
    lk_LFAULT_PROTO, lk_LFAULT_RESEQ, lk_LFAULT_STALL, lk_LFAULT_UECC].foldl (fun v F => v + rd s F l * 2 ^ F.lo) 0

/-- LFAULT has changed: a read of 0x1040 that a fawn of the link waits on returns it (R356). -/
def lfaultRead (s : State) (l : Nat) : State :=
  fawnLoaded (fawnLoaded s (rxFawn l) 0x1040 (lfault s l)) (txFawn l) 0x1040 (lfault s l)

/-- An LFAULT bit is set: one that becomes set raises source 6 in the fault herd. -/
def linkFault (s : State) (F : Fld) (l : Nat) : State :=
  if rdb s F l then s else linkEvent (lfaultRead (raiseFault (wr s F l 1) 6) l) l

/-- The link enters TRAIN (R339, R340, R354, R355). -/
def enterTrain (s : State) (l : Nat) : State :=
  let s := if linkState s l = 2 ∨ linkState s l = 3 then incr s lk_RETRAINS l else s
  let s := wr (wr (wr (wr s lk_LSTATE l 1) lk_TPHASE l 0) lk_LANELOCK l 0) lk_LANEINV l 0
  let x := linkOf s l
  linkEvent (setLink s l { x with reseq := !x.has, peerReseq := false, holds := [0, 0, 0, 0], aligned := 0, sentReady := false,
                                  ready := [0, 0, 0, 0], stat := [(0, 0), (0, 0), (0, 0), (0, 0)], prbs := 0x1FFF,
                                  outTime := [], lineIn := 0, age := 0 }) l

/-- The link enters DOWN or FAULT. -/
def linkLeave (s : State) (l st : Nat) : State :=
  let s := wr (wr s lk_LSTATE l st) lk_TPHASE l 0
  linkEvent (setLink s l { linkOf s l with outTime := [], age := 0 }) l

/-- The link has no sequence state any more (R355). -/
def loseSeq (s : State) (l : Nat) : State := setLink s l { linkOf s l with has := false }

/-- A fault that takes the link to FAULT. -/
def linkFail (s : State) (F : Fld) (l : Nat) : State := linkLeave (linkFault s F l) l 3

/-- LCTL.START (R353, R437). -/
def linkStart (s : State) (l : Nat) : State :=
  if linkFenced s l then s
  else if linkState s l = 0 then enterTrain (unfenceFawn (unfenceFawn s (rxFawn l)) (txFawn l)) l
  else if linkState s l = 3 then enterTrain s l
  else s

/-- LCTL.STOP. -/
def linkStop (s : State) (l : Nat) : State := linkLeave s l 0

/-- LCTL.RESET: a LINK reset (R420). -/
def linkReset (s : State) (l : Nat) : State :=
  enterTrain (if linkState s l = 0 then unfenceFawn (unfenceFawn s (rxFawn l)) (txFawn l) else s) l

/-- LCTL.FAWNRUN. -/
def linkFawnrun (s : State) (l : Nat) : State :=
  rerunFawn (rerunFawn s (rxFawn l) lk_LFAWN_RXCAUSE lk_LFAWN_RXADDR l) (txFawn l) lk_LFAWN_TXCAUSE lk_LFAWN_TXADDR l

/-- LCTL.CNTCLR. -/
def linkCntclr (s : State) (l : Nat) : State :=
  [lk_FLITSTX, lk_FLITSRX, lk_RETRIES, lk_FECCORR, lk_FECUNC, lk_CRCERR, lk_RETRAINS].foldl (fun s F => wr s F l 0) s

/-! ### Sending (R343 to R345) -/

/-- Cut the bytes of a message into flit bodies of at most 52 bytes; the first starts the message. -/
def chunks : Nat → Bool → List Byte → List (Bool × List Byte)
  | 0, _, _ => []
  | fuel + 1, first, bs => if bs.isEmpty then [] else (first, bs.take 52) :: chunks fuel false (bs.drop 52)

/-- The first flit of a request of this node has left (R355, R359). -/
def noteLeft (s : State) (start : Bool) (body : List Byte) : State :=
  let m : Msg := ⟨ofBytesLE (body.take 16), []⟩
  if start && decide (1 ≤ m.tt ∧ m.tt ≤ 4) && m.src == rd s rt_NODEID then
    match alGet s.reqs m.tag with
    | some r => { s with reqs := alSet s.reqs m.tag { r with left := true } }
    | none => s
  else s

/-- A flit is first sent: the next FSEQ, a place in the replay buffer, one credit. -/
def firstSend (s : State) (l ty : Nat) (b : Bool × List Byte) : State :=
  let x := linkOf s l
  let x := { x with txSeq := (x.txSeq + 1) % 4096, replay := x.replay ++ [(⟨x.txSeq, ty, b.2⟩ : Flit)] }
  let x := if ty = 1 then { x with outReq := x.outReq.drop 1, credReq := x.credReq - 1 }
    else { x with outRsp := x.outRsp.drop 1, credRsp := x.credRsp - 1 }
  noteLeft (incr (setLink s l x) lk_FLITSTX l) b.1 b.2

/-- The stream whose flit can be sent next, with sequence state, credit and room in the replay buffer; RSP goes first. -/
def nextStream (x : Link) : Option (Nat × (Bool × List Byte)) :=
  if x.has = false ∨ x.resync = true ∨ 512 ≤ x.replay.length then none
  else match x.outRsp, x.outReq with
    | b :: _, l => if 0 < x.credRsp then some (2, b) else if 0 < x.credReq then l.head?.map (fun c => (1, c)) else none
    | [], b :: _ => if 0 < x.credReq then some (1, b) else none
    | [], [] => none

/-- The bytes of a flit that leaves now, with the ACKSEQ, NAK and credits of now (R343, R344); a NAK is sent once. -/
def placeFlit (s : State) (l ty seq : Nat) (body : List Byte) : List Byte × State :=
  let x := linkOf s l
  let s := setLink s l { x with nak := false, nakAge := if x.nak then some 0 else x.nakAge, again := x.again && !x.nak }
  (flitBytes ty seq ((x.rxSeq + 4095) % 4096) x.nak x.giveReq x.giveRsp body, s)

/-- The next flit: of a resend, else a new one, else IDLE. -/
def nextFlit (s : State) (l : Nat) : List Byte × State :=
  let x := linkOf s l
  match x.resendAt.bind (fun i => x.replay[i]?) with
  | some f =>
    let i := x.resendAt.getD 0 + 1
    placeFlit (setLink s l { x with resendAt := if i < x.replay.length then some i else none }) l f.ty f.seq f.body
  | none => match nextStream x with
    | some (ty, b) => placeFlit (firstSend s l ty b) l ty x.txSeq b.2
    | none => placeFlit s l 0 0 []

/-- A TIME message as it is placed at time t: t1 of a TIMEREQ and t3 of a TIMERSP are the codeword's time (R346, R348). -/
def timeBody (m : Msg) (t : Nat) : List Byte :=
  bytesLE 16 m.h ++ (if m.tt = 9 then bytesLE 8 t else m.d.take 16 ++ bytesLE 8 t)

/-- The time at which the TIMEREQ of the latest exchange has left. -/
def noteT1 (s : State) (m : Msg) (t : Nat) : State :=
  if m.tt = 9 then { s with tb := { s.tb with outs := match s.tb.outs with
    | (none, a) :: r => (some (BitVec.ofNat 64 t), a) :: r
    | r => r } }
  else s

/-- Flit 0 of a codeword: a TIME flit where one waits. -/
def firstFlit (s : State) (l : Nat) : List Byte × State :=
  match (linkOf s l).outTime with
  | m :: ms =>
    let (t, s) := stamp s
    placeFlit (noteT1 (setLink s l { linkOf s l with outTime := ms }) m t) l 3 0 (timeBody m t)
  | [] => nextFlit s l

/-- n flits, in order. -/
def moreFlits (s : State) (l : Nat) : Nat → List (List Byte) × State
  | 0 => ([], s)
  | n + 1 =>
    let (f, s) := nextFlit s l
    let (fs, s) := moreFlits s l n
    (f :: fs, s)

/-- A codeword leaves (R341). -/
def sendCodeword (s : State) (l : Nat) : State :=
  let (f, s) := firstFlit s l
  let (fs, s) := moreFlits s l 9
  let x := linkOf s l
  setLink s l { x with lastCw := f :: fs, txCw := (x.txCw + 1) % 256 }

/-- The codeword that left last, as the four lanes carry it. -/
def codewordOut (x : Link) : List (List (BitVec 2)) := CwData.lanes ⟨0x2E5, (x.txCw + 255) % 256, x.lastCw⟩

/-- A message is queued on a link. -/
def queueMsg (s : State) (l : Nat) (m : Msg) : State :=
  let x := linkOf s l
  let cs := chunks 8 true m.bytes
  setLink s l (if ttReq m.tt then { x with outReq := x.outReq ++ cs } else { x with outRsp := x.outRsp ++ cs })

/-! ### Routing (R351, R352, R360) -/

/-- Entry r matches a node. -/
def regionHit (s : State) (node r : Nat) : Bool :=
  let n := min (rd s rt_RPLEN 0 r) 16
  rdb s rt_RVALID 0 r && node / 2 ^ (16 - n) == rd s rt_RNODE 0 r / 2 ^ (16 - n)

/-- DEFLINK as it acts. -/
def defLink (s : State) : Option Nat := if rd s rt_DEFLINK < 12 then some (rd s rt_DEFLINK) else none

/-- The link to a node by the region table and DEFLINK. -/
def tableLink (s : State) (node : Nat) : Option Nat :=
  match (List.range 4096).find? (regionHit s node) with
  | some r => if rd s rt_RLINK 0 r < 12 then some (rd s rt_RLINK 0 r) else none
  | none => defLink s

/-- The lookup, which answers UNROUTE where it meets an uncorrectable word. -/
def routeLink (s : State) (node : Nat) : Option Nat × State :=
  let (bad, s) := stateHit s 0x9000_B100 ⟨7, 0⟩
  let s := if bad then (List.range 12).foldl (fun s l => linkFault s lk_LFAULT_UECC l) s else s
  match (if bad then none else tableLink s node) with
  | some l => (some l, s)
  | none => (none, incr s rt_NOROUTE)

/-- A posted message of this node goes out, or is discarded. -/
def routePosted (s : State) (m : Msg) : State :=
  match routeLink s m.dst with
  | (some l, s) => queueMsg s l m
  | (none, s) => s

/-! ### Requests of this node (R349, R350, R359) -/

/-- REQCLASS and REQID of the route log. -/
def reqClass : Agent → Nat × Nat
  | .kid k => (0, k)
  | .host => (1, 0)
  | .fawn f => (2, f)
  | _ => (3, 0)

/-- Write a route-log entry: a completion other than OK for a local requester. -/
def routeLog (s : State) (ag : Agent) (h status link : Nat) : State :=
  let m : Msg := ⟨h, []⟩
  let (t, s) := stamp s
  let e := status + 2 ^ 4 * m.tt + 2 ^ 8 * link + 2 ^ 12 * (reqClass ag).1 + 2 ^ 16 * (reqClass ag).2 +
    2 ^ 32 * (m.addr + 2 ^ 40 * m.dst) + 2 ^ 88 * bits t 47 8
  if s.rlog.length < 32 then { s with rlog := s.rlog ++ [e] }
  else wr (incrSat s rt_RLOST) rt_RFAULT_LOGOVF 0 1

/-- What comes of sending a request. -/
inductive Sent where
  | sent (tag : Nat)
  | noTag
  | failed (status : Nat)
deriving DecidableEq, Repr

/-- The first tag that is free. -/
def freeTag (s : State) : Option Nat := (List.range 4096).find? (fun t => (alGet s.reqs t).isNone)

/-- A request that takes its tag: its TIMEOUT comes CMPTO µs later (R350, R358). -/
def newReq (s : State) (ag : Agent) (h link : Nat) (ret : Ret) : Req :=
  ⟨ag, h, link, ret, false, false, false, false, max (rd s rt_CMPTO) 1 * 1000⟩

/-- Send a non-posted request to node `node`: it takes a tag and a link, or ends at once in UNROUTE. -/
def sendRequest (s : State) (ag : Agent) (ret : Ret) (tt len : Nat) (sup : Bool) (node addr opx : Nat) (d : List Byte) : Sent × State :=
  match freeTag s with
  | none => (.noTag, s)
  | some tag =>
    let h := header tt len sup 63 tag (rd s rt_NODEID) node addr opx 0
    match routeLink s node with
    | (none, s) => (.failed 1, routeLog s ag h 1 0xF)
    | (some l, s) =>
      let s := { s with reqs := alSet s.reqs tag (newReq s ag h l ret) }
      (.sent tag, queueMsg s l ⟨h, d⟩)

/-- A local completion, made at this node for a request of its own. -/
def localCmp (s : State) (tag status : Nat) (r : Req) : Msg :=
  let m : Msg := ⟨r.h, []⟩
  ⟨header (if m.tt = 1 ∨ m.tt = 3 then 7 else 8) 0 m.sup 0 tag (rd s rt_NODEID) (rd s rt_NODEID) m.addr status 0, []⟩

/-! ### Sequence state (R355) -/

/-- The consumer endpoints whose route arrives over a link: those whose producer lies beyond it. -/
def linkConsumers (s : State) (l : Nat) : List Nat :=
  (List.range 32768).filter (fun e => role s e == 2 && !peerHere s e && tableLink s (rd s qx_PEERNODE e) == some l)

/-- A local queue is broken. -/
def breakQueue (s : State) (e : Nat) : State := notice (setCons s e { consOf s e with broken := true }) qx_NOTE_BRKN e

/-- The requests sent over a link and not ended. -/
def linkReqs (s : State) (l : Nat) : List (Nat × Req) := s.reqs.filter (fun r => r.2.link == l && r.2.left && !r.2.dead)

/-- The end discards its sequence state when training completes. -/
def discardSeq (s : State) (l : Nat) : State :=
  let out := linkReqs s l
  let s := { s with localRsp := s.localRsp ++ out.map (fun r => localCmp s r.1 8 r.2) }
  let s := (linkConsumers s l).foldl breakQueue s
  let x := linkOf s l
  let later (o : List (Bool × List Byte)) : List (Bool × List Byte) := o.dropWhile (fun b => !b.1)
  let s := setLink s l { x with txSeq := 0, rxSeq := 0, replay := [], credReq := 128, credRsp := 128, seenReq := 0, seenRsp := 0,
                                giveReq := 0, giveRsp := 0, bufReq := [], bufRsp := [], nak := false, nakAge := none, again := false,
                                resendAt := none, lastNak := none, resends := 0,
                                reqBytes := [], rspBytes := [], reqMsgs := [], rspMsgs := [], outReq := later x.outReq,
                                outRsp := later x.outRsp }
  linkFault s lk_LFAULT_RESEQ l

/-- Training completes: the link is UP (R340, R355). With flits unacknowledged, what is sent waits for the partner's ACKSEQ. -/
def linkUpNow (s : State) (l : Nat) : State :=
  let x := linkOf s l
  let s := if x.peerReseq || !x.has then discardSeq s l else s
  let s := wr (wr s lk_LSTATE l 2) lk_TPHASE l 0
  let x := linkOf s l
  linkEvent (setLink s l { x with has := true, cwseq := 0, txCw := 0, marks := [], resendAt := none, lastNak := none,
                                  resync := !x.replay.isEmpty, lineIn := 0, age := 0 }) l

/-! ### Training (R339, R340, R467) -/

/-- A tap after a request, and the status of the request: 0 hold, 1 increase, 2 decrease, 3 preset; not updated, updated, at limit. -/
def tapStep (top preset t req : Nat) : Nat × Nat :=
  if req = 1 then (if t < top then (t + 1, 1) else (t, 2))
  else if req = 2 then (if 0 < t then (t - 1, 1) else (t, 2))
  else if req = 3 then (preset, 1) else (t, 0)

/-- The partner's tap requests act on the transmitter of the lane. -/
def tapRequests (x : Link) (f : TFrame) : Link :=
  let t := x.taps.getD f.lane (2, 5)
  let (a, sa) := tapStep 10 2 t.1 f.reqPre
  let (b, sb) := tapStep 15 5 t.2 f.reqPost
  { x with taps := x.taps.set f.lane (a, b), stat := x.stat.set f.lane (sa, sb) }

/-- EQ ends: all four receivers are locked, and 8 frames in a row have gone out with hold on both taps. -/
def leaveEq (s : State) (l : Nat) : State :=
  if rd s lk_TPHASE l = 0 ∧ rd s lk_LANELOCK l = 0xF ∧ (linkOf s l).holds.all (fun n => decide (8 ≤ n)) then wr s lk_TPHASE l 1 else s

/-- What this side asks of the partner's tap in a frame of EQ is its own equaliser's business (assumption 1). -/
def tapAsk (s : State) (l : Nat) : Nat × State :=
  if rd s lk_TPHASE l = 0 then
    let (n, s) := freshNat s
    (n % 4, s)
  else (0, s)

/-- The frame that leaves on a lane (R339). -/
def sendFrame (s : State) (l lane : Nat) : State :=
  let (a, s) := tapAsk s l
  let (b, s) := tapAsk s l
  let x := linkOf s l
  let st := x.stat.getD lane (0, 0)
  let f : TFrame := { lane := lane, phase := rd s lk_TPHASE l, reqPre := a, reqPost := b, stPre := st.1, stPost := st.2,
                      reseq := x.reseq, node := BitVec.ofNat 16 (rd s rt_NODEID), linkNum := BitVec.ofNat 4 l }
  let n := if a = 0 ∧ b = 0 then x.holds.getD lane 0 + 1 else 0
  setLink s l { x with frames := x.frames ++ [f], holds := x.holds.set lane n }

/-- The frames of the four lanes leave; a side that has sent READY and received it 8 times on every lane is UP instead (R340). -/
def sendTraining (s : State) (l : Nat) : State :=
  let x := linkOf s l
  if rd s lk_TPHASE l = 2 ∧ x.sentReady = true ∧ x.ready.all (fun n => decide (8 ≤ n)) then linkUpNow s l
  else
    let s := setLink s l { x with frames := [], sentReady := x.sentReady || rd s lk_TPHASE l == 2 }
    let s := (List.range 4).foldl (fun s k => sendFrame s l k) s
    let x := linkOf s l
    leaveEq (setLink s l { x with prbs := (prbs13 x.prbs 1280).2 }) l

/-- The frame that leaves on a lane, as it starts. -/
def frameOut (x : Link) (lane : Nat) : Option (BitVec 1360) := x.frames[lane]?.map (fun f => f.bits x.prbs)

/-- A frame in ALIGN. -/
def trainAlign (s : State) (l lane : Nat) (f : TFrame) : State :=
  if f.lane ≠ lane then linkFail s lk_LFAULT_LANESWAP l
  else
    let x := linkOf s l
    let x := { x with aligned := setBit x.aligned lane }
    let s := setLink s l x
    if x.aligned = 0xF then wr s lk_TPHASE l 2 else s

/-- A frame in READY. -/
def trainReady (s : State) (l lane : Nat) (f : TFrame) : State :=
  if rdb s lk_LCFG_PEERCHK l && (f.node.toNat != rd s lk_EXPPEER l || f.linkNum.toNat != rd s lk_EXPLINK l) then
    linkFail s lk_LFAULT_PEERMIS l
  else
    let x := linkOf s l
    setLink s l { x with ready := x.ready.set lane (if f.phase = 2 then x.ready.getD lane 0 + 1 else 0) }

/-- A training frame that passed its TCRC is received on a lane: the lane is locked, and its polarity known. -/
def trainOp (s : State) (l : Nat) (f : TFrame) (inverted : Bool) (lane : Nat) : State :=
  let inv := rd s lk_LANEINV l
  let s := wr (wr s lk_LANELOCK l (setBit (rd s lk_LANELOCK l) lane)) lk_LANEINV l
    (if inverted then setBit inv lane else clrBit inv lane)
  let s := wr (wr s lk_PEERNODE l f.node.toNat) lk_PEERLINK l f.linkNum.toNat
  let x := tapRequests (linkOf s l) f
  let s := setLink s l { x with peerReseq := x.peerReseq || f.reseq }
  let ph := rd s lk_TPHASE l
  if ph = 0 then leaveEq s l
  else if ph = 1 then trainAlign s l lane f
  else trainReady s l lane f

/-! ### Receiving (R341 to R347) -/

/-- PROTO: the link enters FAULT and has no sequence state (R347, R355). -/
def protoFault (s : State) (l : Nat) : State := loseSeq (linkFail s lk_LFAULT_PROTO l) l

/-- Cut whole messages off a stream: the messages, what is left, and whether a header breaks the protocol. -/
def parseStream (req : Bool) : Nat → List Byte → List Msg × List Byte × Bool
  | 0, bs => ([], bs, false)
  | fuel + 1, bs =>
    if bs.length < 16 then ([], bs, false)
    else
      let h := ofBytesLE (bs.take 16)
      let m : Msg := ⟨h, []⟩
      if !(if req then ttReq m.tt else ttRsp m.tt) || !lenOk m || !zerosOk m then ([], bs, true)
      else
        let n := dataLen m
        if bs.length < 16 + n then ([], bs, false)
        else
          let (ms, rest, bad) := parseStream req fuel (bs.drop (16 + n))
          (⟨h, (bs.drop 16).take n⟩ :: ms, rest, bad)

/-- The streams are cut into messages. -/
def takeMsgs (s : State) (l : Nat) : State :=
  let x := linkOf s l
  let (a, ra, ba) := parseStream true (x.reqBytes.length + 1) x.reqBytes
  let (b, rb, bb) := parseStream false (x.rspBytes.length + 1) x.rspBytes
  let s := setLink s l { x with reqMsgs := x.reqMsgs ++ a, reqBytes := ra, rspMsgs := x.rspMsgs ++ b, rspBytes := rb }
  if ba || bb then protoFault s l else s

/-- Replay entries up to an ACKSEQ are freed. -/
def ackReplay (x : Link) (ack : Nat) : Link :=
  if x.replay.any (fun f => f.seq == ack) then
    let rest := (x.replay.dropWhile (fun f => f.seq != ack)).drop 1
    let at_ := x.resendAt.map (fun i => i - (x.replay.length - rest.length))
    { x with replay := rest, resendAt := at_.filter (fun i => decide (i < rest.length)), resends := 0, lastNak := none }
  else x

/-- After UP, what is unacknowledged is resent from the partner's ACKSEQ on (R355). -/
def resyncLink (x : Link) : Link :=
  if x.resync then { x with resync := false, resendAt := if x.replay.isEmpty then none else some 0 } else x

/-- A discard asks for a NAK; after one has been sent, only when 512 ns have passed (R344). -/
def askNak (x : Link) : Link := match x.nakAge with
  | none => { x with nak := true }
  | some n => if 512 ≤ n then { x with nak := true } else { x with again := true }

/-- Credits returned by a cumulative count (R345). -/
def creditDiff (new old : Nat) : Nat := (new + 256 - old % 256) % 256

/-- The fields that every flit carries: ACKSEQ, credits, NAK (R344, R345, R361 case 8). A NAK that covers every flit sent is ignored,
and so is one with the ACKSEQ of the NAK whose resend is in progress. -/
def flitControl (s : State) (l : Nat) (bs : List Byte) : State :=
  let ack := bits (ofBytesLE (bs.drop 2 |>.take 2)) 11 0
  let nak := bit (ofBytesLE (bs.drop 2 |>.take 2)) 12
  let cq := (bs.getD 4 0).toNat
  let cp := (bs.getD 5 0).toNat
  let x := resyncLink (ackReplay (linkOf s l) ack)
  let x := { x with credReq := x.credReq + creditDiff cq x.seenReq, credRsp := x.credRsp + creditDiff cp x.seenRsp,
                    seenReq := cq, seenRsp := cp }
  let s := setLink s l x
  let same := x.resendAt.isSome && x.lastNak == some ack
  if nak && !x.replay.isEmpty && !same then
    let s := incr s lk_RETRIES l
    let s := setLink s l { linkOf s l with resends := x.resends + 1, lastNak := some ack, resendAt := some 0 }
    let (bad, s) := stateHit s (0x9000_B000 + l * 4) (linkRq l)
    if bad then loseSeq (linkFault s lk_LFAULT_UECC l) l
    else if max (rd s lk_RETRYMAX l) 1 ≤ x.resends + 1 then linkFail s lk_LFAULT_RETRY l
    else s
  else s

/-- A REQ or RSP flit (R344). -/
def takeFlit (s : State) (l ty seq : Nat) (body : List Byte) : State :=
  let x := linkOf s l
  if x.has = false ∨ seq ≠ x.rxSeq then setLink s l (askNak x)
  else
    let (bad, s) := stateHit s (0x9000_B001 + l * 4) (linkRq l)
    if bad then linkFault (setLink s l (askNak (linkOf s l))) lk_LFAULT_UECC l
    else
      let x := { linkOf s l with rxSeq := (x.rxSeq + 1) % 4096, nakAge := none, again := false }
      let x := if ty = 1 then { x with reqBytes := x.reqBytes ++ body, bufReq := x.bufReq ++ [body.length] }
        else { x with rspBytes := x.rspBytes ++ body, bufRsp := x.bufRsp ++ [body.length] }
      takeMsgs (incr (setLink s l x) lk_FLITSRX l) l

/-- A TIME flit (R346): always flit 0 of its codeword. -/
def takeTime (s : State) (l i : Nat) (body : List Byte) : State :=
  let m : Msg := ⟨ofBytesLE (body.take 16), body.drop 16⟩
  if i ≠ 0 then s
  else if (m.tt == 9 || m.tt == 0xA) && lenOk m && zerosOk m then
    let (t, s) := stamp s
    let x := linkOf s l
    setLink s l { x with timeMsgs := x.timeMsgs ++ [⟨m, BitVec.ofNat 64 t⟩] }
  else protoFault s l

/-- One flit of a codeword that is taken (R343). -/
def flitOp (s : State) (l i : Nat) (bs : List Byte) : State :=
  if linkState s l ≠ 2 then s
  else if !flitGood bs then incr (setLink s l (askNak (linkOf s l))) lk_CRCERR l
  else
    let w := ofBytesLE (bs.take 2)
    let ty := bits w 3 0
    let n := bits (bs.getD 6 0).toNat 5 0
    if 4 ≤ ty ∨ 52 < n then protoFault s l
    else
      let s := flitControl s l bs
      let body := (bs.drop 8).take n
      if linkState s l ≠ 2 then s
      else if ty = 1 ∨ ty = 2 then takeFlit s l ty (bits w 15 4) body
      else if ty = 3 then takeTime s l i body
      else s

/-- The flits of a codeword, in order. -/
def flitsOp (s : State) (l i : Nat) : List (List Byte) → State
  | [] => s
  | f :: t => flitsOp (flitOp s l i f) l (i + 1) t

/-- A codeword whose flits are all discarded (R342). -/
def dropCodeword (s : State) (l : Nat) : State := incr (setLink s l (askNak (linkOf s l))) lk_FECUNC l

/-- A codeword is received (R341, R342): what it carries and whether it was corrected, none where the decoder reports it as
uncorrectable, whose marker is not looked at. -/
def codewordOp (s : State) (l : Nat) (r : Option (CwData × Bool)) : State :=
  let x := linkOf s l
  let wrong := r.any (fun c => c.1.marker != 0x2E5)
  let marks := (wrong :: x.marks).take 16
  let s := setLink s l { x with cwseq := (x.cwseq + 1) % 256, marks := marks }
  match r with
  | none => dropCodeword s l
  | some (c, corrected) =>
    let s := if corrected then incr s lk_FECCORR l else s
    if wrong || c.seq != x.cwseq then
      let s := dropCodeword s l
      if 4 ≤ (marks.filter id).length then linkFail s lk_LFAULT_MKLOST l else s
    else flitsOp s l 0 c.flits

/-! ### Serving the streams (R345, R349) -/

/-- Bytes of received buffers are freed: the buffers left, and how many became free. -/
def freeBufs : List Nat → Nat → List Nat × Nat
  | [], _ => ([], 0)
  | b :: t, n => if b ≤ n then ((freeBufs t (n - b)).1, (freeBufs t (n - b)).2 + 1) else ((b - n) :: t, 0)

/-- The REQ message at the head of a link is taken. -/
def popReq (x : Link) (m : Msg) (t : List Msg) : Link :=
  let (b, n) := freeBufs x.bufReq (16 + m.d.length)
  { x with reqMsgs := t, bufReq := b, giveReq := (x.giveReq + n) % 256 }

/-- The RSP message at the head of a link is taken. -/
def popRsp (x : Link) (m : Msg) (t : List Msg) : Link :=
  let (b, n) := freeBufs x.bufRsp (16 + m.d.length)
  { x with rspMsgs := t, bufRsp := b, giveRsp := (x.giveRsp + n) % 256 }

/-! ### Time transfer (R331, R346, R348) -/

/-- A TIME message waits for flit 0 of a codeword; on a link that is not UP there is none. -/
def queueTime (s : State) (l : Nat) (m : Msg) : State :=
  if linkState s l = 2 then setLink s l { linkOf s l with outTime := (linkOf s l).outTime ++ [m] } else s

/-- The node starts an exchange: TIMEREQ, whose t1 is written as it leaves. -/
def exchangeStart (s : State) (l : Nat) : State :=
  queueTime { s with tb := { s.tb with outs := (none, 0) :: s.tb.outs, age := some 0 } } l
    ⟨header 9 8 false 63 0 (rd s rt_NODEID) (rd s lk_PEERNODE l) 0 0 0, bytesLE 8 0⟩

/-- TIMEREQ is answered with TIMERSP: t1, t2, and t3 as it leaves. -/
def timereqOp (s : State) (l : Nat) (m : TimeMsg) (t : List TimeMsg) : State :=
  queueTime (setLink s l { linkOf s l with timeMsgs := t }) l
    ⟨header 0xA 24 false 63 0 (rd s rt_NODEID) m.m.src 0 0 (rd s tb_TBSTAT_HOPS), m.m.d.take 8 ++ bytesLE 8 m.t.toNat ++ bytesLE 8 0⟩

/-- TIMERSP: the exchange that it answers completes; one that comes after 4 × TXINT answers none (R334). -/
def timerspOp (s : State) (l : Nat) (m : TimeMsg) (t : List TimeMsg) : State :=
  let s := setLink s l { linkOf s l with timeMsgs := t }
  let time (i : Nat) : Time := BitVec.ofNat 64 (ofBytesLE ((m.m.d.drop (8 * i)).take 8))
  if upstream s = some l ∧ s.tb.outs.any (fun x => x.1 == some (time 0) && decide (x.2 ≤ 4 * exchangeEvery s)) then
    exchangeDone s l (time 0) (time 1) (time 2) m.t (bits m.m.aux 3 0)
  else s

/-! ### The line (R339, R341, R344) -/

/-- One 1 GHz period, 40 fifths of an LSB, passes on the line of link l: a training frame leaves every 25.6 ns, a codeword every
12.8 ns, and nothing in DOWN and FAULT. A discard that a NAK has not covered within 512 ns asks again. -/
def lineTick (s : State) (l : Nat) : State :=
  let x := linkOf s l
  let st := linkState s l
  let dry := if !x.outReq.isEmpty && x.credReq == 0 then x.dry + 1 else 0
  let x := { x with age := x.age + 1, dry := dry, nakAge := x.nakAge.map (· + 1),
                    nak := x.nak || (x.again && x.nakAge == some 511) }
  let due := decide (x.lineIn < 40)
  let rest := if !due then x.lineIn - 40 else x.lineIn + (if st = 1 then 984 else 472)
  let s := setLink s l { x with lineIn := rest }
  if !due || !linkOn s l then s
  else if st = 1 then sendTraining s l
  else if st = 2 then sendCodeword s l
  else s

/-- One 1 GHz period passes on every link, and for the requests that wait for their completion. -/
def linksTick (s : State) : State :=
  let s := s.links.foldl (fun s e => lineTick s e.1) s
  { s with reqs := s.reqs.map (fun e => (e.1, { e.2 with ttl := e.2.ttl - 1 })) }

/-! ### Commands -/

/-- A write that reaches the block of link l. -/
def atLink (s : State) (l : Nat) (q : BusReq) (act : State → State) : Out := atBlock s (linkDom l) false q act

/-- LCTL_START. -/
def execLctlStart (l : LinkId) (s : State) : Out := atLink s l (regReq lk_LCTL_START l 0 1 1) (fun s => linkStart s l)
/-- LCTL_STOP. -/
def execLctlStop (l : LinkId) (s : State) : Out := atLink s l (regReq lk_LCTL_START l 0 2 1) (fun s => linkStop s l)
/-- LCTL_RESET. -/
def execLctlReset (l : LinkId) (s : State) : Out := atLink s l (regReq lk_LCTL_START l 0 4 1) (fun s => linkReset s l)
/-- LCTL_FAWNRUN. -/
def execLctlFawnrun (l : LinkId) (s : State) : Out := atLink s l (regReq lk_LCTL_START l 0 8 1) (fun s => linkFawnrun s l)
/-- LCTL_CNTCLR. -/
def execLctlCntclr (l : LinkId) (s : State) : Out := atLink s l (regReq lk_LCTL_START l 0 16 1) (fun s => linkCntclr s l)

/-- TRAINING_FRAME: one whose TCRC fails is ignored. -/
def execTrainingFrame (l : LinkId) (lane : Fin 4) (frame : BitVec 1360) (s : State) : Out :=
  match trainFrame frame with
  | some (f, inverted) => due s (linkOn s l && linkState s l == 1) (trainOp s l f inverted lane)
  | none => .next s
/-- TRAINTO: 50 ms after entry (R340). -/
def execTrainto (l : LinkId) (s : State) : Out :=
  due s (linkOn s l && linkState s l == 1 && decide (50_000_000 ≤ (linkOf s l).age)) (linkFail s lk_LFAULT_TRAINTO l)
/-- AUTO: a link in FAULT with LCFG.AUTO retrains 1 ms later (R353, R437). -/
def execAuto (l : LinkId) (s : State) : Out :=
  due s (linkOn s l && linkState s l == 3 && rdb s lk_LCFG_AUTO l && !linkFenced s l && decide (1_000_000 ≤ (linkOf s l).age))
    (enterTrain s l)
/-- CODEWORD: four lanes of 680 symbols. -/
def execCodeword (l : LinkId) (lanes : List (List (BitVec 2))) (s : State) : Out :=
  due s (linkOn s l && linkState s l == 2) (codewordOp s l (decodeLanes (rd s lk_LANEINV l) lanes))
/-- LINK_STALL: REQ flits have waited with no REQ credit for LSTALLTO µs (R352). -/
def execLinkStall (l : LinkId) (s : State) : Out :=
  due s (rd s rt_LSTALLTO != 0 && decide (rd s rt_LSTALLTO * 1000 ≤ (linkOf s l).dry)) (linkFault s lk_LFAULT_STALL l)
/-- RCTL_LOGPOP. -/
def execRctlLogpop (s : State) : Out := served s (fun s => { s with rlog := s.rlog.drop 1 })

/-- RCTL.CNTCLR (R358). -/
def rctlClear (s : State) : State :=
  [rt_NOROUTE, rt_HOPDROP, rt_TIMEOUTS, rt_LATECMP, rt_BADQ, rt_RLOST].foldl (fun s F => wr s F 0 0) s
/-- RCTL_CNTCLR. -/
def execRctlCntclr (s : State) : Out := served s rctlClear

/-- EXCHANGE: a node that is no master starts an exchange on its upstream link, TXINT after the one before (R331). -/
def execExchange (s : State) : Out :=
  match upstream s with
  | some l => due s (s.tb.runs && s.tb.age.all (fun a => decide (exchangeEvery s ≤ a))) (exchangeStart s l)
  | none => .next s
/-- TIMEREQ. -/
def execTimereq (l : LinkId) (s : State) : Out :=
  match (linkOf s l).timeMsgs with
  | m :: t => due s (m.m.tt == 9) (timereqOp s l m t)
  | [] => .next s
/-- TIMERSP. -/
def execTimersp (l : LinkId) (s : State) : Out :=
  match (linkOf s l).timeMsgs with
  | m :: t => due s (m.m.tt == 0xA) (timerspOp s l m t)
  | [] => .next s

end Sys2Proof.Machine
end

