-- ==== Sys2Proof/Machine/Boot.lean ====
section
/-!
DEFINITION. Device-wide resets, the boot phases up to VERIFY, FAULT-HOLD, and the PCIe endpoint (R43 to R52, R362 to R375,
R406, R420, R421, R423).
-/

namespace Sys2Proof.Machine

/-! ### Output pins (R51) -/

/-- FAULT_N is driven low: before RUNNING, in FAULT-HOLD, and while an EXTEST instruction is in force (R51, R443). -/
def faultLow (s : State) : Bool :=
  rd s pm_PMSTAT_STATE == 4 || (!s.pow.deep && (rd s hb_BOOTSTAT_PHASE != 7 || s.tap.ext))

/-- ENA_p as the guard and the boot leave it: low before RUNNING, in FAULT-HOLD and in DEEP (R51, R300). -/
def enaPin (s : State) (p : Nat) : Bool :=
  bit (rd s gg_ENAST) p && rd s hb_BOOTSTAT_PHASE == 7 && rd s pm_PMSTAT_STATE != 4 && !s.pow.deep

/-- THERMTRIP_N is driven low (R51). -/
def tripPin (s : State) : Bool := s.pow.trip

/-- TRIGt_p is high: not before RUNNING, in FAULT-HOLD or in DEEP (R51, R276). -/
def trigPin (s : State) (p t : Nat) : Bool :=
  (alGet s.pins.trig (2 * p + t)).any (fun end_ => decide (now s < end_)) && rd s hb_BOOTSTAT_PHASE == 7 && rd s pm_PMSTAT_STATE != 4 && !s.pow.deep

/-- What the device does with an output (R51): besides, it drives a boundary cell's value in EXTEST (R443). -/
inductive Drive where
  | low | high | released | steady0 | idle | active | cell (v : Bool)
deriving DecidableEq, Repr

/-- The columns of R51 that are states of the device: reset until INIT ends, boot, operation, FAULT-HOLD, DEEP. -/
inductive PinCol where
  | reset | boot | run | hold | deep
deriving DecidableEq, Repr

def pinCol (s : State) : PinCol :=
  if rd s pm_PMSTAT_STATE = 4 then .hold
  else if s.pow.deep then .deep
  else if rd s hb_BOOTSTAT_PHASE = 1 then .reset
  else if rd s hb_BOOTSTAT_PHASE = 7 then .run
  else .boot

/-- The boundary cells in the order of R443: of a tile its 16 ports with 5 cells each (the two pairs, ENA, TRIG0, TRIG1), 2 camera
ports with 5, 3 links with 8, JREF; then the centre. -/
def portCell (p : Nat) : Nat := p / 16 * 115 + p % 16 * 5
/-- The first cell of the centre. -/
def centreCell : Nat := 460
/-- A cell of the boundary register. -/
def cellOf (s : State) (i : Nat) : Bool := s.tap.cells.getD i false

/-- ENA_p at its land: in EXTEST the boundary cell drives it (R443). -/
def enaLand (s : State) (p : Nat) : Bool := if s.tap.ext then cellOf s (portCell p + 2) else enaPin s p
/-- TRIGt_p at its land. -/
def trigLand (s : State) (p t : Nat) : Bool := if s.tap.ext then cellOf s (portCell p + 3 + t) else trigPin s p t
/-- ATX_T and ATX_C of a port. -/
def atxPin (s : State) (p : Nat) : Drive :=
  if s.tap.ext then .cell (cellOf s (portCell p)) else if pinCol s = .run then .active else .steady0
/-- The PETX and JTX lanes; in EXTEST they carry what their IEEE 1149.6 drivers send. -/
def lanePin (s : State) : Drive := if s.tap.ext || pinCol s = .run then .active else .idle
/-- XSPI_CS_N. -/
def xspiCsPin (s : State) : Drive :=
  if s.tap.ext then .cell (cellOf s (centreCell + 25)) else match pinCol s with
    | .boot => .active
    | .deep => .released
    | _ => .high
/-- XSPI_RST_N; in boot it is released 10 µs after reset, a time that is not modelled. -/
def xspiRstPin (s : State) : Drive :=
  if s.tap.ext then .cell (cellOf s (centreCell + 35)) else match pinCol s with
    | .reset => .low
    | .boot | .deep => .released
    | _ => .high
/-- AVS_CLK and AVS_MDATA: steady in reset, else idle between frames. -/
def avsPins (s : State) : Drive × Drive := if pinCol s = .reset then (.low, .high) else (.idle, .idle)
/-- TDO outside Shift-IR and Shift-DR, which a TAP command passes through. -/
def tdoPin : Drive := .released

/-- What cell i captures (R443): of a land that the model knows its level, of any other the bit of `x`, an open value. -/
def cellSample (s : State) (x i : Nat) : Bool :=
  let c := i - centreCell
  if i < centreCell then
    let p := i / 115 * 16 + i % 115 / 5
    if i % 115 < 80 ∧ i % 115 % 5 = 2 then enaLand s p
    else if i % 115 < 80 ∧ 3 ≤ i % 115 % 5 then trigLand s p (i % 115 % 5 - 3)
    else bit x i
  else if c = 18 then s.host.perst
  else if c = 19 then s.pins.rstLow == 0
  else if c = 20 then !faultLow s
  else if c = 21 then !tripPin s
  else if 48 ≤ c ∧ c < 58 then bit s.pins.pg (c - 48)
  else if 58 ≤ c ∧ c < 74 then bit s.pins.dbin (c - 58)
  else bit x i

/-- The boundary register at Capture-DR, cell 0 first (R443). -/
def boundary (s : State) : Nat × State :=
  let (x, s) := freshNat s
  ((List.range 534).foldl (fun n i => n + 2 ^ i * b2n (cellSample s x i)) 0, s)

/-- FAULT_N has become low since `old`: vector 1 (R367). -/
def faultEdge (old s : State) : State := if !faultLow old && faultLow s then msix s 1 else s

/-! ### FAULT-HOLD (R51, R52, R406, R471) -/

/-- Every compute domain is held in DOMAIN reset (R471). -/
def tripHold (s : State) : State := (List.range 144).foldl (fun s d => wr s pd_DSTAT_PSTATE d 3) s

/-- The device enters FAULT-HOLD, with its triggers low (R51); a cause of 0 records none. -/
def faultHold (s : State) (cause : Nat) : State :=
  let t := wr (wr s pm_PMSTAT_STATE 0 4) pm_PMSTAT_BUSY 0 0
  let t := { t with pow := { t.pow with want := none, rising := [] }, pins := { t.pins with trig := [] } }
  faultEdge s (if cause = 0 then t else wr t pm_PMSTAT_LASTFAIL 0 cause)

/-- Whether the device is in FAULT-HOLD. -/
def inHold (s : State) : Bool := rd s pm_PMSTAT_STATE == 4

/-! ### What a device-wide reset keeps (R423) -/

/-- The key is a place of the field. -/
def RegKey.isOf (k : RegKey) (F : Fld) : Bool := decide (k.blk = F.blk) && k.off == F.off && k.lo == F.lo

/-- Registers that a COLD reset keeps: DEVFEAT, the wipe table, the always-on records; SUPSTAT shows warnings that last. -/
def keptCold (k : RegKey) : Bool :=
  decide (k.blk = .devfeat) || decide (k.blk = .resetCtl) ||
    [lc_WBASE, lc_WLEN, pm_PMSTAT_LASTFAIL, pm_MNOTE_LOW, pm_MNOTE_REPLAN, pm_MNOTE_TRIMFAIL, pm_MNOTE_AVSERR, pm_MNOTE_RETLOST,
      pm_MNOTE_THERM, pm_SUPLAST, pm_WARNCNT, pm_BROWNCNT, pm_RETLOST, pm_RETLAST, pm_VSET, pm_SUPSTAT, pd_DSTAT_TAP].any
      (fun F => k.isOf F)

/-- Registers that a WARM reset keeps: besides, the memory-integrity block and what the service die keeps of boot, lifecycle
and test state (R17, R423, R437). -/
def keptWarm (k : RegKey) : Bool :=
  keptCold k || decide (k.blk = .integrity) || decide (k.blk = .hostBoot) || decide (k.blk = .testService) ||
    (decide (k.blk = .lifecycle) && decide (k.acc ≠ .img)) || k.isOf tb_TBSTAT_LOCK

/-- Registers that DEEP keeps: those of domain 144 (R402, R404). -/
def keptDeep (k : RegKey) : Bool :=
  keptCold k || decide (k.blk = .power) || decide (k.blk = .domain) || decide (k.blk = .bridges)

/-- The debug level that a lifecycle state gives (R387). -/
def defaultDebug (lcstate : Nat) : Nat := if lcstate = 0 then 2 else if lcstate = 1 then 1 else 0

/-- A stamp that a device-wide reset leaves: PERST_N and the supplies do not take part in it. -/
def Mark.kept : Mark → Bool
  | .perst | .warn _ => true
  | _ => false

/-- The model's clock runs on over a device-wide reset, and what the reset begins anew counts from it. -/
def resetClock (c : Clock) : Clock := { ticks := c.ticks, base := c.ticks, marks := c.marks.filter (fun e => e.1.kept) }

/-- Everything of the device takes its reset state but for the registers that `keep` names, OTP, the pins, and the memories,
which the WIPE phase clears before anything can read them. -/
def deviceReset (s : State) (keep : RegKey → Bool) : State :=
  { pending := s.pending, regs := s.regs.filter (fun e => keep e.1), mem := s.mem, words := s.words, otp := s.otp,
    pins := { s.pins with trig := [] }, tap := s.tap, reply := s.reply, fresh := s.fresh, clk := resetClock s.clk,
    lc := { dbg := defaultDebug s.otp.lcstate, nonce := s.lc.nonce + 1 },
    host := { perst := s.host.perst, msgs := s.host.msgs } }

/-- POWER-ON reset (R420). -/
def powerOn (s : State) : State :=
  { deviceReset s (fun k => decide (k.blk = .devfeat)) with tap := {} }

/-- What the power controller still sees and holds over a reset. -/
def powKept (p : PowerSt) : PowerSt := { warn := p.warn, brown := p.brown, back := p.back, hot := p.hot, trims := p.trims, acked := p.acked }

/-- COLD reset (R420); the timebase counter runs on unless the device was in DEEP. -/
def coldReset (s : State) (why : Nat) : State :=
  let deep := s.pow.deep
  let t := deviceReset s keptCold
  let t := { t with pow := powKept s.pow, tb := if deep then {} else { count := s.tb.count, runs := s.tb.runs },
                    host := { t.host with wipeFull := s.host.wipeFull || deep || why == 4 } }
  incrSat (wr t rs_LASTRST 0 why) rs_COLDS

/-- An access from outside waits on through a WARM reset. -/
def BusReq.outside (q : BusReq) : Bool := match q.ag with
  | .host | .tap => true
  | _ => false

/-- WARM reset (R420, R421). FAULT-HOLD ends only with a COLD reset, so it outlasts this one (R406). -/
def warmReset (s : State) (why : Nat) : State :=
  let t := deviceReset s keptWarm
  let t := { t with pow := { powKept s.pow with trip := s.pow.trip }, tb := { count := s.tb.count, runs := s.tb.runs },
                    host := { s.host with flashTry := false }, milog := s.milog, flip := s.flip, hppr := s.hppr,
                    cip := s.cip, rpts := s.rpts.filter (fun e => e.1 / 2 ^ 28 == 8), held := s.held.filter BusReq.outside,
                    lc := { t.lc with busy := s.lc.busy } }
  let t := if inHold s then wr t pm_PMSTAT_STATE 0 4 else t
  let t := if s.pow.trip then tripHold t else t
  faultEdge s (setPhase (incrSat (wr t rs_LASTRST 0 why) rs_WARMS) 3)

/-- RSTCTL.WARM (R421). -/
def warmOp (s : State) (byKid : Bool) : State :=
  if (rd s hb_BOOTSTAT_PHASE = 7 ∨ rd s hb_BOOTSTAT_PHASE = 8) ∧ s.otp.pend.isNone = true then warmReset s (if byKid then 7 else 6)
  else wr s rs_RSTFAULT_BUSYGO 0 1

/-- The last device-wide reset was a WARM one. -/
def warmBoot (s : State) : Bool := decide (6 ≤ rd s rs_LASTRST)

/-! ### PCIe endpoint (R362 to R368) -/

/-- PERST_N low: the link, the configuration space, the MSI-X table and the PBA are reset, and reads in flight dropped. -/
def pcieReset (s : State) : State :=
  let s := dropRegs s (fun k => decide (k.blk = .hostBoot) && decide (0x8000 ≤ k.off))
  { s with host := { s.host with cfgOk := false, reads := [], ends := [], failed := none, aerCa := false, aerUr := false, d3hot := false } }

/-- Leaving DEEP (R404): the rails that it had taken away are raised (R406). -/
def deepWake (s : State) : State :=
  let t := stampAt (coldReset s 5) .rise
  { t with pow := { t.pow with rising := (List.range 10).filter (fun i => !bit t.pins.pg i) } }

/-- PERST_N changes. -/
def perstOp (s : State) (high : Bool) : State :=
  let t : State := { s with host := { s.host with perst := high } }
  let t := if high && !s.host.perst then stampAt t .perst else t
  if high then (if s.pow.deep ∧ inHold s = false ∧ s.host.perst = false then deepWake t else t) else pcieReset t

/-- A write of HOSTRING (R367). -/
def hostRing (s : State) (v : Nat) : State := if v < 4 then hfault s hb_HFAULT_RSVV else msix s v

/-- A BAR request in HERRLAST: its offset, with bit 63 for BAR2 (R374). -/
def barOff (bar2 : Bool) (off : Nat) : Nat := off + 2 ^ 63 * b2n bar2

/-- A BAR read is completed (R365): AER records a Completer Abort and an Unsupported Request. -/
def endRead (s : State) (r : HostRead) (e : HostEnd) : State :=
  { s with host := { s.host with reads := s.host.reads.erase r, ends := s.host.ends ++ [(r.id, e)],
                                 aerCa := s.host.aerCa || e == .ca, aerUr := s.host.aerUr || e == .ur } }

/-- A BAR read fails. -/
def failRead (s : State) (r : HostRead) (e : HostEnd) : State := hostErr (endRead s r e) (barOff r.bar2 r.off)

/-- The oldest BAR read that waits is answered with Completer Abort; what comes for it later finds it gone (R366). -/
def hrdtoOp (s : State) (r : HostRead) : State := { failRead (incr s hb_HTOCNT) r .ca with reply := .ca }

/-- HRDTO in 1 GHz periods; 0 acts as 1 µs (R374). -/
def hrdtoPeriods (s : State) : Nat := max (rd s hb_HRDTO) 1 * 1000

/-- What the configuration space reports (R362, R363); the opcode table has no configuration request. -/
structure PcieConfig where
  vendor  : Nat
  device  : Nat
  rev     : Nat
  cls     : Nat
  bar0    : Nat
  bar2    : Nat
  serial  : Nat
  aerCa   : Bool
  aerUr   : Bool
  d3hot   : Bool
deriving DecidableEq, Repr

/-- The configuration space of the one function: BARs are 64-bit, BAR2 prefetchable. -/
def pcieConfig (s : State) : PcieConfig :=
  { vendor := df_VENDOR.rst, device := df_PRODUCT.rst, rev := 0xA0, cls := 0x12_0000, bar0 := 0x4, bar2 := 0xC,
    serial := Config.uid.toNat % 2 ^ 64, aerCa := s.host.aerCa, aerUr := s.host.aerUr, d3hot := s.host.d3hot }

/-! ### Phases (R371, R372) -/

/-- A device-wide reset ends in RUNNING or FAILED (R420). -/
def endReset (s : State) : State :=
  if s.rst.inReset then { wr s rs_LASTRSTT 0 (now s) with rst := { s.rst with inReset := false } } else s

/-- The boot ends in FAILED with a code; no image runs (R395). -/
def bootFail (s : State) (code : Nat) : State :=
  endReset (setPhase (setCode (wr (wr s lc_IMGHASH 0 0) lc_IMGSLOT 0 0) code) 8)

/-- A pending OTP write is completed from its record (R388, R392, R394). -/
def Otp.complete (o : Otp) : Otp := match o.pend with
  | none => o
  | some (st, k) =>
    let back := if o.lcstate = 3 ∧ st = 2 then 1 else 0
    let o : Otp := { o with lcstate := st, pend := none, returns := o.returns - back }
    let o : Otp := match k with
      | some (slot, hash) => { o with keys := alSet o.keys slot hash }
      | none => o
    if st = 4 then { o with devKey := none } else if st = 1 then { o with devKey := some (o.devKey.getD 0) } else o

/-- INIT ends: a pending lifecycle write is completed, and BOOTSEL sampled (R48, R371, R394). -/
def initOp (s : State) (sel : Nat) : State :=
  let h : HostSt := { s.host with wipeFull := s.host.wipeFull || s.otp.pend.isSome, hostBoot := sel == 1 }
  let t : State := { s with otp := s.otp.complete, host := h }
  let t : State := { t with lc := { t.lc with dbg := defaultDebug t.otp.lcstate } }
  let t := wrb (wr t hb_BOOTSTAT_SEL 0 sel) hb_BOOTSTAT_SRC 0 (sel == 1)
  if sel = 3 then bootFail t 0x10 else stampAt (setPhase t 2) .clock

/-- The PLL locks: the counter starts from 0 where it does not run (R326, R327, R335). -/
def lockOp (s : State) : State :=
  let s := wr s tb_TBSTAT_LOCK 0 1
  let s : State := if s.tb.runs then s else { s with tb := { s.tb with count := 0, runs := true } }
  if rd s hb_BOOTSTAT_PHASE = 2 then setPhase s 3 else s

/-- An HBM address lies in the wipe table. -/
def inWipeTable (s : State) (a : Nat) : Bool :=
  (List.range 16).any (fun r =>
    decide (rd s lc_WBASE 0 r * 4096 ≤ a ∧ a < (rd s lc_WBASE 0 r + rd s lc_WLEN 0 r) * 4096))

/-- The staging region (R371). -/
def staging (a : Nat) : Bool := decide (a < 0x1000_0000)

/-- What the WIPE phase clears (R393, R421). -/
def wiped (s : State) (a : Nat) : Bool :=
  decide (0x10_0000_0000 ≤ a) || s.host.wipeFull || (inWipeTable s a && !(warmBoot s && staging a))

/-- WIPE ends. The full writes of an HBM wipe free the repeat entries of their words (R182 case 10). -/
def wipeOp (s : State) : State :=
  let t := clearMem s (wiped s)
  let left (e : Nat × List RptEnt) : Nat × List RptEnt := (e.1, e.2.filter (fun r => !wiped s (r.addr * 8)))
  setPhase { t with rpts := (t.rpts.map left).filter (fun e => !e.2.isEmpty), host := { t.host with wipeFull := false } }
    (if warmBoot s then 5 else 4)

/-- Little-endian field of a byte string. -/
def leAt (bs : List Byte) (o n : Nat) : Nat := ofBytesLE ((bs.drop o).take n)

/-- Flash boot is over: host boot follows where the strap says so, with the code kept (R371). -/
def flashEnd (s : State) (code : Nat) : State :=
  if rd s hb_BOOTSTAT_SEL = 2 then
    let s := setCode s code
    wr { s with host := { s.host with hostBoot := true, flashTry := false } } hb_BOOTSTAT_SRC 0 1
  else bootFail s code

/-- An image of the flash fails: image B is tried after image A (R371, R384). -/
def flashFail (s : State) (code : Nat) : State :=
  let s : State := { s with host := { s.host with flashTry := false } }
  if rd s hb_BOOTSTAT_SLOT = 0 ∧ leAt s.host.loc 12 4 ≠ 0 then setPhase (wr s hb_BOOTSTAT_SLOT 0 1) 4
  else setPhase (flashEnd s code) (if rd s hb_BOOTSTAT_SEL = 2 then 4 else 8)

/-- The locator is whole and its fields are allowed (R370). -/
def locatorOk (l : List Byte) : Bool :=
  let mode := leAt l 4 1
  l.length == 32 && leAt l 0 4 == 0x4B48_4231 && leAt l 28 4 == crc32 (l.take 28) && decide (mode ≤ 1) && decide (leAt l 5 1 ≤ 4) &&
    (mode == 0 || decide (4 ≤ leAt l 6 1 ∧ leAt l 6 1 ≤ 30)) && ((l.drop 21).take 7).all (fun b => b == 0)

/-- The clock of 8D-8D-8D that FREQ selects, in MHz (R370). -/
def xspiMhz (freq : Nat) : Nat := [50, 100, 133, 166, 200].getD freq 50

/-- What the xSPI master sends to read the locator (R369). -/
def xspiLocator : XspiOp := .read1 0x13 0 32

/-- What it sends to read n bytes of an image as the locator says; 8D-8D-8D is entered once, before image A (R370). -/
def xspiImage (l : List Byte) (slotB : Bool) (n : Nat) : List XspiOp :=
  let off := leAt l (if slotB then 12 else 8) 4
  if leAt l 4 1 = 0 then [.read1 0x13 off n]
  else (if slotB then [] else [.writeEnable 0x06, .enter (leAt l 7 1) (leAt l 16 4) (leAt l 20 1)]) ++
    [.read8 0xEE11 off n (leAt l 6 1) (xspiMhz (leAt l 5 1))]

/-- The requester of image application (R174). -/
def imageRq : Rq := ⟨11, 0⟩

/-- FETCH of one image from flash ends: it stands in the staging region. For image B the locator has been read before. -/
def fetchOp (s : State) (slotB : Bool) (loc img : List Byte) : State :=
  let sent (s : State) (ops : List XspiOp) : State := { s with host := { s.host with xspi := ops } }
  if !slotB && !locatorOk loc then flashEnd (sent s [xspiLocator]) 0x12
  else
    let loc := if slotB then s.host.loc else loc
    let ops := (if slotB then [] else [xspiLocator]) ++ xspiImage loc slotB img.length
    let s := sent { s with host := { s.host with loc := loc } } ops
    if 2 ^ 28 < img.length then flashFail s 0x14
    else
      let s := memWrite s 0 img imageRq
      setPhase { s with host := { s.host with flashTry := true } } 5

/-- BOOTCTL.GO (R372). -/
def goOp (s : State) : State :=
  let ph := rd s hb_BOOTSTAT_PHASE
  if (ph = 4 ∧ s.host.hostBoot = true) ∨ (ph = 8 ∧ rd s hb_BOOTSTAT_SEL ≠ 3) then
    let s := wr { s with host := { s.host with hostBoot := true, flashTry := false } } hb_BOOTSTAT_SRC 0 1
    if rd s hb_HIMGLEN = 0 ∨ 2 ^ 28 < rd s hb_HIMGLEN then bootFail s 0x14 else setPhase s 5
  else hfault s hb_HFAULT_BUSYGO

/-! ### Commands -/

/-- POWER_ON_RESET. -/
def execPowerOnReset (s : State) : Out := .next (powerOn s)

/-- A sample of RESET_N: the fifth low one in a row starts a COLD reset, and a high one ends it (R47). -/
def resetNOp (s : State) (high : Bool) : State :=
  let n := if high then 0 else min 5 (s.pins.rstLow + 1)
  let t : State := { s with pins := { s.pins with rstLow := n } }
  if n = 5 ∧ s.pins.rstLow < 5 then coldReset t 2 else t

/-- RESET_N. -/
def execResetN (high : Bool) (s : State) : Out := .next (resetNOp s high)

/-- INIT: every power-good input is asserted, and RESET_N is high (R45, R52 case 2). -/
def execInit (sel : BitVec 2) (s : State) : Out :=
  due s (!s.pow.deep && rd s hb_BOOTSTAT_PHASE == 1 && s.pins.pg == 0x3FF && s.pins.rstLow == 0 && !inHold s) (initOp s sel.toNat)

/-- PLL_LOCK: at the end of CLOCK, or after an UNLOCK. -/
def execPllLock (s : State) : Out :=
  due s (!s.pow.deep && !rdb s tb_TBSTAT_LOCK && (s.tb.runs || rd s hb_BOOTSTAT_PHASE == 2) && !(inHold s && rd s hb_BOOTSTAT_PHASE == 2))
    (lockOp s)

/-- PLL_LOCK_FAIL: the PLL has not locked within 1 ms of CLOCK. -/
def execPllLockFail (s : State) : Out :=
  due s (!s.pow.deep && rd s hb_BOOTSTAT_PHASE == 2 && !inHold s && decide (1000000 ≤ since s .clock)) (faultHold s 11)

/-- WIPE. -/
def execWipe (s : State) : Out := due s (rd s hb_BOOTSTAT_PHASE == 3 && !inHold s) (wipeOp s)

/-- Whether the device fetches from flash. -/
def fetching (s : State) : Bool := rd s hb_BOOTSTAT_PHASE == 4 && !s.host.hostBoot && !inHold s

/-- FETCH: the image in slot A or B has been read. -/
def execFetch (slotB : Bool) (loc img : List Byte) (s : State) : Out :=
  due s (fetching s && rdb s hb_BOOTSTAT_SLOT == slotB) (fetchOp s slotB loc img)

/-- DATA_STROBE_TIMEOUT. -/
def execDataStrobeTimeout (s : State) : Out := due s (fetching s) (flashEnd s 0x11)

/-- A write that reaches the host and boot block (domain 147). -/
def atBoot (s : State) (q : BusReq) (act : State → State) : Out := atBlock s 147 false q act

/-- BOOTCTL_GO. -/
def execBootctlGo (s : State) : Out := atBoot s (regReq hb_BOOTCTL_GO 0 0 1 1) goOp

/-- HOSTRING. -/
def execHostring (v : BitVec 6) (s : State) : Out :=
  atBoot s (regReq hb_HOSTRING 0 0 v.toNat 1) (fun s => hostRing s v.toNat)

/-- PERST_N. -/
def execPerstN (high : Bool) (s : State) : Out := .next (perstOp s high)

/-- PCIE_CONFIG_READY: 20 ms after PERST_N has risen, once POWER-ON or COLD reset has ended (R368). -/
def execPcieConfigReady (s : State) : Out :=
  due s (s.host.perst && !s.host.cfgOk && decide (2 ≤ rd s hb_BOOTSTAT_PHASE) && !s.pow.deep && decide (20000000 ≤ since s .perst))
    { s with host := { s.host with cfgOk := true } }

/-- HRDTO: the oldest BAR read has waited for HRDTO µs. -/
def execHrdto (s : State) : Out :=
  match s.host.reads with
  | r :: _ => due s (decide (hrdtoPeriods s ≤ r.age)) (hrdtoOp s r)
  | [] => .next s

/-- One 1 GHz period passes for the reads that wait. -/
def hostTick (s : State) : State :=
  { s with host := { s.host with reads := s.host.reads.map (fun r => { r with age := r.age + 1 }), ends := [] } }

end Sys2Proof.Machine
end

