-- ==== Sys2Proof/Machine/RegAcc.lean ====
section
/-!
DEFINITION. The 40-bit device-local map and the reading of registers (R10 to R12, R15, R23 to R29).
-/

namespace Sys2Proof.Machine

/-! ### The map (R23, R24, R26) -/

/-- What lies at a device-local address: memory, a register block with an offset in it, the port of an endpoint, or a
reserved range. -/
inductive Place where
  | mem
  | reg (b : Blk) (n off : Nat)
  | port (e off : Nat)
  | hole
deriving DecidableEq, Repr

/-- The inside of a kid view (R24). -/
def placeKid (k o : Nat) : Place :=
  if o < 0x800 ∨ (0x2000 ≤ o ∧ o < 0x4000) then .mem
  else if 0x4000 ≤ o ∧ o < 0x4100 then .reg .kidSr k (o - 0x4000)
  else if 0x4100 ≤ o ∧ o < 0x4200 then .reg .kidCtl k (o - 0x4100)
  else .hole

/-- The inside of a herd control block (R26). -/
def placeHerd (h o : Nat) : Place :=
  if o < 0x100 then .reg .herdFence h o
  else if 0x1000 ≤ o ∧ o < 0x1100 then .reg .hdc h (o - 0x1000)
  else if 0x2000 ≤ o ∧ o < 0x3000 then
    if o % 0x40 < 0x30 then .mem else .reg .oryxSlot (h * 64 + (o - 0x2000) / 0x40) (o % 0x40)
  else if 0x3000 ≤ o ∧ o < 0x4000 then .mem
  else if 0x4000 ≤ o ∧ o < 0x8000 then
    let e := h * 64 + (o - 0x4000) / 0x100
    if o % 0x100 < 0x80 then .port e (o % 0x100) else .reg .epConfig e (o % 0x100)
  else if 0x8000 ≤ o ∧ o < 0x8100 then .reg .icache h (o - 0x8000)
  else .hole

/-- The inside of the antler guard's range (R304 to R307). -/
def placeGuard (o : Nat) : Place :=
  if o < 0x1_0000 then .reg .guard 0 o
  else if o < 0x2_0000 then .reg .envelope ((o - 0x1_0000) / 0x40) (o % 0x40)
  else if o < 0x3_0000 then .reg .axisState ((o - 0x2_0000) / 0x40) (o % 0x40)
  else if o < 0x3_2000 then .reg .constraint ((o - 0x3_0000) / 0x20) (o % 0x20)
  else .reg .guard 0 o

/-- The inside of the service die's ranges. -/
def placeService (o : Nat) : Place :=
  let x := o % 0x10_0000
  let r := o / 0x10_0000
  if r = 0 then .reg .timebase 0 x
  else if r = 1 then (if 0x1000 ≤ x ∧ x < 0x1000 + 152 * 0x20 then .reg .domain ((x - 0x1000) / 0x20) (x % 0x20) else .reg .power 0 x)
  else if r = 2 then .reg .lifecycle 0 x
  else if r = 3 then .reg .hostBoot 0 x
  else if r = 4 then
    (if x < 0x4_0000 then .reg .testService 0 x
     else if x < 0x8_0000 then .reg .bridges 0 (x - 0x4_0000)
     else if x < 0xC_0000 then .reg .integrity 0 (x - 0x8_0000)
     else .reg .resetCtl 0 (x - 0xC_0000))
  else if r = 5 then .reg .devfeat 0 x
  else .hole

/-- The device-local map. -/
def placeOf (a : Nat) : Place :=
  if a < 0x10_0800_0000 then .mem
  else if 0x11_0000_0000 ≤ a ∧ a < 0x11_8000_0000 then placeKid ((a - 0x11_0000_0000) / 0x1_0000) (a % 0x1_0000)
  else if 0x12_0000_0000 ≤ a ∧ a < 0x12_0200_0000 then placeHerd ((a - 0x12_0000_0000) / 0x1_0000) (a % 0x1_0000)
  else if 0x13_0000_0000 ≤ a ∧ a < 0x13_0040_0000 then .reg .axisPort ((a - 0x13_0000_0000) / 0x1_0000) (a % 0x1_0000)
  else if 0x13_0100_0000 ≤ a ∧ a < 0x13_0200_0000 then placeGuard (a - 0x13_0100_0000)
  else if 0x13_1000_0000 ≤ a ∧ a < 0x13_1080_0000 then
    let o := a % 0x10_0000
    if 0x8000 ≤ o ∧ o < 0x1_0000 then .mem else .reg .camera ((a - 0x13_1000_0000) / 0x10_0000) o
  else if 0x13_2000_0000 ≤ a ∧ a < 0x13_200C_0000 then
    let o := a % 0x1_0000
    if 0x4000 ≤ o then .reg .routing 0 o else .reg .link ((a - 0x13_2000_0000) / 0x1_0000) o
  else if 0x14_0000_0000 ≤ a ∧ a < 0x14_0060_0000 then placeService (a - 0x14_0000_0000)
  else .hole

/-- The power domain that an address crosses into (R399), none for blocks that have no home of their own. -/
def domOf (a : Nat) : Option Nat :=
  if a < 0x10_0000_0000 then some (hbmDom (a / 0x4_0000_0000))
  else if a < 0x10_0800_0000 then some (herdDom ((a - 0x10_0000_0000) / 0x4_0000))
  else if a < 0x11_8000_0000 then some (herdDom ((a - 0x11_0000_0000) / 0x1_0000 / 64))
  else if a < 0x12_0200_0000 then some (herdDom ((a - 0x12_0000_0000) / 0x1_0000))
  else if a < 0x13_0040_0000 then some (edgeDom ((a - 0x13_0000_0000) / 0x1_0000 / 16))
  else if a < 0x13_0200_0000 then match placeOf a with
    | .reg .envelope n _ | .reg .axisState n _ => some (edgeDom (axisTile n))
    | _ => none
  else if a < 0x13_1080_0000 then some (edgeDom ((a - 0x13_1000_0000) / 0x10_0000 / 2))
  else if a < 0x13_200C_0000 then (if 0x4000 ≤ a % 0x1_0000 then none else some (linkDom ((a - 0x13_2000_0000) / 0x1_0000)))
  else match (a - 0x14_0000_0000) / 0x10_0000 with
    | 2 => some 148
    | 3 => some 147
    | 4 => (match placeOf a with
      | .reg .testService _ _ | .reg .integrity _ _ => some 149
      | _ => none)
    | 5 => some 149
    | _ => none

/-- The herd whose boundary an address crosses. -/
def herdAt (a : Nat) : Option Nat :=
  if 0x10_0000_0000 ≤ a ∧ a < 0x10_0800_0000 then some ((a - 0x10_0000_0000) / 0x4_0000)
  else if 0x11_0000_0000 ≤ a ∧ a < 0x11_8000_0000 then some ((a - 0x11_0000_0000) / 0x1_0000 / 64)
  else if 0x12_0000_0000 ≤ a ∧ a < 0x12_0200_0000 then some ((a - 0x12_0000_0000) / 0x1_0000)
  else none

/-! ### Fields at a place -/

/-- The place of bit 0 of element i, counted in bits from the block's base. -/
def Fld.bitLo (F : Fld) (i : Nat) : Nat := (F.off + i * F.stride) * 8 + F.lo

/-- Which element of a field has bits in byte o of its block. -/
def Fld.at (F : Fld) (o : Nat) : Option Nat :=
  let i := if F.stride = 0 ∨ o < F.off then 0 else (o - F.off) / F.stride
  if i < F.count ∧ F.bitLo i < 8 * o + 8 ∧ 8 * o < F.bitLo i + F.w then some i else none

/-- The fields with bits in byte o, ascending. -/
def fieldsAt (b : Blk) (o : Nat) : List (Fld × Nat) := (fieldsOf b).filterMap (fun F => (F.at o).map (fun i => (F, i)))

/-- The bits of byte o that a field's element has: their mask in the byte. -/
def Fld.maskAt (F : Fld) (i o : Nat) : Nat :=
  ((List.range 8).map (fun j => if F.bitLo i ≤ 8 * o + j ∧ 8 * o + j < F.bitLo i + F.w then 2 ^ j else 0)).foldl (· + ·) 0

/-- A value of the field as it shows in byte o. -/
def Fld.show (F : Fld) (i o v : Nat) : Nat :=
  if F.bitLo i ≤ 8 * o then v / 2 ^ (8 * o - F.bitLo i) % 256 else v * 2 ^ (F.bitLo i - 8 * o) % 256

/-! ### What a field reads as -/

/-- The saturated 32-bit form of a position (R306). -/
def sat32 (i : Int) : Nat := twos 32 (max (-(2 ^ 31)) (min (2 ^ 31 - 1) i))

/-- A spare of a herd serves a kid. -/
def spareInUse (s : State) (h i : Nat) : Bool :=
  s.kids.any (fun e => e.1 / 64 == h && e.2.pos == some (64 + i))

/-- SPAREBAD (R434). -/
def spareBad (s : State) (h : Nat) : Nat :=
  let bad (i : Nat) : Bool := !spareInUse s h i && (bit (Config.fuseSpareBad h) i || bit ((alGet s.sbist h).getD 0) i)
  b2n (bad 0) + 2 * b2n (bad 1)

/-- DEVFEAT.SPARES (R91): good spares that serve no kid. -/
def sparesFree (s : State) : Nat :=
  ((List.range 1024).filter (fun x => !bit (Config.fuseSpareBad (x / 2)) (x % 2) && !spareInUse s (x / 2) (x % 2))).length

/-- The public key as DEVKEY shows it: the modulus, then the exponent (R395, R397). -/
def devKeyBytes (s : State) : List Byte := match s.otp.devKey with
  | some n => bytesBE 384 (Config.deviceModulus n) ++ bytesLE 4 65537
  | none => List.replicate 388 0

/-- One bit for each of slots 1 to 4. -/
def slotMask (p : Nat → Bool) : Nat := ((List.range 4).map (fun i => if p (i + 1) then 2 ^ i else 0)).foldl (· + ·) 0

/-- What a field shows where the block keeps it elsewhere than in its register. -/
def derived (s : State) (F : Fld) (n i : Nat) : Option Nat := match F.blk with
  | .kidSr => if F = kd_KSELF_KID then some n else none
  | .devfeat =>
    if F = df_UID then some Config.uid.toNat else if F = df_SPARES then some (sparesFree s) else none
  | .integrity =>
    if F = mi_LOGLEVEL then some s.milog.length
    else if F = mi_LOGHEAD then some (s.milog.headD 0)
    else if F = mi_FLIPARMED then some (b2n s.flip.isSome)
    else if F = mi_FRUSED then some s.otp.repairs.length
    else none
  | .oryxSlot =>
    let h := n / 64
    if F = ox_STAT_PENDING then some (slotPending s h (n % 64))
    else if F = ox_STAT_BUSY then some (b2n (slotBusy s h (n % 64)))
    else if F = ox_WAIT then some (statOf s h (n % 64))
    else if F = ox_OXENG_LEVEL then some (oryxOf s h).fifo.length
    else if F = ox_OXENG_RUN then some (b2n !(oryxOf s h).fifo.isEmpty)
    else if F = ox_OXFAULT_RSVW ∨ F = ox_OXFAULT_UECC then some (rd s F (h * 64))
    else none
  | .guard =>
    if F = gg_LOGLEVEL then some s.glog.length
    else if F = gg_LOGHEAD then some (s.glog.headD 0)
    else if F = gg_ENAST then
      some (((List.range 64).map (fun p => if enaPin s p then 2 ^ p else 0)).foldl (· + ·) 0)
    else none
  | .axisState =>
    let x := axisOf s n
    if F = gs_P1 then some (sat32 x.p1)
    else if F = gs_V then some (sat32 (x.p1 - x.p2))
    else if F = gs_STOPP then some (sat32 x.stopp)
    else none
  | .constraint => if F = gc_HOME then some (homeOf s n) else none
  | .timebase => if F = tb_TBNOW then some (now s) else none
  | .hostBoot =>
    if F = hb_MSIXPBA then
      some (((List.range 64).map (fun v => if rdb s hb_MSIXPBA 0 v then 2 ^ v else 0)).foldl (· + ·) 0)
    else none
  | .link =>
    let x := linkOf s n
    if F = lk_CRED_REQ then some (if x.has then x.credReq else 0)
    else if F = lk_CRED_RSP then some (if x.has then x.credRsp else 0)
    else if F = lk_UNACK then some (if x.has then x.replay.length else 0)
    else none
  | .routing =>
    if F = rt_RLOGLEVEL then some s.rlog.length else if F = rt_RLOGHEAD then some (s.rlog.headD 0) else none
  | .lifecycle =>
    if F = lc_LCSTATE then some s.otp.lcstate
    else if F = lc_LCPEND then some (b2n s.otp.pend.isSome)
    else if F = lc_RETURNS then some s.otp.returns
    else if F = lc_SLOTS then some (slotMask (fun k => (alGet s.otp.keys k).isSome))
    else if F = lc_REVOKED then some (slotMask (fun k => s.otp.revoked.contains k))
    else if F = lc_SVN then some s.otp.svn
    else if F = lc_DBGLEVEL then some s.lc.dbg
    else if F = lc_DBGNONCE then some (Config.random256 s.lc.nonce % 2 ^ 256)
    else if F = lc_VKEYHASH then (if s.otp.lcstate = 0 then none else some 0)
    else if F = lc_DEVKEY then some (ofBytesLE (((devKeyBytes s).drop (4 * i)).take 4))
    else none
  | .domain => if F = pd_DSTAT_TAP0 then some (Config.fuseTap0 n % 16) else none
  | .herdFence => if F = hf_SPAREBAD then some (spareBad s n) else none
  | .testService =>
    if F = ts_PHYSPOS then
      let k := rd s ts_PHYSKID
      some (if s.lc.dbg < 2 then 0x7F else ((kidOf s k).pos).getD (k % 64))
    else if F = ts_TAPIR then some s.tap.ir
    else none
  | _ => none

/-- What a field reads as (R12). -/
def fieldVal (s : State) (F : Fld) (n i : Nat) : Nat :=
  if F.acc = .wo ∨ F.acc = .w1p ∨ roleShut s F n = true then 0 else (derived s F n i).getD (rd s F n i)

/-- Byte o of a register block; reserved bits read as zero. -/
def regByte (s : State) (b : Blk) (n o : Nat) : Nat :=
  ((fieldsAt b o).map (fun f => f.1.show f.2 o (fieldVal s f.1 n f.2))).foldl (· + ·) 0

/-- Read nb bytes of a register block. -/
def regRead (s : State) (b : Blk) (n o nb : Nat) : Nat :=
  ofNats ((List.range nb).map (fun j => regByte s b n (o + j)))

/-! ### Fault registers (R13, R15) -/

/-- Where a block records a 1 written to a reserved bit. -/
def rsvwOf (b : Blk) (n : Nat) : Fld × Nat := match b with
  | .kidSr => (kd_KFAULT_RSVW, n)
  | .devfeat => (df_FAULT_RSVW, 0)
  | .icache => (ic_ICFAULT_RSVW, n)
  | .integrity => (mi_MIFAULT_RSVW, 0)
  | .prodPort | .consPort | .epConfig => (qx_EPFAULT_RSVW, n)
  | .hdc => (hd_HDCFAULT_RSVW, n)
  | .bridges => (br_BFAULT_RSVW, 0)
  | .oryxSlot => (ox_OXFAULT_RSVW, n / 64 * 64)
  | .axisPort => (ax_PFAULT_RSVW, n)
  | .guard | .envelope | .axisState | .constraint => (gg_GFAULT_RSVW, 0)
  | .camera => (cm_CFAULT_RSVW, n)
  | .timebase => (tb_TBFAULT_RSVW, 0)
  | .link => (lk_LFAULT_RSVW, n)
  | .routing => (rt_RFAULT_RSVW, 0)
  | .hostBoot => (hb_HFAULT_RSVW, 0)
  | .lifecycle => (lc_LCFAULT_RSVW, 0)
  | .power | .domain => (pm_PMFAULT_RSVW, 0)
  | .kidCtl => (kc_KCFAULT_RSVW, n)
  | .resetCtl => (rs_RSTFAULT_RSVW, 0)
  | .herdFence => (hf_HFFAULT_RSVW, n)
  | .testService => (ts_TSTFAULT_RSVW, 0)

/-- Where a block records a write that reached an IMG field. -/
def imgwOf (b : Blk) (n : Nat) : Fld × Nat := match b with
  | .kidSr => (kd_KFAULT_RSVW, n)
  | .devfeat => (df_FAULT_IMGW, 0)
  | .icache => (ic_ICFAULT_RSVW, n)
  | .integrity => (mi_MIFAULT_IMGW, 0)
  | .prodPort | .consPort | .epConfig => (qx_EPFAULT_IMGW, n)
  | .hdc => (hd_HDCFAULT_IMGW, n)
  | .bridges => (br_BFAULT_IMGW, 0)
  | .oryxSlot => (ox_OXFAULT_RSVW, n / 64 * 64)
  | .axisPort => (ax_PFAULT_IMGW, n)
  | .guard | .envelope | .axisState | .constraint => (gg_GFAULT_IMGW, 0)
  | .camera => (cm_CFAULT_IMGW, n)
  | .timebase => (tb_TBFAULT_IMGW, 0)
  | .link => (lk_LFAULT_IMGW, n)
  | .routing => (rt_RFAULT_IMGW, 0)
  | .hostBoot => (hb_HFAULT_IMGW, 0)
  | .lifecycle => (lc_LCFAULT_IMGW, 0)
  | .power | .domain => (pm_PMFAULT_IMGW, 0)
  | .kidCtl => (kc_KCFAULT_RSVW, n)
  | .resetCtl => (rs_RSTFAULT_IMGW, 0)
  | .herdFence => (hf_HFFAULT_IMGW, n)
  | .testService => (ts_TSTFAULT_IMGW, 0)

/-- A register fault bit is set: port, camera and link faults raise their source, host faults vector 2. -/
def faultBit (s : State) (f : Fld × Nat) : State := match f.1.blk with
  | .axisPort => portFault s f.1 f.2
  | .camera => camFault s f.1 f.2
  | .link => linkFault s f.1 f.2
  | .hostBoot => hfault s f.1
  | _ => wr s f.1 f.2 1

end Sys2Proof.Machine
end

