-- ==== Sys2Proof/Machine/Image.lean ====
section
/-!
DEFINITION. The Nalan image: its layout, VERIFY and APPLY (R376 to R386).
-/

namespace Sys2Proof.Machine

/-! ### Layout (R376 to R378) -/

/-- A section as its table entry gives it. -/
structure Sect where
  ty    : Nat
  flags : Nat
  off   : Nat
  len   : Nat
  arg   : Nat
deriving DecidableEq, Repr

/-- Entry i of the section table. -/
def sectAt (img : List Byte) (i : Nat) : Sect :=
  let e := 0x80 + 16 * i
  ⟨leAt img e 2, leAt img (e + 2) 2, leAt img (e + 4) 4, leAt img (e + 8) 4, leAt img (e + 12) 4⟩

def nsect (img : List Byte) : Nat := leAt img 6 2
def imgLen (img : List Byte) : Nat := leAt img 8 4
def imgSvn (img : List Byte) : Nat := leAt img 0xC 4
def keySlot (img : List Byte) : Nat := leAt img 0x10 1
def imgFlags (img : List Byte) : Nat := leAt img 0x11 1
def sectsOf (img : List Byte) : List Sect := (List.range (nsect img)).map (sectAt img)
/-- The bytes of a section. -/
def Sect.bytes (c : Sect) (img : List Byte) : List Byte := (img.drop c.off).take c.len

/-- Cut a byte string into records of n bytes. -/
def records (n : Nat) : Nat → List Byte → List (List Byte)
  | 0, _ => []
  | f + 1, bs => if bs.isEmpty then [] else bs.take n :: records n f (bs.drop n)
/-- The records of a section. -/
def Sect.recs (c : Sect) (img : List Byte) (n : Nat) : List (List Byte) := records n (c.len / n + 1) (c.bytes img)

/-- Record size of a section type, 0 where it has none. -/
def recSize (ty : Nat) : Nat :=
  if ty = 1 then 16 else if ty = 2 ∨ ty = 3 then 2 else if ty = 6 then 32 else if ty = 8 then 8 else if ty = 4 then 0 else 4

def allZero (bs : List Byte) : Bool := bs.all (fun b => b == 0)

/-! ### Signature (R383, R387, R389) -/

/-- Where a VERIFY or a request stops: code, REASON, section. -/
abbrev Verdict := Nat × Nat × Nat

/-- The signature block of an image. -/
def sigBlock (img : List Byte) : List Byte := (img.drop (imgLen img - 1024)).take 1024
/-- The key hash of the signature block. -/
def keyHash (img : List Byte) : Nat := ofBytesLE (sha256 ((sigBlock img).take 388))
/-- The hash that the signature covers. -/
def signedHash (img : List Byte) : List Byte := sha256 (img.take (imgLen img - 1024))

/-- The signature block is well formed, its key is the one expected, and the signature verifies. -/
def sigOk (img : List Byte) (hash : Option Nat) : Bool :=
  let b := sigBlock img
  leAt b 384 4 == 65537 && allZero ((b.drop 388).take 252) && hash == some (keyHash img) &&
    rsaVerify (b.take 384) (b.drop 640) (signedHash img)

/-- The slots that a lifecycle state accepts (R387). -/
def slotAccepted (st slot : Nat) : Bool :=
  if st = 1 then slot == 0 else if st = 2 ∨ st = 3 then decide (1 ≤ slot ∧ slot ≤ 4) else false

/-- A slot is accepted in the state, programmed and not revoked. -/
def slotOk (o : Otp) (slot : Nat) : Bool :=
  slotAccepted o.lcstate slot && (alGet o.keys slot).isSome && !o.revoked.contains slot

/-- The fields of R377 that name the device. -/
def productOk (img : List Byte) : Bool :=
  leAt img 0x12 2 == df_PRODUCT.rst && leAt img 0x14 1 == df_DIEREV.rst && leAt img 0x15 1 == df_ISAVER.rst

/-- The UID condition of DEVBIND. -/
def uidOk (img : List Byte) : Bool := !bit (imgFlags img) 1 || leAt img 0x20 16 == Config.uid.toNat

/-- The length is one that R376 allows. -/
def lenAllowed (img : List Byte) : Bool :=
  imgLen img % 8 == 0 && decide (0x80 + 16 * nsect img + 1024 ≤ imgLen img)

/-! ### Content: single sections (R385) -/

/-- The bits of a 32-bit register that the image may set. -/
def settable (b : Blk) (o : Nat) : Nat :=
  (List.range 4).foldl (fun m j =>
    m + 256 ^ j * ((fieldsAt b (o + j)).foldl (fun x f =>
      if f.1.acc = .rw ∨ f.1.acc = .img ∨ f.1.acc = .nrw then x ||| f.1.maskAt f.2 (o + j) else x) 0)) 0

/-- Whether a 32-bit register is listed. -/
def listed (b : Blk) (o : Nat) : Bool := (List.range 4).any (fun j => !(fieldsAt b (o + j)).isEmpty)

/-- A REGS record. -/
def regsReason (r : List Byte) : Nat :=
  let a := leAt r 0 8
  let m := leAt r 12 4
  if 2 ^ 40 ≤ a then 1
  else if a % 4 ≠ 0 then 3
  else match placeOf a with
    | .reg b _ o => if listed b o && (m &&& settable b o) == m then 0 else 3
    | .port _ o => if m = 0 ∧ (listed .prodPort o || listed .consPort o) = true then 0 else 3
    | _ => 3

/-- Where DATA may go, and the bytes of a word there. -/
def dataTarget (a n : Nat) : Bool :=
  let e := a + max n 1
  if a < 0x10_0000_0000 then decide (0x1000_0000 ≤ a ∧ e ≤ 0x10_0000_0000)
  else if a < 0x10_0800_0000 then decide (e ≤ 0x10_0800_0000)
  else match placeOf a, placeOf (e - 1) with
    | .mem, .mem =>
      if a < 0x12_0000_0000 then a / 0x1_0000 == (e - 1) / 0x1_0000 && decide ((e - 1) % 0x1_0000 < 0x800)
      else if a < 0x13_0000_0000 then a / 0x1_0000 == (e - 1) / 0x1_0000 && decide (0x3000 ≤ a % 0x1_0000)
      else a / 0x10_0000 == (e - 1) / 0x10_0000
    | _, _ => false

/-- What the content check has seen so far: endpoints used and rings, with their nodes, the fawns that endpoints connect to with theirs, kids and spares
of SPARE records, WIPE records, fawns of FAWNCFG records. -/
structure Seen where
  eps   : List (Nat × Nat) := []
  rings : List (Nat × Nat × Nat) := []
  fawns : List (Nat × Nat) := []
  kids  : List Nat := []
  subs  : List Nat := []
  wipes : Nat := 0
  cfg   : List Nat := []
deriving DecidableEq, Repr

/-- The fields of a QUEUE record (R379). -/
structure QRec where
  pnode : Nat
  pep   : Nat
  cnode : Nat
  cep   : Nat
  pag   : Nat
  cag   : Nat
  ring  : Nat
  cut   : Nat
deriving DecidableEq, Repr

def qrecOf (r : List Byte) : QRec :=
  ⟨leAt r 0 2, leAt r 2 2, leAt r 4 2, leAt r 6 2, leAt r 8 4, leAt r 12 4, leAt r 16 4, leAt r 20 2⟩
def QRec.base (q : QRec) : Nat := bits q.ring 23 0 * 4096
def QRec.log2 (q : QRec) : Nat := bits q.ring 28 24
def QRec.mpol (q : QRec) : Nat := bits q.ring 29 29

/-- The kind and code of an agent. -/
def agentKind (a : Nat) : Nat := bits a 31 30
def agentCode (a : Nat) : Nat := bits a 15 0

/-- An engine code of R380. -/
def engineOk (c : Nat) : Bool :=
  decide ((0x1000 ≤ c ∧ c < 0x1000 + 512) ∨ (0x2000 ≤ c ∧ c < 0x2004) ∨ (0x3000 ≤ c ∧ c < 0x3008) ∨ (0x4000 ≤ c ∧ c < 0x4000 + 168))

/-- The agent itself, without the bits that its kind does not use. -/
def agentId (a : Nat) : Nat × Nat :=
  (agentKind a, if agentKind a = 0 then bits a 14 0 else if agentKind a = 1 then bits a 8 0 else agentCode a)

/-- One endpoint of a QUEUE record, on node `node`, with its agent. -/
def endReason (x : Seen) (node e ag : Nat) : Nat × Seen :=
  let y : Seen := { x with eps := (node, e) :: x.eps }
  let c := agentCode ag
  if x.eps.contains (node, e) then (6, x)
  else if agentKind ag = 3 then (1, x)
  else if agentKind ag = 0 then (if bits ag 14 0 / 64 = e / 64 then (0, y) else (6, x))
  else if agentKind ag = 1 then (if bits ag 8 0 = e / 64 then (0, y) else (6, x))
  else if !engineOk c then (10, x)
  else if c < 0x4000 then (0, y)
  else if 16 ≤ (x.fawns.filter (fun f => f == (node, c))).length then (6, x)
  else (0, { y with fawns := (node, c) :: x.fawns })

/-- A QUEUE record. -/
def queueReason (x : Seen) (r : List Byte) : Nat × Seen :=
  let q := qrecOf r
  if !allZero (r.drop 22) ∨ bit q.ring 30 = true ∨ bit q.ring 31 = true ∨ 32768 ≤ q.pep ∨ 32768 ≤ q.cep then (1, x)
  else if q.pnode = q.cnode ∧ q.pep = q.cep then (6, x)
  else
    let (a, x) := endReason x q.pnode q.pep q.pag
    if a ≠ 0 then (a, x)
    else
      let (b, x) := endReason x q.cnode q.cep q.cag
      let size := 2 ^ q.log2
      if b ≠ 0 then (b, x)
      else if q.log2 < 12 ∨ 26 < q.log2 ∨ q.base % size ≠ 0 then (6, x)
      else if q.base < 0x1000_0000 ∨ 0x10_0000_0000 < q.base + size then (6, x)
      else if x.rings.any (fun g => g.1 == q.cnode && decide (q.base < g.2.1 + g.2.2 ∧ g.2.1 < q.base + size)) then (6, x)
      else if 0x800 ≤ q.cut then (10, x)
      else (0, { x with rings := (q.cnode, q.base, size) :: x.rings })

/-- A SPARE record. -/
def spareReason (x : Seen) (r : List Byte) : Nat × Seen :=
  let v := leAt r 0 4
  let k := bits v 14 0
  let sp := k / 64 * 2 + bits v 15 15
  if 65536 ≤ v then (1, x)
  else if x.kids.contains k ∨ x.subs.contains sp ∨ bit (Config.fuseSpareBad (k / 64)) (bits v 15 15) = true then (8, x)
  else (0, { x with kids := k :: x.kids, subs := sp :: x.subs })

/-- A WIPE record. -/
def wipeReason (x : Seen) (r : List Byte) : Nat × Seen :=
  if 16 ≤ x.wipes then (10, x) else if leAt r 6 2 ≠ 0 then (1, x) else (0, { x with wipes := x.wipes + 1 })

/-- A FAWNCFG record. -/
def fawnReason (x : Seen) (r : List Byte) : Nat × Seen :=
  let v := leAt r 0 4
  let f := bits v 7 0
  if 168 ≤ f ∨ 2 ^ 19 ≤ v ∨ x.cfg.contains f then (5, x) else (0, { x with cfg := f :: x.cfg })

/-- The first reason that a list of records gives. -/
def recsReason (f : Seen → List Byte → Nat × Seen) : Seen → List (List Byte) → Nat × Seen
  | x, [] => (0, x)
  | x, r :: rs => match f x r with
    | (0, y) => recsReason f y rs
    | (n, y) => (n, y)

/-- ARG of a section is as its type says. -/
def argOk (c : Sect) : Bool :=
  if c.ty = 2 then decide (c.arg < 2 ^ 30) else if c.ty = 3 then decide (c.arg < 256) else c.arg == 0

/-- The content of one section. -/
def sectReason (img : List Byte) (x : Seen) (c : Sect) : Nat × Seen :=
  let rs := c.recs img (recSize c.ty)
  if recSize c.ty ≠ 0 ∧ c.len % recSize c.ty ≠ 0 then (2, x)
  else if c.ty = 1 then recsReason (fun x r => (regsReason r, x)) x rs
  else if c.ty = 2 then (if 8192 < c.len ∨ bits c.arg 29 15 < bits c.arg 14 0 then 5 else 0, x)
  else if c.ty = 3 then (if 2048 < c.len ∨ 168 ≤ c.arg ∨ rs.any (fun r => decide (4096 ≤ leAt r 0 2)) = true then 5 else 0, x)
  else if c.ty = 4 then
    let bs := c.bytes img
    (if c.len < 8 ∨ leAt bs 0 8 % 8 ≠ 0 ∨ dataTarget (leAt bs 0 8) (c.len - 8) = false then 4 else 0, x)
  else if c.ty = 5 then recsReason (fun x r => (if 65536 ≤ leAt r 0 4 then 1 else 0, x)) x rs
  else if c.ty = 6 then recsReason queueReason x rs
  else if c.ty = 7 then recsReason spareReason x rs
  else if c.ty = 8 then recsReason wipeReason x rs
  else recsReason fawnReason x rs

/-- The place of a section: reason 2 where it is wrong, reason 1 where the bytes before it are not 0. `lo` is the end of what
stands before it. -/
def placeReason (img : List Byte) (lo : Nat) (c : Sect) : Nat :=
  if c.ty = 0 ∨ 9 < c.ty ∨ c.flags ≠ 0 ∨ argOk c = false then 1
  else if c.off % 8 ≠ 0 ∨ c.off < lo ∨ imgLen img - 1024 < c.off + c.len then 2
  else if !allZero ((img.drop lo).take (c.off - lo)) then 1
  else 0

/-- The sections in their order: REASON and index of the first that fails. -/
def sectsReason (img : List Byte) : Nat → Nat → Seen → List Sect → Nat × Nat
  | i, lo, _, [] => if allZero ((img.drop lo).take (imgLen img - 1024 - lo)) then (0, 0) else (1, i - 1)
  | i, lo, x, c :: cs => match placeReason img lo c with
    | 0 => match sectReason img x c with
      | (0, y) => sectsReason img (i + 1) (c.off + c.len) y cs
      | (n, _) => (n, i)
    | n => (n, i)

/-- The bytes of the header that must be 0. -/
def headerZero (img : List Byte) : Bool :=
  decide (imgFlags img < 4) && allZero ((img.drop 0x16).take 10) && allZero ((img.drop 0x30).take 0x50) &&
    (bit (imgFlags img) 1 || leAt img 0x20 16 == 0)

/-! ### What the records set (R378, R379, R381) -/

/-- The sections of a type. -/
def sectsTy (img : List Byte) (ty : Nat) : List Sect := (sectsOf img).filter (fun c => c.ty == ty)
/-- The records of all sections of a type, in order. -/
def recsTy (img : List Byte) (ty : Nat) : List (List Byte) :=
  ((sectsTy img ty).map (fun c => c.recs img (recSize ty))).flatten

/-- KRPT holds at most 256 (R111 case 4). -/
def capRpt (F : Fld) (v : Nat) : Nat :=
  if F = kd_KRPT_COUNT ∨ F = kd_KRPT_ECOUNT ∨ F = kd_KRPT_ICOUNT then min v 256 else v

/-- One field of a register as a REGS record leaves it: the record reaches bytes o to o + 3 of the block. -/
def maskField (s : State) (n o v m : Nat) (f : Fld × Nat) : State :=
  let lo := f.1.bitLo f.2
  let up (x : Nat) : Nat := if 8 * o ≤ lo then x / 2 ^ (lo - 8 * o) else x * 2 ^ (8 * o - lo)
  let w := 2 ^ f.1.w
  let m := up m % w
  let old := rd s f.1 n f.2
  wr s f.1 n (capRpt f.1 ((old &&& (w - 1 - m)) ||| (up v % w &&& m))) f.2

/-- The fields with bits in bytes o to o + nb - 1. -/
def fieldsIn (b : Blk) (o nb : Nat) : List (Fld × Nat) :=
  (((List.range nb).map (fun j => fieldsAt b (o + j))).flatten).eraseDups

/-- A REGS record (R378). -/
def regsOp (s : State) (r : List Byte) : State := match placeOf (leAt r 0 8) with
  | .reg b n o =>
    ((fieldsIn b o 4).filter (fun f => decide (f.1.acc = .rw ∨ f.1.acc = .img ∨ f.1.acc = .nrw))).foldl
      (fun s f => maskField s n o (leAt r 8 4) (leAt r 12 4) f) s
  | _ => s

/-- ROLE, OWNER, ENGINE and the peer of a local endpoint. -/
def endOp (s : State) (role e ag pnode pep : Nat) : State :=
  let s := wr (wr (wr s qx_ROLE e role) qx_PEERNODE e pnode) qx_PEEREP e pep
  if agentKind ag = 0 then wr s qx_OWNER e (bits ag 5 0)
  else if agentKind ag = 1 then wr s qx_OWNER e 0x40
  else wr (wr s qx_OWNER e 0x41) qx_ENGINE e (agentCode ag)

/-- A QUEUE record: the fields of its local endpoints, and the producer's free storage (R379). -/
def queueOp (s : State) (r : List Byte) : State :=
  let q := qrecOf r
  let me := rd s rt_NODEID
  let s := if q.pnode = me then
      let s := endOp s 1 q.pep q.pag q.cnode q.cep
      setProd s q.pep { prodOf s q.pep with pfree := 2 ^ q.log2 }
    else s
  if q.cnode = me then
    let s := endOp s 2 q.cep q.cag q.pnode q.pep
    relevel (wr (wr (wr (wr s qx_RINGBASE q.cep (bits q.ring 23 0)) qx_RINGLOG2 q.cep q.log2) qx_MPOL q.cep q.mpol) qx_CUT q.cep q.cut) q.cep
  else s

/-- A FAWNCFG record. -/
def fawncfgOp (s : State) (r : List Byte) : State :=
  let v := leAt r 0 4
  let f := bits v 7 0
  wr (wr (wr s lc_FCFG_RINGHERD 0 (bits v 16 8) f) lc_FCFG_RINGEN 0 (bits v 17 17) f) lc_FCFG_HOSTEN 0 (bits v 18 18) f

/-! ### Content: the image as a whole (R206, R214, R385, R386, R460) -/

/-- The queues that no queue of the list leads on from are taken out, again and again; what stays lies on or before a cycle. -/
def peel (me : Nat) : Nat → List QRec → List QRec
  | 0, l => l
  | n + 1, l =>
    peel me n (l.filter (fun a => l.any (fun b => a.cnode == me && b.pnode == me && agentId a.cag == agentId b.pag)))

/-- A dependency cycle (R386). -/
def hasCycle (me : Nat) (l : List QRec) : Bool := !(peel me l.length l).isEmpty

/-- The stops and constraints of the guard (reason 9). -/
def guardOk (s : State) : Bool :=
  (List.range 1024).all (fun a => rd s ge_DEC a != 0 && rd s ge_CLSENV a != 0 && rd s ge_CLSSTALE a != 0 &&
    decide ((constraintsOf s a).length ≤ 8) &&
    (!assigned s a || (let e := rd s ge_CMDEP a
      role s e == 2 && ownedByEngine s e (0x2000 + axisTile a) && e / 8192 == axisTile a))) &&
  (List.range 256).all (fun j => rd s gc_CCLASS j != 0) &&
  (List.range 4).all (fun t =>
    decide (((((List.range 256).map (fun i => t * 256 + i)).filter (assigned s)).map (fun a => rd s ge_CMDEP a)).eraseDups.length ≤ 64))

/-- The doorbell sources that events, bridges and alarms are mapped to: herd and source. -/
def mappedSources (s : State) : List (Nat × Nat) :=
  let pick (m : Bool) (h src : Nat) : List (Nat × Nat) := if m then [(h, src)] else []
  ((List.range 32768).map (fun e => pick (rdb s qx_EPDB_MAPPED e) (rd s qx_EPDB_HERD e) (16 + rd s qx_EPDB_SRC e))).flatten ++
  ((List.range 512).map (fun h => pick (rdb s hd_OXDB_MAPPED h) h (16 + rd s hd_OXDB_SRC h))).flatten ++
  ((List.range 16).map (fun i => pick (rdb s br_MAPPED 0 i) (rd s br_HERD 0 i) (rd s br_SOURCE 0 i))).flatten ++
  ((List.range 64).map (fun p => pick (rdb s ax_PDB_MAPPED p) (rd s ax_PDB_HERD p) (16 + rd s ax_PDB_SRC p))).flatten ++
  ((List.range 8).map (fun c => pick (rdb s cm_CDB_MAPPED c) (rd s cm_CDB_HERD c) (16 + rd s cm_CDB_SRC c))).flatten ++
  ((List.range 8).map (fun i => pick (rdb s tb_ALM_MAPPED 0 i) (rd s tb_ALM_HERD 0 i) (16 + rd s tb_ALM_SRC 0 i))).flatten ++
  pick (rdb s pm_WAKEMAP_MAPPED) (rd s pm_WAKEMAP_HERD) (16 + rd s pm_WAKEMAP_SRC)

/-- The fields of an axis port are in the range that the image sets (R255, R279). -/
def portOk (s : State) (p : Nat) : Bool :=
  let ph := rd s ax_CYCPHASE p
  decide (rd s ax_PCFG_LEAD p < axPositions s p ∧ (rd s ax_PCFG_CMDLEAD p = 1 ∨ rd s ax_PCFG_CMDLEAD p = 2) ∧
    rd s ax_PCFG_EXPCHIPS p ≤ 16 ∧ ph % 200 = 0 ∧ ph + 200 ≤ period s p)

/-- The limits of a rail are in the operating range (R456, R460). -/
def railOk (s : State) (r : Nat) : Bool :=
  decide ((if r = 5 then 750 else 550) ≤ rd s pm_VMIN 0 r ∧ rd s pm_VMIN 0 r ≤ rd s pm_VMAX 0 r ∧ rd s pm_VMAX 0 r ≤ 950)

/-- The other ranges (reason 10). -/
def rangesOk (s : State) : Bool :=
  (List.range 64).all (portOk s) && (List.range 6).all (railOk s) && rd s gg_BRCLASS != 0 &&
  (List.range 8).all (fun c => rd s cm_CCFG_LANES c == 1 || rd s cm_CCFG_LANES c == 2 || rd s cm_CCFG_LANES c == 4) &&
  (List.range 16).all (fun i => !rdb s br_MAPPED 0 i || decide (16 ≤ rd s br_SOURCE 0 i ∧ rd s br_SOURCE 0 i ≤ 63)) &&
  (List.range 4096).all (fun r => decide (rd s rt_RPLEN 0 r ≤ 16 ∧ rd s rt_RLINK 0 r ≤ 11)) &&
  (List.range 32768).all (fun e => decide (rd s qx_ROLE e ≠ 3 ∧ rd s qx_OWNER e ≤ 0x41 ∧
    (rd s qx_ROLE e = 2 → 12 ≤ rd s qx_RINGLOG2 e ∧ rd s qx_RINGLOG2 e ≤ 26))) &&
  (mappedSources s).all (fun m => decide (m.2 ≤ 63)) && (mappedSources s).eraseDups.length == (mappedSources s).length

/-- The last section of a type. -/
def lastOf (img : List Byte) (ty : Nat) : Nat :=
  ((List.range (nsect img)).filter (fun i => (sectAt img i).ty == ty)).getLastD 0

/-- Check 6: REASON and section, 0 where the content is accepted (R385). Cycles are charged to the last QUEUE section, and ranges to the last
REGS section. -/
def content (s : State) (img : List Byte) : Nat × Nat :=
  if !headerZero img then (1, 0)
  else
    let regs := ((recsTy img 1).filter (fun r => regsReason r == 0)).foldl regsOp s
    let me := rd regs rt_NODEID
    match sectsReason img 0 (0x80 + 16 * nsect img) {} (sectsOf img) with
    | (0, _) =>
      let full := (recsTy img 6).foldl queueOp regs
      if hasCycle me ((recsTy img 6).map qrecOf) then (7, lastOf img 6)
      else if !guardOk full then (9, lastOf img 1)
      else if !rangesOk full then (10, lastOf img 1)
      else (0, 0)
    | r => r

/-! ### VERIFY (R384) -/

/-- Whether the image came from the host. -/
def fromHost (s : State) : Bool := rdb s hb_BOOTSTAT_SRC

/-- The checks of R384 in their order: a code of 0 accepts the image. -/
def verdict (s : State) (img : List Byte) : Verdict :=
  let n := imgLen img
  if leAt img 0 4 ≠ 0x314C_414E ∨ leAt img 4 2 ≠ 1 then (0x30, 0, 0)
  else if 2 ^ 28 < n then (0x14, 0, 0)
  else if 4096 < nsect img ∨ lenAllowed img = false ∨ (fromHost s = true ∧ rd s hb_HIMGLEN ≠ n) then (0x30, 0, 0)
  else if !productOk img then (0x30, 0, 0)
  else if !slotOk s.otp (keySlot img) then (0x31, 0, 0)
  else if !sigOk img (alGet s.otp.keys (keySlot img)) then (if fromHost s then 0x21 else 0x13, 0, 0)
  else if imgSvn img < s.otp.svn ∨ uidOk img = false then (0x31, 0, 0)
  else match content s img with
    | (0, _) => (0, 0, 0)
    | (r, i) => (0x30, r, i)

/-- VDETAIL (R385). -/
def setDetail (s : State) (r i : Nat) : State := wr (wr s lc_VDETAIL_REASON 0 r) lc_VDETAIL_SECTION 0 i

/-- The image is not accepted. -/
def verifyFail (s : State) (v : Verdict) : State :=
  let s := setDetail s v.2.1 v.2.2
  if s.host.flashTry then flashFail s v.1 else bootFail s v.1

/-- The staged image, none where a word of it is uncorrectable. -/
def stagedImage (s : State) : Option (List Byte) × State :=
  match memRead s 0 128 imageRq with
  | (none, s) => (none, s)
  | (some h, s) => memRead s 0 (max 128 (min (imgLen h) (2 ^ 28))) imageRq

/-- VERIFY ends. -/
def verifyOp (s : State) : State :=
  match stagedImage s with
  | (none, s) => verifyFail s (0x30, 15, 0)
  | (some img, s) => match verdict s img with
    | (0, _) => setPhase (setDetail s 0 0) 6
    | v => verifyFail s v

/-! ### APPLY (R378, R385) -/

/-- A SPARE record. -/
def spareOp (s : State) (r : List Byte) : State :=
  let v := leAt r 0 4
  let k := bits v 14 0
  setKid s k { kidOf s k with pos := some (64 + bits v 15 15) }

/-- A KIDCFG record. -/
def kidcfgOp (s : State) (r : List Byte) : State := wr s kd_KMODE_SUP (bits (leAt r 0 4) 14 0) (bits (leAt r 0 4) 15 15)

/-- The kids of a KIDPROG section. -/
def progKids (c : Sect) : List Nat :=
  (List.range (bits c.arg 29 15 + 1 - bits c.arg 14 0)).map (fun i => bits c.arg 14 0 + i)

/-- Pad to whole words, so that every write is full. -/
def padTo (n : Nat) (bs : List Byte) : List Byte := bs ++ List.replicate ((n - bs.length % n) % n) 0

/-- A DATA, KIDPROG or FAWNPROG section. -/
def loadOp (s : State) (img : List Byte) (c : Sect) : State :=
  let bs := c.bytes img
  if c.ty = 2 then (progKids c).foldl (fun s k => memWrite s (0x11_0000_2000 + k * 0x1_0000) bs imageRq) s
  else if c.ty = 3 then memWrite s (fawnProgAddr c.arg 0) bs imageRq
  else if c.ty = 4 then memWrite s (leAt bs 0 8) (padTo (if leAt bs 0 8 < 0x10_0000_0000 then 8 else 4) (bs.drop 8)) imageRq
  else s

/-- A WIPE record into entry i of the wipe table. -/
def wipeEntry (s : State) (i : Nat) (r : List Byte) : State :=
  wr (wr s lc_WBASE 0 (leAt r 0 3) i) lc_WLEN 0 (leAt r 3 3) i

/-- The wipe table is the image's. -/
def wipesOp (s : State) (rs : List (List Byte)) : State :=
  (List.range 16).foldl (fun s i => wipeEntry s i (rs.getD i [])) s

/-- The unit of a fawn is fenced. -/
def fawnFenced (s : State) (f : Nat) : Bool :=
  if f < 128 then bit (rd s ts_FENCEP) (f / 2)
  else if f < 144 then bit (rd s ts_FENCEC) ((f - 128) / 2)
  else bit (rd s ts_FENCEL) ((f - 144) / 2)

/-- A fawn with a program starts; where its unit is fenced it starts when the unit next leaves DOWN (R437). -/
def startFawnAt (s : State) (f : Nat) : State :=
  if fawnFenced s f then setFawn s f { fawnOf s f with st := .fenced } else startFawn s f

/-- A kid with a program leaves KID reset. -/
def startKidAt (s : State) (k : Nat) : State := startKid (wr s kc_KCTL_RSTHOLD k 0) k

/-- The camera ports of this node that a QUEUE record names as an engine. -/
def namedCams (me : Nat) (img : List Byte) : List Nat :=
  (List.range 8).filter (fun c => (recsTy img 6).any (fun r =>
    let q := qrecOf r
    (q.pnode == me && agentId q.pag == (2, 0x3000 + c)) || (q.cnode == me && agentId q.cag == (2, 0x3000 + c))))

/-- Start (step 8). -/
def startOp (s : State) (img : List Byte) : State :=
  let kids := ((sectsTy img 2).map progKids).flatten
  let s := dropRegs s (fun k => k.isOf kc_KCTL_RSTHOLD)
  let s := kids.foldl startKidAt s
  let s := ((sectsTy img 3).map (fun c => c.arg)).foldl startFawnAt s
  let s := ((List.range 64).filter (fun p => rd s ax_PCFG_EXPCHIPS p != 0)).foldl portStart s
  let s := ((List.range 12).filter (fun l => rdb s lk_LCFG_EN l)).foldl linkStart s
  let s := (namedCams (rd s rt_NODEID) img).foldl camStart s
  (assignedAxes s).foldl (fun s a => wr s gs_ASTATE a 1) (wr s gg_ENAST 0 0)

/-- Everything before the start, in the fixed order. -/
def applyAll (s : State) (img : List Byte) : State :=
  let s := (recsTy img 7).foldl spareOp s
  let s := (recsTy img 5).foldl kidcfgOp s
  let s := (recsTy img 1).foldl regsOp s
  let s := (recsTy img 9).foldl fawncfgOp ((recsTy img 6).foldl queueOp s)
  let s := (sectsOf img).foldl (fun s c => loadOp s img c) s
  let s := wipesOp s (recsTy img 8)
  if bit (imgFlags img) 0 then { s with otp := { s.otp with svn := max s.otp.svn (imgSvn img) } } else s

/-- RUNNING: BOOTTIME, and what runs. -/
def runningOp (s : State) (img : List Byte) : State :=
  let s := wr (wr s lc_IMGSLOT 0 (keySlot img)) lc_IMGHASH 0 (ofBytesLE (signedHash img))
  endReset (setPhase (wr s hb_BOOTTIME 0 (now s)) 7)

/-- The section that holds byte o of the image. -/
def sectOfByte (img : List Byte) (o : Nat) : Nat :=
  ((List.range (nsect img)).find? (fun i => decide ((sectAt img i).off ≤ o ∧ o < (sectAt img i).off + (sectAt img i).len))).getD 0

/-- The first byte, rounded down to a word, that cannot be read. -/
def firstBad (s : State) : Nat → Nat → Nat
  | 0, a => a
  | n + 1, a => match locOf a with
    | some w => if (decodeAt s w).bad then a else firstBad s n (a + 8)
    | none => a

/-- APPLY ends: in RUNNING, or at an uncorrectable word with REASON 15 and its section. -/
def applyOp (s : State) : State :=
  match stagedImage s with
  | (some img, s) => runningOp (startOp (applyAll s img) img) img
  | (none, s) =>
    let img := memGetMany s.mem 0 (min (imgLen (memGetMany s.mem 0 128)) (2 ^ 28))
    bootFail (setDetail s 15 (sectOfByte img (firstBad s (2 ^ 25) 0))) 0x30

end Sys2Proof.Machine
end

