-- ==== Sys2Proof/Machine/Reset.lean ====
section
/-!
DEFINITION. HERD and DOMAIN resets (R420, R422, R423, R427, R428).
-/

namespace Sys2Proof.Machine

/-! ### What a HERD reset reaches (R423) -/

/-- The herd's SRAM data that a reset zeroes: shared memory below 0x3_2000, mailbox, queue buffers but for what a tail buffer
still has to send. -/
def herdRam (s : State) (h a : Nat) : Bool :=
  decide (0x10_0000_0000 + h * 0x4_0000 ≤ a ∧ a < 0x10_0000_0000 + h * 0x4_0000 + 0x3_2000) ||
    decide (0x12_0000_2000 + h * 0x1_0000 ≤ a ∧ a < 0x12_0000_3000 + h * 0x1_0000) ||
    (decide (queueBufBase + h * 0x1_0000 ≤ a ∧ a < queueBufBase + (h + 1) * 0x1_0000) &&
      !tailKeeps s ((a - queueBufBase) / 0x400) a)

/-- A repeat table stays of a bank of herd h: none of a mailbox or a queue buffer, of shared memory the entries of kept words. -/
def rptKept (h : Nat) (e : Nat × List RptEnt) : Nat × List RptEnt :=
  let t := e.1 / 2 ^ 28
  if ownerHerd e.1 ≠ some h then e
  else if t = 6 ∨ t = 9 then (e.1, [])
  else if t = 3 then (e.1, e.2.filter (fun r => decide (0x3_2000 ≤ r.addr * 4)))
  else e

/-- Zero the herd's SRAM data. -/
def zeroHerd (s : State) (h : Nat) : State :=
  let s := dropMerges (clearMem s (herdRam s h)) (fun b => ownerHerd b == some h)
  { s with rpts := (s.rpts.map (rptKept h)).filter (fun e => !e.2.isEmpty) }

/-- The kids of a herd. -/
def herdKids (h : Nat) : List Nat := (List.range 64).map (fun j => h * 64 + j)

/-- A HERD reset takes effect. The herd is held first, so that the completions of its kids are absorbed. -/
def resetHerd (s : State) (h : Nat) : State :=
  let s := { s with rst := { s.rst with herds := h :: s.rst.herds.filter (fun x => x != h) } }
  let s := (herdKids h).foldl resetKid s
  let s := setHdc (resetBlk (resetOryx s h) .hdc h) h { msgs := (hdcOf s h).msgs }
  let s := (herdKids h).foldl resetEndpoint s
  setIcache (resetBlk (zeroHerd s h) .icache h) h {}

/-- The messages that waited at a herd's boundary set PEND (R420). -/
def releaseMsgs (s : State) (h : Nat) : State :=
  let c := hdcOf s h
  c.msgs.foldl (fun s m => pendSource s h m.toNat) (setHdc s h { c with msgs := [] })

/-- A HERD reset ends: the kids leave KID reset unless RSTHOLD holds them (R426). -/
def endHerd (s : State) (h : Nat) : State :=
  let s := { s with rst := { s.rst with herds := s.rst.herds.filter (fun x => x != h) } }
  let s := releaseMsgs s h
  ((herdKids h).filter (fun k => !rdb s kc_KCTL_RSTHOLD k)).foldl startKid s

/-! ### DOMAIN resets -/

/-- The herds of a herd-group domain. -/
def domHerds (d : Nat) : List Nat :=
  if d < 144 ∧ d % 36 < 32 then (List.range 4).map (fun i => d / 36 * 128 + d % 36 * 4 + i) else []

/-- Domains that DOMGO can name (R422). -/
def domGoOk (d : Nat) : Bool := decide (d < 144) && (decide (d % 36 < 32) || d % 36 == 34 || d % 36 == 35)

/-- The arrays of ports, cameras, links and the guard in a domain; sighting templates are kept (R423). -/
def edgeRam (d b : Nat) : Bool :=
  let r := b % 2 ^ 28
  b / 2 ^ 28 == 9 && decide (0x8000 ≤ r) && bankDom b == d && !(decide (0xA000 ≤ r ∧ r < 0xB000) && r % 4 == 2)

/-- Zero them. -/
def zeroEdge (s : State) (d : Nat) : State :=
  let s := clearMem s (fun a => match locOf a with
    | some w => edgeRam d w.bank
    | none => false)
  dropMerges (clearRpts s (edgeRam d)) (fun b => decide (b / 2 ^ 28 = 9 ∨ b / 2 ^ 28 = 4) && bankDom b == d)

/-- A fawn that has a program starts again; one whose unit is fenced waits for it. -/
def restartFawn (s : State) (f : Nat) : State :=
  let w := fawnOf s f
  if w.st = .off ∨ w.st = .fenced then s else setFawn s f { pc := 0, st := .running }

/-- A link in a DOMAIN reset: DOWN, its sequence state discarded as a PROTO fault does. -/
def resetLink (s : State) (l : Nat) : State :=
  let s := resetBlk (linkStop (loseSeq s l) l) .link l
  let s := setLink s l { linkOf s l with taps := [(2, 5), (2, 5), (2, 5), (2, 5)], outTime := [], timeMsgs := [] }
  restartFawn (restartFawn s (rxFawn l)) (txFawn l)

/-- An axis port in a DOMAIN reset. -/
def resetPort (s : State) (p : Nat) : State :=
  let s := setPort (resetBlk (portStop s p) .axisPort p) p {}
  restartFawn (restartFawn s (2 * p)) (2 * p + 1)

/-- A camera port in a DOMAIN reset. -/
def resetCam (s : State) (c : Nat) : State :=
  let s := setCam (resetBlk (camStop s c) .camera c) c {}
  restartFawn (restartFawn s (setupFawn c)) (statusFawn c)

/-- The guard's histories on a tile are zero, and its axes are no longer seeded. -/
def resetSlice (s : State) (t : Nat) : State :=
  let own (e : Nat × Axis) : Bool := axisTile e.1 == t
  let s := { s with axes := s.axes.filter (fun e => !own e), gstops := s.gstops.filter (fun g => g.tile != t) }
  dropRegs s (fun k => k.isOf gs_SEEDED && axisTile k.inst == t)

/-- What a domain holds takes its reset state (R422, R423). -/
def resetDomain (s : State) (d : Nat) : State :=
  let t := d / 36
  if 144 ≤ d then s
  else if d % 36 < 32 then (domHerds d).foldl resetHerd s
  else if d % 36 = 34 then zeroEdge ((List.range 3).foldl (fun s i => resetLink s (t * 3 + i)) s) d
  else if d % 36 = 35 then
    let s := (List.range 16).foldl (fun s i => resetPort s (t * 16 + i)) s
    let s := (List.range 2).foldl (fun s i => resetCam s (t * 2 + i)) s
    zeroEdge (resetSlice s t) d
  else s

/-- A DOMAIN reset with a set end begins; a gated domain wakes first (R428 case 3). -/
def startDomReset (s : State) (d : Nat) : State :=
  let s := stampAt { s with rst := { s.rst with doms := d :: s.rst.doms.filter (fun x => x != d) } } (.domReset d)
  let s := if pstate s d = 1 then touch s d else if pstate s d = 2 then s else wr s pd_DSTAT_PSTATE d 3
  resetDomain s d

/-- A domain leaves DOMAIN reset. -/
def endDomReset (s : State) (d : Nat) : State :=
  let s := { s with rst := { s.rst with doms := s.rst.doms.filter (fun x => x != d) } }
  if rdb s pd_DSTAT_TRIMFAIL d || s.pow.trip then s
  else (domHerds d).foldl endHerd (wr s pd_DSTAT_PSTATE d 0)

/-! ### Reset control (R421, R422, R427, R428) -/

/-- A reset of wider reach covers herd h. -/
def widerHerd (s : State) (h : Nat) : Bool :=
  s.rst.inReset || s.rst.doms.contains (herdDom h) || pstate s (herdDom h) == 3

/-- RSTCTL.HERDGO. -/
def herdgoOp (s : State) : State :=
  let h := rd s rs_RSTHERD
  if widerHerd s h then wr s rs_RSTFAULT_BUSYGO 0 1 else stampAt (resetHerd (touch s (herdDom h)) h) (.herd h)

/-- RSTCTL.DOMGO. -/
def domgoOp (s : State) : State :=
  let d := rd s rs_RSTDOM
  if !domGoOk d then wr s rs_RSTFAULT_REFUSED 0 1
  else if s.rst.inReset then wr s rs_RSTFAULT_BUSYGO 0 1
  else startDomReset s d

/-- WARM. -/
def execWarm (byKid : Bool) (s : State) : Out := served s (fun s => warmOp s byKid)
/-- HERDGO. -/
def execHerdgo (s : State) : Out := served s herdgoOp
/-- DOMGO. -/
def execDomgo (s : State) : Out := served s domgoOp

/-- Whether the HERD reset of herd h can end now: 8 µs after its request (R420). -/
def herdEnds (s : State) (h : Nat) : Bool :=
  s.rst.herds.contains h && pstate s (herdDom h) == 0 && !s.rst.doms.contains (herdDom h) && decide (8000 ≤ since s (.herd h))

/-- Whether the DOMAIN reset of domain d can end now: 2 µs after its request (R420). -/
def domEnds (s : State) (d : Nat) : Bool := s.rst.doms.contains d && pstate s d == 3 && decide (2000 ≤ since s (.domReset d))

end Sys2Proof.Machine
end

