-- ==== Sys2Proof/Machine/Power.lean ====
section
/-!
DEFINITION. Power domains, device states, supply and thermal events, and the margin loop (R399 to R419, R456 to R473).
-/

namespace Sys2Proof.Machine

/-! ### Domains and rails (R399, R410, R413) -/

/-- The compute domains. -/
def computeDom (d : Nat) : Bool := decide (d < 144)

/-- Domains that may gate themselves (R399). -/
def selfGates (d : Nat) : Bool := computeDom d || d == 147 || d == 148 || d == 149 || d == 151

/-- Whether the taps of domain d follow monitor m: VDDK0 to VDDK3, VDDO, VDDS; the others have no taps (R399, R410). -/
def onRail (m d : Nat) : Bool :=
  let c := d % 36
  if m < 4 then decide (d < 144) && d / 36 == m
  else if m = 4 then decide (d < 144 ∧ c < 32)
  else if m = 5 then (decide (d < 144) && (decide (c ≤ 32) || c == 35)) || d == 151
  else false

/-- A supply warning holds domain d at tap 15: one that lasts, or one whose taps wait to return. -/
def warned (s : State) (d : Nat) : Bool := s.pow.warn.any (fun w => onRail w.1 d) || s.pow.back.any (fun m => onRail m d)

/-- The trimmed tap of a domain. -/
def trimOf (s : State) (d : Nat) : Nat := (alGet s.pow.trims d).getD pd_DSTAT_TAP.rst

/-- An MNOTE bit changes from 0 to 1: source 4 (R415). -/
def note (s : State) (F : Fld) : State := if rdb s F then s else raiseFault (wr s F 0 1) 4

/-! ### Measurements (R412, R414) -/

/-- The least slack of a measurement. -/
def leastSlack (m : Meas) : Int := match m.slack with
  | [] => 0
  | x :: xs => xs.foldl min x

/-- The first measurement of domain d in a list, and the list without it; the last of a domain stays. -/
def takeMeas (d : Nat) : List Meas → Option (Meas × List Meas)
  | [] => none
  | m :: ms =>
    if m.dom.val = d then some (m, if ms.any (fun x => x.dom.val == d) then ms else m :: ms)
    else (takeMeas d ms).map (fun p => (p.1, m :: p.2))

/-- A measurement's results in the domain block; predictions are rounded down to whole ps. -/
def record (s : State) (d : Nat) (m : Meas) : State :=
  let g := 100 + rd s pm_GBAND
  let s := wr s pd_TPREDK d (m.step * g / 100)
  let s := if (domHerds d).isEmpty then s else wr s pd_TPREDO d (m.ostep * g / 100)
  wr (wr s pd_SLACK d (twos 16 (leastSlack m))) pd_AGEIDX d m.age

/-- The trimmed tap of a domain changes; the tap in use follows unless a supply warning holds it (R414, R419 case 3). -/
def setTap (s : State) (d t : Nat) : State :=
  let s : State := { s with pow := { s.pow with trims := alSet s.pow.trims d t } }
  let s := if warned s d then s else wr s pd_DSTAT_TAP d t
  note s pm_MNOTE_REPLAN

/-- TRIMFAIL (R415 case 4). -/
def trimFail (s : State) (d : Nat) : State :=
  let s := note (wr s pd_DSTAT_TRIMFAIL d 1) pm_MNOTE_TRIMFAIL
  let s := (domHerds d).foldl (fun s h => setHdc s h { hdcOf s h with msgs := [] }) (resetDomain s d)
  wr s pd_DSTAT_PSTATE d 3

/-- The loop's first part for one domain: the tap moves by one and is measured again, or the domain fails. The answer holds the
measurements left and the latest one of the domain. -/
def trimOne (s : State) (d : Nat) (ms : List Meas) : State × List Meas × Option Meas :=
  match takeMeas d ms with
  | none => (s, ms, none)
  | some (m, ms) =>
    let least := leastSlack m
    let lo : Int := rd s pm_SLACKMIN
    let tap := trimOf s d
    let again (s : State) : State × List Meas × Option Meas := match takeMeas d ms with
      | some (m, ms) => (record s d m, ms, some m)
      | none => (s, ms, some m)
    if least < lo then
      if tap < 15 then again (setTap s d (tap + 1)) else (trimFail (record s d m) d, ms, none)
    else if 0 < tap ∧ lo + rd s pm_SLACKHYS ≤ least - Config.tapGain d then again (setTap s d (tap - 1))
    else (record s d m, ms, some m)

/-- The domains that the loop measures: those that are powered. -/
def poweredDoms (s : State) : List Nat := (List.range 152).filter (fun d => pstate s d == 0)

/-! ### Rails (R413 to R416) -/

/-- A prediction in hundredths of a ps against pct hundredths of the ceiling, on rail r. -/
def within (s : State) (r d pct : Nat) (m : Meas) : Bool :=
  let g := 100 + rd s pm_GBAND
  if r = 4 then decide (m.ostep * g ≤ rd s pd_CEILO d * pct) else decide (m.step * g ≤ rd s pd_CEILK d * pct)

/-- The domains on an AVSBus rail whose ceilings bind it. -/
def railDoms (s : State) (r : Nat) : List Nat := if r < 5 then (poweredDoms s).filter (onRail r) else []

/-- All domains of a rail are within a share of their ceilings. -/
def railHolds (s : State) (r pct : Nat) (cur : List (Nat × Meas)) : Bool :=
  (railDoms s r).all (fun d => match alGet cur d with
    | some m => within s r d pct m
    | none => true)

/-- VSTEP; 0 acts as 1. -/
def vstep (s : State) : Nat := max 1 (rd s pm_VSTEP)

/-- Measure the domains of a rail again. -/
def remeasure : List Nat → State → List (Nat × Meas) → List Meas → State × List (Nat × Meas) × List Meas
  | [], s, cur, ms => (s, cur, ms)
  | d :: ds, s, cur, ms => match takeMeas d ms with
    | some (m, ms) => remeasure ds (record s d m) (alSet cur d m) ms
    | none => remeasure ds s cur ms

/-- A rail is raised step by step until its domains are within their ceilings or it stands at VMAX. -/
def raiseRail (r : Nat) : Nat → State → List (Nat × Meas) → List Meas → State × List (Nat × Meas) × List Meas
  | 0, s, cur, ms => (s, cur, ms)
  | n + 1, s, cur, ms =>
    if railHolds s r 100 cur ∨ rdb s pm_AVSERR 0 r = true ∨ rd s pm_VMAX 0 r ≤ rd s pm_VSET 0 r then (s, cur, ms)
    else
      let s := wr s pm_VSET 0 (min (rd s pm_VSET 0 r + vstep s) (rd s pm_VMAX 0 r)) r
      let (s, cur, ms) := remeasure (railDoms s r) s cur ms
      raiseRail r n s cur ms

/-- A rail is lowered by one step. -/
def lowerRail (s : State) (r : Nat) : State :=
  if rdb s pm_AVSERR 0 r ∨ rd s pm_VSET 0 r ≤ rd s pm_VMIN 0 r then s
  else wr s pm_VSET 0 (max (rd s pm_VSET 0 r - vstep s) (rd s pm_VMIN 0 r)) r

/-- VDDS has no ceiling: whether an SRAM canary asks for more, and whether a pass lowers it, is open (assumption 1). -/
def trimVdds (s : State) (cur : List (Nat × Meas)) : State :=
  let short := cur.any (fun e => onRail 5 e.1 && decide (leastSlack e.2 < rd s pm_SLACKMIN))
  let (b, s) := freshBool s
  if !b then s
  else if short then
    (if rdb s pm_AVSERR 0 5 ∨ rd s pm_VMAX 0 5 ≤ rd s pm_VSET 0 5 then s
     else wr s pm_VSET 0 (min (rd s pm_VSET 0 5 + vstep s) (rd s pm_VMAX 0 5)) 5)
  else lowerRail s 5

/-- One rail's pass. -/
def railPass (r : Nat) (s : State) (cur : List (Nat × Meas)) (ms : List Meas) : State × List (Nat × Meas) × List Meas :=
  if r = 5 then (trimVdds s cur, cur, ms)
  else
    let (s, cur, ms) := raiseRail r 4096 s cur ms
    if railHolds s r (100 - rd s pm_HYST) cur then (lowerRail s r, cur, ms) else (s, cur, ms)

/-- Every rail in turn. -/
def railsPass : List Nat → State → List (Nat × Meas) → List Meas → State × List (Nat × Meas)
  | [], s, cur, _ => (s, cur)
  | r :: rs, s, cur, ms => match railPass r s cur ms with
    | (s, cur, ms) => railsPass rs s cur ms

/-- HELD and LOW of a domain (R415 cases 1 and 2). -/
def holdCeil (s : State) (e : Nat × Meas) : State :=
  let d := e.1
  if 144 ≤ d then s
  else
    let ok := within s 0 d 100 e.2 && ((domHerds d).isEmpty || within s 4 d 100 e.2)
    let was := rdb s pd_DSTAT_LOW d
    let s := wrb (wrb s pd_DSTAT_HELD d ok) pd_DSTAT_LOW d !ok
    if !ok then note s pm_MNOTE_LOW else if was then note s pm_MNOTE_REPLAN else s

/-- The taps of every powered domain, with the latest measurement of each. -/
def trimAll : List Nat → State → List Meas → State × List Meas × List (Nat × Meas)
  | [], s, ms => (s, ms, [])
  | d :: ds, s, ms => match trimOne s d ms with
    | (s, ms, m) => match trimAll ds s ms with
      | (s, ms, cur) => (s, ms, (m.map (fun m => (d, m))).toList ++ cur)

/-- A pass of the margin loop (R414). -/
def marginOp (s : State) (ms : List Meas) : State :=
  let (s, ms, cur) := trimAll (poweredDoms s) s ms
  let (s, cur) := railsPass [0, 1, 2, 3, 4, 5] s cur ms
  cur.foldl holdCeil s

/-- The target voltage in mV that stands on AVSBus for a rail: in DEEP every rail is off (R404). -/
def railTarget (s : State) (r : Nat) : Nat := if s.pow.deep then 0 else rd s pm_VSET 0 r

/-- A rail's frame has been acknowledged. -/
def avsAck (s : State) (r : Nat) : State :=
  wr { s with pow := { s.pow with acked := alSet s.pow.acked r (rd s pm_VSET 0 r) } } pm_AVSERR 0 0 r

/-- A rail's port has failed: the rail is taken to stay at its last acknowledged value. -/
def avsLost (s : State) (r : Nat) : State :=
  wr (wr s pm_AVSERR 0 1 r) pm_VSET 0 ((alGet s.pow.acked r).getD (rd s pm_VSET 0 r)) r

/-- The rails of an AVSBus port (R44). -/
def avsRails (port : Nat) : List Nat := if port = 0 then [0, 1] else if port = 1 then [2, 3] else if port = 2 then [4] else [5]

/-- The failed attempts of a port since its last success or its last AVSERR. -/
def avsTries (s : State) (port : Nat) : Nat := (alGet s.pow.tries port).getD 0

/-- One AVSBus attempt of a port (R416). -/
def avsOp (s : State) (port : Nat) (ok : Bool) : State :=
  let n := avsTries s port + 1
  let put (s : State) (n : Nat) : State := { s with pow := { s.pow with tries := alSet s.pow.tries port n } }
  if ok then (avsRails port).foldl avsAck (put s 0)
  else if n < 3 then stampAt (put s n) (.avs port)
  else wr ((avsRails port).foldl avsLost (put s 0)) pm_MNOTE_AVSERR 0 1

/-- DCTL.RETRY (R415 case 5). -/
def retryOp (s : State) (d : Nat) (m : Meas) : State :=
  if !rdb s pd_DSTAT_TRIMFAIL d then s
  else
    let s := record s d m
    if (rd s pm_SLACKMIN : Int) ≤ leastSlack m then endDomReset (wr s pd_DSTAT_TRIMFAIL d 0) d else s

/-- A measurement whose results are open, for a RETRY written where no measurement is given (assumption 1). -/
def openMeas (s : State) (d : DomId) : Meas × State :=
  let (a, s) := freshNat s
  let (b, s) := freshNat s
  let (c, s) := freshNat s
  let (e, s) := freshNat s
  (⟨d, [(a : Int)], b, c, e⟩, s)

/-! ### Device states (R402 to R406, R419) -/

/-- Every axis port, camera port and link is DOWN or FAULT. -/
def allQuiet (s : State) : Bool :=
  (List.range 64).all (fun p => portState s p == 0 || portState s p == 5) &&
    (List.range 8).all (fun c => camState s c == 0 || camState s c == 2) &&
    (List.range 12).all (fun l => linkState s l == 0 || linkState s l == 3)

/-- A domain gates. -/
def gateOp (s : State) (d : Nat) : State := incr (wr s pd_DSTAT_PSTATE d 1) pd_GATES d

/-- The kids that run. -/
def runningKids (s : State) : List Nat :=
  (s.regs.filter (fun e => e.1.isOf kc_KSTAT_STATE && e.2 == 0)).map (fun e => e.1.inst)

/-- The device enters WATCH: compute domains gate, VDDK and VDDO go to VMIN. -/
def enterWatch (s : State) : State :=
  let old := (List.range 5).map (fun r => rd s pm_VSET 0 r)
  let s := ((List.range 144).filter (fun d => pstate s d == 0)).foldl gateOp s
  let s := (List.range 5).foldl (fun s r => if rdb s pm_AVSERR 0 r then s else wr s pm_VSET 0 (rd s pm_VMIN 0 r) r) s
  stampAt (wr { s with pow := { s.pow with first := true, vsave := old } } pm_PMSTAT_STATE 0 2) .pass

/-- The device enters DEEP: what lies outside domain 144 loses its state. -/
def enterDeep (s : State) : State :=
  let t := deviceReset s keptDeep
  let p : PowerSt := { powKept s.pow with deep := true, trip := s.pow.trip }
  wr { t with pow := p, tb := {}, milog := [] } pm_PMSTAT_BUSY 0 0

/-- A request that waited in BUSY enters its state: RUN or DOZE after WATCH, or DEEP. -/
def endRequest (s : State) (st : Nat) (asked : Bool) : State :=
  let s := wr s pm_PMSTAT_BUSY 0 0
  let s := if asked then wr s pm_PMSTAT_RES 0 1 else s
  if st = 3 then enterDeep s
  else
    let back := s.pow.vsave
    let s := (List.range back.length).foldl (fun s r => if rdb s pm_AVSERR 0 r then s else wr s pm_VSET 0 (back.getD r 0) r) s
    let s := wr { s with pow := { s.pow with want := none, first := false, vsave := [] } } pm_PMSTAT_STATE 0 st
    (runningKids s).foldl (fun s k => touch s (herdDom (herdOfKid k))) s

/-- A request waits to enter its state. -/
def beginRequest (s : State) (st : Nat) (asked : Bool) : State :=
  wr { s with pow := { s.pow with want := some (st, asked) } } pm_PMSTAT_BUSY 0 1

/-- WATCH is left: BUSY stands for the 100 µs of R405, and until every power-good input is asserted (R406). -/
def leaveWatch (s : State) (st : Nat) (asked : Bool) : State :=
  let t := stampAt (beginRequest s st asked) .rise
  { t with pow := { t.pow with rising := (List.range 10).filter (fun i => !bit t.pins.pg i) } }

/-- The way out of WATCH is over: rails restored and settled, power-good confirmed (R405). -/
def watchTick (s : State) : State := match s.pow.want with
  | some (st, asked) =>
    if st < 3 ∧ rd s pm_PMSTAT_STATE = 2 ∧ s.pins.pg = 0x3FF ∧ 100000 ≤ since s .rise then endRequest s st asked else s
  | none => s

/-- PMCTL.GO (R403). -/
def pmGo (s : State) : State :=
  let req := rd s pm_PMCTL_REQ
  let st := rd s pm_PMSTAT_STATE
  let res (n : Nat) : State := wr s pm_PMSTAT_RES 0 n
  if rdb s pm_PMSTAT_BUSY then wr s pm_PMFAULT_BUSYGO 0 1
  else if 4 ≤ req ∨ req = st ∨ st = 4 then res 3
  else if 2 ≤ req ∧ allQuiet s = false then res 2
  else if req = 3 then (if s.lc.busy.isSome then beginRequest s 3 true else endRequest s 3 true)
  else if req = 2 then enterWatch (res 1)
  else if st = 2 then leaveWatch s req true
  else wr (res 1) pm_PMSTAT_STATE 0 req

/-- A host access in WATCH that must wait for RUN (R419 case 4). -/
def watchAccess (s : State) : State :=
  if rd s pm_PMSTAT_STATE = 2 ∧ rdb s pm_PMSTAT_BUSY = false then leaveWatch s 0 false else s

/-- A write of PMCTL with GO. -/
def reqOp (s : State) (req : Nat) : State := pmGo (wr s pm_PMCTL_REQ 0 req)

/-! ### Gating (R400, R401, R405, R407) -/

/-- Kid k gives its domain no activity. -/
def kidIdle (s : State) (k : Nat) : Bool :=
  let c := kidOf s k
  c.sbuf.isEmpty && c.deliv.isNone && (kstate s k != 0 || queueWait c)

/-- Fawn f gives its domain no activity. -/
def fawnIdle (s : State) (f : Nat) : Bool := (fawnOf s f).st != .running || (fawnOf s f).wait.isSome

/-- Herd h gives its domain no activity. -/
def herdIdle (s : State) (h : Nat) : Bool :=
  (herdKids h).all (kidIdle s) && (oryxOf s h).fifo.isEmpty && (nextClaim s h).isNone && (icacheOf s h).fills.isEmpty &&
    !s.rst.herds.contains h && !rdb s hf_HSTAT_BISTRUN h

/-- No handshake crosses the domain's boundary or passes inside it. -/
def domIdle (s : State) (d : Nat) : Bool :=
  let t := d / 36
  if d < 144 then
    if d % 36 < 32 then (domHerds d).all (herdIdle s)
    else if d % 36 = 34 then
      (List.range 3).all (fun i => let l := t * 3 + i
        (linkState s l == 0 || linkState s l == 3) && fawnIdle s (rxFawn l) && fawnIdle s (txFawn l))
    else if d % 36 = 35 then
      (List.range 16).all (fun i => let p := t * 16 + i
        (portState s p == 0 || portState s p == 5) && fawnIdle s (2 * p) && fawnIdle s (2 * p + 1)) &&
      (List.range 2).all (fun i => let c := t * 2 + i
        (camState s c == 0 || camState s c == 2) && (camOf s c).fit.isNone && fawnIdle s (setupFawn c) && fawnIdle s (statusFawn c)) &&
      s.axes.all (fun e => axisTile e.1 != t || (e.2.chk.isNone && astate s e.1 != 3))
    else true
  else
    let quiet := 7 ≤ rd s hb_BOOTSTAT_PHASE
    if d = 147 then quiet else if d = 148 then quiet && s.lc.busy.isNone && !s.lc.writing else if d = 149 then s.cip.isNone else true

/-- The idle count of a domain in µs: DOZEIDLE in DOZE, else the IDLE that stood when it was last active (R400, R419 case 8). -/
def idleCount (s : State) (d : Nat) : Nat :=
  if rd s pm_PMSTAT_STATE = 1 then max 1 (rd s pm_DOZEIDLE) else (alGet s.clk.idles d).getD (rd s pd_DCTL_IDLE d)

/-- Whether a domain can gate now: it has been idle for its idle count. -/
def canGate (s : State) (d : Nat) : Bool :=
  selfGates d && pstate s d == 0 && !s.pow.deep && !inHold s && decide (0 < idleCount s d) && domIdle s d &&
    !s.rst.doms.contains d && decide (idleCount s d * 1000 ≤ since s (.dom d))

/-- A domain is active now: its idle time starts anew. -/
def activeDom (s : State) (d : Nat) : State :=
  let s := stampAt s (.dom d)
  { s with clk := { s.clk with idles := alSet s.clk.idles d (rd s pd_DCTL_IDLE d) } }

/-- The herds that may be active: those of which the state lists something. -/
def listedHerds (s : State) : List Nat :=
  let keys {α : Type} (l : List (Nat × α)) : List Nat := l.map Prod.fst
  let listed := s.regs.filter (fun (e : RegKey × Nat) => decide (e.1.blk = .hdc ∨ e.1.blk = .herdFence))
  ((keys s.kids ++ runningKids s).map (fun k => k / 64) ++ keys s.oryxes ++ keys s.icaches ++ keys s.hdcs ++ s.rst.herds ++
    listed.map (fun (e : RegKey × Nat) => e.1.inst)).eraseDups

/-- The domains that something is active in. -/
def activeDoms (s : State) : List Nat :=
  (((listedHerds s).filter (fun h => !herdIdle s h)).map herdDom).eraseDups ++
    ((List.range 8).map (fun i => i / 2 * 36 + 34 + i % 2) ++ [147, 148, 149]).filter (fun d => !domIdle s d)

/-- One 1 GHz period of the model's clock, which shows which domains are active, and the power controller's work in it. -/
def powTick (s : State) : State :=
  let s : State := { s with clk := { s.clk with ticks := s.clk.ticks + 1 } }
  watchTick ((activeDoms s).foldl activeDom s)

/-- The banks of a retention check: SRAM banks of the domain. -/
def wakeBanksOk (d : Nat) (bad : List BankId) : Bool :=
  bad.all (fun b => bankExists b.toNat && b.toNat / 2 ^ 28 != 8 && bankDom b.toNat == d)

/-- A bank fails its retention check (R407). -/
def bankLost (s : State) (b : Nat) : State :=
  let s := clearBank s b
  let s := wr (incr s pm_RETLOST) pm_RETLAST 0 b
  let s := raiseFault (wr s pm_MNOTE_RETLOST 0 1) 8
  if b / 2 ^ 28 = 2 then resetKidAlone s (b % 2 ^ 28) else s

/-- The wake-up delay of a domain in ns (R405). -/
def wakeDelay (d : Nat) : Nat :=
  if 144 ≤ d then 5000
  else if d % 36 < 32 then 1200
  else if d % 36 = 32 then 800
  else if d % 36 = 33 then 12000
  else if d % 36 = 34 then 10000
  else 1500

/-- A wake-up ends, before what waited proceeds: the banks that failed, the measurement, the domain on or in its reset. -/
def wakeOp (s : State) (d : Nat) (bad : List BankId) (m : Meas) : State :=
  let s := bad.foldl (fun s b => bankLost s b.toNat) (activeDom (incr s pd_WAKES d) d)
  let s := wr s pd_DSTAT_PSTATE d (if s.rst.doms.contains d then 3 else 0)
  let s := (trimOne s d [m]).1
  if pstate s d = 0 then (domHerds d).foldl (fun s h => if s.rst.herds.contains h then s else releaseMsgs s h) s else s

/-! ### WATCH (R408, R409) -/

/-- The sample of comparator i: its value, none where it is off, and whether the sample failed. -/
def watchSample (s : State) (temps : List (BitVec 16)) (pins : Nat) (ports : List WatchSample) (i : Nat) : Option (Option Int) :=
  let x := rd s pm_WIDX 0 i
  match rd s pm_WSEL 0 i with
  | 1 => match ports.find? (fun w => w.port.val == axisPort x) with
    | some w =>
      let fb := (w.fb.getD (x % 16) 0).toNat
      if w.good && bit fb 48 then some (some (sext 32 fb)) else some none
    | none => some none
  | 2 => if x < 5 then some (some ((temps.getD x 0).toInt)) else none
  | 3 => if x < 16 then some (some (if bit pins x then 1 else 0)) else none
  | _ => none

/-- Comparator i is evaluated: whether it fires, and the state with its registers. -/
def watchOne (s : State) (v : Option (Option Int)) (i : Nat) : Bool × State :=
  match v with
  | none => (false, s)
  | some none => (true, wr (wr s pm_WHIT 0 1 i) pm_WERR 0 1 i)
  | some (some x) =>
    let s := if s.pow.first then wr s pm_WREF 0 (twos 32 x) i else s
    let base : Int := if rdb s pm_WREL 0 i then sext 32 (rd s pm_WREF 0 i) else 0
    if x < base + sext 32 (rd s pm_WLO 0 i) ∨ base + sext 32 (rd s pm_WHI 0 i) < x then (true, wr s pm_WHIT 0 1 i) else (false, s)

/-- A sample pass (R408). -/
def passOp (s : State) (temps : List (BitVec 16)) (pins : Nat) (ports : List WatchSample) : State :=
  let s := (List.range 5).foldl (fun s i => wr s pm_TEMP 0 (temps.getD i 0).toNat i) s
  let (hit, s) := (List.range 16).foldl (fun (p : Bool × State) i =>
    let (h, s) := watchOne p.2 (watchSample p.2 temps pins ports i) i
    (p.1 || h, s)) (false, s)
  let s : State := stampAt { s with pow := { s.pow with first := false } } .pass
  if hit then
    raiseMapped (leaveWatch s 0 false) (rdb s pm_WAKEMAP_MAPPED) (rd s pm_WAKEMAP_HERD) (16 + rd s pm_WAKEMAP_SRC)
  else s

/-! ### Supply and temperature (R410, R411, R471) -/

/-- The domains on a monitor's rail run at tap 15. -/
def tapsFull (s : State) (m : Nat) : State :=
  ((List.range 152).filter (onRail m)).foldl (fun s d => wr s pd_DSTAT_TAP d 15) s

/-- A supply warning starts. -/
def warnOp (s : State) (m : Nat) : State :=
  let p : PowerSt := { s.pow with warn := s.pow.warn ++ [(m, s.tb.count)], back := s.pow.back.filter (fun x => x != m) }
  let s := stampAt (tapsFull { s with pow := p } m) (.warn m)
  raiseFault (wr s pm_SUPSTAT 0 (setBit (rd s pm_SUPSTAT) m)) 3

/-- Whether monitor m's warning is in force. -/
def warns (s : State) (m : Nat) : Bool := s.pow.warn.any (fun w => w.1 == m)

/-- A supply warning ends; with the last brown stop's warning, BRACTIVE. -/
def warnEnd (s : State) (m low dur : Nat) : State :=
  let start : Time := (alGet s.pow.warn m).getD 0
  let p : PowerSt := { s.pow with warn := alDel s.pow.warn m, brown := s.pow.brown.filter (fun x => x != m),
                                  back := if m < 6 then s.pow.back ++ [m] else s.pow.back }
  let was := !s.pow.brown.isEmpty
  let s := wr (incr { s with pow := p } pm_WARNCNT 0 m) pm_SUPLAST 0 (m + low * 2 ^ 8 + dur * 2 ^ 16 + start.toNat * 2 ^ 64)
  let s := stampAt (wr s pm_SUPSTAT 0 (clrBit (rd s pm_SUPSTAT) m)) (.warn m)
  if was && s.pow.brown.isEmpty then brownEnds s else s

/-- The taps of a rail's domains return after one measurement (R410). -/
def tapsOp (s : State) (m : Nat) (ms : List Meas) : State :=
  let s : State := { s with pow := { s.pow with back := s.pow.back.filter (fun x => x != m) } }
  ((List.range 152).filter (onRail m)).foldl (fun s d =>
    let s := (trimOne s d (ms.filter (fun x => x.dom.val == d))).1
    if warned s d then s else wr s pd_DSTAT_TAP d (trimOf s d)) s

/-- A brown stop is signalled. -/
def brownOp (s : State) (m : Nat) : State :=
  let s := incr { s with pow := { s.pow with brown := s.pow.brown ++ [m] } } pm_BROWNCNT
  brownStopOp s

/-- A power-good input changes (R45, R52, R406, R459). -/
def pgOp (s : State) (i : Nat) (up : Bool) : State :=
  let pg := if up then setBit s.pins.pg i else clrBit s.pins.pg i
  let t : State := { s with pins := { s.pins with pg := pg } }
  let t : State := if up then { t with pow := { t.pow with rising := t.pow.rising.filter (fun x => x != i) } } else t
  if up then t
  else if i < 9 ∧ s.pow.deep = false ∧ inHold s = false ∧ 1 < rd s hb_BOOTSTAT_PHASE ∧ warns s i = false then warnOp t i
  else t

/-- A power-good input has not been asserted within WAKETO of the wake-up that raised its rail (R406). One that rose and fell again, and one that is
late at power-up, has no such effect: reset waits for it (R52 case 2, R459). -/
def wakeToDue (s : State) (i : Nat) : Bool := s.pow.rising.contains i && !s.pow.deep && !inHold s &&
  decide (max 1 (rd s pm_WAKETO) * 1000000 ≤ since s .rise)

/-- A tile grows hot (R411). -/
def hotOp (s : State) (t temp : Nat) : State :=
  let s : State := { s with pow := { s.pow with hot := t :: s.pow.hot } }
  raiseFault (wr (wr s pm_TEMP 0 temp t) pm_MNOTE_THERM 0 1) 5

/-- It has cooled. -/
def coolOp (s : State) (t temp : Nat) : State :=
  let s : State := { s with pow := { s.pow with hot := s.pow.hot.filter (fun x => x != t) } }
  wr s pm_TEMP 0 temp t

/-- THERMTRIP_N asserts (R52 case 5, R471); an OTP write under way is left to the next INIT (R473 case 2). -/
def tripOp (s : State) : State :=
  tripHold (faultHold { s with pow := { s.pow with trip := true }, lc := { s.lc with writing := false } } 0)

/-! ### Commands -/

/-- REQ_RUN. -/
def execReqRun (s : State) : Out := served s (fun s => reqOp s 0)
/-- REQ_DOZE. -/
def execReqDoze (s : State) : Out := served s (fun s => reqOp s 1)
/-- REQ_WATCH. -/
def execReqWatch (s : State) : Out := served s (fun s => reqOp s 2)
/-- REQ_DEEP. -/
def execReqDeep (s : State) : Out := served s (fun s => reqOp s 3)
/-- GATE. -/
def execGate (d : DomId) (s : State) : Out := due s (canGate s d) (gateOp s d)
/-- SAMPLE_PASS. -/
def execSamplePass (temps : List (BitVec 16)) (pins : BitVec 16) (ports : List WatchSample) (s : State) : Out :=
  due s (rd s pm_PMSTAT_STATE == 2 && !rdb s pm_PMSTAT_BUSY && !s.pow.deep &&
    decide (max 1 (rd s pm_WPERIOD) * 1000000 ≤ since s .pass)) (passOp s temps pins.toNat ports)
/-- DEEPWAKE: a DBIN pin set in DEEPWAKE, or PERST_N rising. -/
def execDeepwake (src : Option (Fin 16)) (s : State) : Out :=
  match src with
  | some i => due s (s.pow.deep && !inHold s && bit (rd s pm_DEEPWAKE) i) (deepWake s)
  | none => due s (s.pow.deep && !inHold s && !s.host.perst) (perstOp s true)
/-- WAKETO. -/
def execWaketo (i : Fin 10) (s : State) : Out := due s (wakeToDue s i) (faultHold s (i.val + 1))
/-- POWER_GOOD. -/
def execPowerGood (i : Fin 10) (up : Bool) (s : State) : Out := .next (pgOp s i up)
/-- SUPPLY_WARNING. -/
def execSupplyWarning (m : Fin 9) (s : State) : Out := due s (!warns s m && !s.pow.deep) (warnOp s m)
/-- WARNING_ENDS. -/
def execWarningEnds (m : Fin 9) (low : Byte) (dur : BitVec 24) (s : State) : Out :=
  due s (warns s m) (warnEnd s m low.toNat dur.toNat)
/-- TAPS_RETURN: 10 µs after the warning has ended. -/
def execTapsReturn (m : Fin 9) (ms : List Meas) (s : State) : Out :=
  due s (s.pow.back.contains m.val && decide (10000 ≤ since s (.warn m))) (tapsOp s m ms)
/-- BROWN_STOP: the warning has lasted for VWDUR. -/
def execBrownStop (m : Fin 9) (s : State) : Out :=
  due s (warns s m && !s.pow.brown.contains m.val && decide (max 1 (rd s pm_VWDUR) * 1000 ≤ since s (.warn m))) (brownOp s m)
/-- VRST: the monitors of other rails are off in DEEP. -/
def execVrst (_m : Fin 9) (s : State) : Out := due s (!s.pow.deep) (coldReset s 3)
/-- TWARN. -/
def execTwarn (t : Fin 4) (temp : BitVec 16) (s : State) : Out :=
  due s (!s.pow.deep && !s.pow.hot.contains t.val && decide ((rd s pm_TWARN * 4 : Nat) < temp.toInt)) (hotOp s t temp.toNat)
/-- THERMAL_WARNING_END. -/
def execThermalWarningEnd (t : Fin 4) (temp : BitVec 16) (s : State) : Out :=
  due s (s.pow.hot.contains t.val && decide (temp.toInt ≤ (rd s pm_TWARN : Int) * 4 - 12)) (coolOp s t temp.toNat)
/-- THERMTRIP_N. -/
def execThermtripN (s : State) : Out := due s (!s.pow.trip) (tripOp s)
/-- MARGIN_LOOP: every MPERIOD ms every powered domain is measured. -/
def execMarginLoop (ms : List Meas) (s : State) : Out :=
  due s (decide (rd s pm_PMSTAT_STATE ≤ 1) && !s.pow.deep && (poweredDoms s).all (fun d => ms.any (fun m => m.dom.val == d)) &&
    decide (max 1 (rd s pm_MPERIOD) * 1000000 ≤ since s .loop)) (stampAt (marginOp s ms) .loop)
/-- AVS_RETRY: a first attempt, or one 10 µs after a failed one. -/
def execAvsRetry (port : Fin 4) (ok : Bool) (s : State) : Out :=
  due s (avsTries s port == 0 || decide (10000 ≤ since s (.avs port))) (avsOp s port ok)

end Sys2Proof.Machine
end

