-- ==== Sys2Proof/Machine/Lifecycle.lean ====
section
/-!
DEFINITION. Lifecycle requests, attestation and provisioning (R387 to R398).
-/

namespace Sys2Proof.Machine

/-! ### The request (R389) -/

/-- The bytes of REQBUF. -/
def reqBuf (s : State) : List Byte := ((List.range 512).map (fun i => bytesLE 8 (rd s lc_REQBUF 0 i))).flatten

/-- The request that a section type names. -/
def reqKind (ty : Nat) : Option LcReq :=
  if ty = 0x101 then some .claim else if ty = 0x102 then some .advance else if ty = 0x103 then some .revoke
  else if ty = 0x104 then some .debug else none

/-- Bytes that a request's section payload must have. -/
def payloadLen : LcReq → Nat
  | .claim => 33
  | .advance | .revoke => 1
  | .debug => 40
  | .attest => 0

/-- Its one section. -/
def reqSect (img : List Byte) : Sect := sectAt img 0
/-- Its payload. -/
def payload (img : List Byte) : List Byte := (reqSect img).bytes img

/-- The section stands where R376 allows it, with every byte that must be 0. -/
def reqSectOk (img : List Byte) (k : LcReq) : Bool :=
  let c := reqSect img
  c.flags == 0 && c.arg == 0 && c.off % 8 == 0 && decide (0x90 ≤ c.off ∧ c.off + c.len ≤ imgLen img - 1024 ∧ payloadLen k ≤ c.len) &&
    allZero ((img.drop 0x90).take (c.off - 0x90)) && allZero ((img.drop (c.off + c.len)).take (imgLen img - 1024 - (c.off + c.len)))

/-- A well-formed request: checks 1 and 2 of R384, DEVBIND, one lifecycle section. -/
def parseReq (img : List Byte) : Option LcReq :=
  if leAt img 0 4 = 0x314C_414E ∧ leAt img 4 2 = 1 ∧ nsect img = 1 ∧ lenAllowed img = true ∧ imgLen img ≤ img.length ∧
      productOk img = true ∧ headerZero img = true ∧ bit (imgFlags img) 1 = true then
    (reqKind (reqSect img).ty).filter (reqSectOk img)
  else none

/-! ### How a request ends (R391) -/

/-- A request ends with LCRES and vector 3; a DEEP that waited for it is entered (R419 case 9). -/
def lcEnd (s : State) (res : Nat) : State :=
  let s : State := { s with lc := { s.lc with busy := none } }
  let s := msix (wr (wr s lc_LCBUSY 0 0) lc_LCRES 0 res) 3
  match s.pow.want with
  | some (3, asked) => endRequest s 3 asked
  | _ => s

/-- LCGO (R389, R398 case 1). -/
def lcgoOp (s : State) : State :=
  let ph := rd s hb_BOOTSTAT_PHASE
  if rdb s lc_LCBUSY ∨ (ph ≠ 7 ∧ ph ≠ 8) then wr s lc_LCFAULT_BUSYGO 0 1
  else
    let run (k : LcReq) (b : List Byte) : State := wr { s with lc := { s.lc with busy := some (k, b) } } lc_LCBUSY 0 1
    match rd s lc_LCOP with
    | 1 => match parseReq (reqBuf s) with
      | some k => run k (reqBuf s)
      | none => lcEnd s 4
    | 2 => run .attest []
    | _ => lcEnd s 4

/-- Checks 3 to 5 of R384 with SVN ignored: 0, or the LCRES code. A CLAIM made in VENDOR is signed by the key it claims (R390). -/
def reqCheck (s : State) (k : LcReq) (img : List Byte) : Nat :=
  let own := k = .claim ∧ s.otp.lcstate = 1
  let slot := keySlot img
  let hash := if own then some (leAt (payload img) 0 32) else alGet s.otp.keys slot
  if (own ∧ slot ≠ 1) ∨ (¬ own ∧ slotOk s.otp slot = false) then 3
  else if !sigOk img hash then 2
  else if !uidOk img then 5
  else 0

/-- A change of the lifecycle state begins (R388, R392): FAULT-HOLD, and LCPEND with its record. LCBUSY stays until the reset. -/
def changeState (s : State) (st : Nat) (key : Option (Nat × Nat)) : State :=
  let t := stampAt (faultHold s 0) .otp
  { t with otp := { t.otp with pend := some (st, key) }, lc := { t.lc with busy := none, writing := true } }

/-- The longest that the OTP write takes, in ns: 2 s for provisioning, else 5 ms (R388, R392). -/
def otpLimit (st : Nat) : Nat := if st = 1 then 2000000000 else 5000000

/-- The OTP write ends: the new state stands, LCPEND is clear, and a COLD reset with a full wipe follows (R388, R392). -/
def otpDone (s : State) : State := coldReset { s with otp := s.otp.complete } 4

/-- One 1 GHz period of an OTP write, which ends at an open time within its limit (assumption 1). -/
def lcTick (s : State) : State := match s.lc.writing, s.otp.pend with
  | true, some (st, _) =>
    let (ends, s) := freshBool s
    if ends || decide (otpLimit st ≤ since s .otp) then otpDone s else s
  | _, _ => s

/-- CLAIM. -/
def claimReq (s : State) (img : List Byte) : State :=
  let p := payload img
  let slot := leAt p 32 1
  let hash := leAt p 0 32
  match reqCheck s .claim img with
  | 0 =>
    if slot = 0 ∨ 4 < slot then lcEnd s 4
    else if s.otp.lcstate = 1 then (if slot = 1 then changeState s 2 (some (1, hash)) else lcEnd s 3)
    else if (List.range 4).all (fun i => (alGet s.otp.keys (i + 1)).isSome) then lcEnd s 7
    else if (alGet s.otp.keys slot).isSome then lcEnd s 3
    else lcEnd { s with otp := { s.otp with keys := alSet s.otp.keys slot hash } } 1
  | n => lcEnd s n

/-- ADVANCE. -/
def advanceReq (s : State) (img : List Byte) : State :=
  let dest := leAt (payload img) 0 1
  let st := s.otp.lcstate
  match reqCheck s .advance img with
  | 0 =>
    if st = 3 ∧ dest = 2 then (if s.otp.returns = 0 then lcEnd s 7 else changeState s 2 none)
    else if (st = 1 ∧ dest = 4) ∨ (st = 2 ∧ dest = 3) ∨ ((st = 2 ∨ st = 3) ∧ dest = 4) then changeState s dest none
    else lcEnd s 3
  | n => lcEnd s n

/-- REVOKE. -/
def revokeReq (s : State) (img : List Byte) : State :=
  let slot := leAt (payload img) 0 1
  match reqCheck s .revoke img with
  | 0 =>
    if slot = 0 ∨ 4 < slot then lcEnd s 4
    else if (s.otp.lcstate ≠ 2 ∧ s.otp.lcstate ≠ 3) ∨ slot = keySlot img ∨ (alGet s.otp.keys slot).isNone then lcEnd s 3
    else lcEnd { s with otp := { s.otp with revoked := slot :: s.otp.revoked.filter (fun x => x != slot) } } 1
  | n => lcEnd s n

/-- The highest debug level that a token can give in a state (R387). -/
def tokenLevel (st : Nat) : Nat := if st = 1 ∨ st = 2 then 2 else if st = 3 then 1 else 0

/-- DEBUG. -/
def debugReq (s : State) (img : List Byte) : State :=
  let p := payload img
  let lvl := leAt p 0 1
  match reqCheck s .debug img with
  | 0 =>
    if tokenLevel s.otp.lcstate < lvl then lcEnd s 3
    else if leAt p 8 32 ≠ Config.random256 s.lc.nonce % 2 ^ 256 then lcEnd s 6
    else
      let was := s.lc.dbg
      let s := lcEnd { s with lc := { s.lc with dbg := lvl } } 1
      if was < 2 ∧ lvl = 2 then debugStop s else s
  | n => lcEnd s n

/-! ### Attestation (R395) -/

/-- The 256-byte report. -/
def reportBytes (s : State) : List Byte :=
  bytesLE 4 0x5441_4C4E ++ bytesLE 16 Config.uid.toNat ++ bytesLE 2 df_PRODUCT.rst ++ bytesLE 1 df_DIEREV.rst ++
    bytesLE 1 df_ISAVER.rst ++ bytesLE 1 s.otp.lcstate ++ bytesLE 1 (rd s lc_IMGSLOT) ++ bytesLE 1 s.lc.dbg ++
    bytesLE 1 (rd s hb_BOOTSTAT_PHASE) ++ bytesLE 4 s.otp.svn ++ bytesLE 32 (rd s lc_IMGHASH) ++ bytesLE 32 (rd s lc_NONCE) ++
    bytesLE 8 (rd s hb_BOOTTIME) ++ bytesLE 8 (now s) ++ List.replicate 144 0

/-- Write REPORT. -/
def putReport (s : State) (bs : List Byte) : State :=
  (List.range 80).foldl (fun s i => wr s lc_REPORT 0 (leAt bs (8 * i) 8) i) s

/-- ATTEST: the report and its signature; without a device key it is not allowed. -/
def attestReq (s : State) : State :=
  match s.otp.devKey with
  | none => lcEnd s 3
  | some n =>
    let r := reportBytes s
    let salt := bytesLE 32 (Config.random256 (2 ^ 64 + s.fresh))
    let sig := rsaSign (Config.deviceModulus n) (Config.devicePrivate n) (sha256 r) salt
    lcEnd { putReport s (r ++ sig) with fresh := s.fresh + 1 } 1

/-! ### Provisioning (R388) -/

/-- PROVGO. -/
def provgoOp (s : State) : State :=
  if s.otp.lcstate ≠ 0 then wr s lc_LCFAULT_RSVW 0 1
  else if rd s lc_VKEYHASH = 0 then wr s lc_LCFAULT_BUSYGO 0 1
  else if s.lc.writing then s
  else changeState s 1 (some (0, rd s lc_VKEYHASH))

/-! ### Commands -/

/-- Whether the lifecycle engine runs a request of a kind. -/
def runs (s : State) (k : LcReq) : Bool := (s.lc.busy.map (fun b => b.1)) == some k
/-- The buffer that it copied. -/
def copied (s : State) : List Byte := (s.lc.busy.map (fun b => b.2)).getD []

/-- CLAIM: the request ends. -/
def execClaim (s : State) : Out := due s (runs s .claim) (claimReq s (copied s))
/-- ADVANCE. -/
def execAdvance (s : State) : Out := due s (runs s .advance) (advanceReq s (copied s))
/-- REVOKE. -/
def execRevoke (s : State) : Out := due s (runs s .revoke) (revokeReq s (copied s))
/-- DEBUG. -/
def execDebug (s : State) : Out := due s (runs s .debug) (debugReq s (copied s))
/-- ATTEST. -/
def execAttest (s : State) : Out := due s (runs s .attest) (attestReq s)
/-- PROVGO. -/
def execProvgo (s : State) : Out := atBlock s 148 false (regReq lc_PROVGO 0 0 1 1) provgoOp

end Sys2Proof.Machine
end

