-- ==== Sys2Proof/Machine/KidCore.lean ====
section
/-!
DEFINITION. How a kid issues an instruction: fetch, pairing, traps, completion (R67 to R83, R110, R115 to R145).
-/

namespace Sys2Proof.Machine

/-! ### Classes (R127) -/

/-- The pairing classes. -/
inductive PClass where
  | a | m | b | la | lm | x
deriving DecidableEq, Repr

/-- The class of a form: its class where it is short, and where it is long. -/
def formClass (fm : Form) (short long : PClass) : PClass := match fm with
  | .short => short
  | .long => long

/-- The class of an instruction, the byte registers that it reads, and those that it writes. -/
def pairInfo : Instr → PClass × List Nat × List Nat
  | .nop _ => (.a, [], [])
  | .not _ fm d => (formClass fm .a .la, [d.val], [d.val])
  | .jr _ s => (.b, pairBytes s, [])
  | .jalr _ s => (.b, pairBytes s, [14, 15])
  | .addw _ fm d s | .subw _ fm d s => (formClass fm .a .la, pairBytes d ++ pairBytes s, pairBytes d)
  | .movw _ fm d s => (formClass fm .a .la, pairBytes s, pairBytes d)
  | .addiB _ fm d _ => (formClass fm .a .la, [d.val], [d.val])
  | .addiW _ fm d _ => (formClass fm .a .la, pairBytes d, pairBytes d)
  | .jal _ _ => (.b, [], [14, 15])
  | .beqz _ fm a _ | .bnez _ fm a _ => (formClass fm .b .x, [a.val], [])
  | .mov _ fm d s => (formClass fm .a .la, [s.val], [d.val])
  | .movi _ d _ => (.a, [], [d.val])
  | .add _ fm d s | .sub _ fm d s | .and _ fm d s | .or _ fm d s | .xor _ fm d s | .cry _ fm d s | .brw _ fm d s =>
    (formClass fm .a .la, [d.val, s.val], [d.val])
  | .shl _ fm d _ | .shr _ fm d _ | .sar _ fm d _ | .rol _ fm d _ => (formClass fm .a .la, [d.val], [d.val])
  | .ld _ fm d wa => (formClass fm .m .lm, pairBytes wa, [d.val])
  | .st _ fm r wa => (formClass fm .m .lm, r.val :: pairBytes wa, [])
  | .ldw _ d wa => (.m, pairBytes wa, pairBytes d)
  | .stw _ r wa => (.m, pairBytes r ++ pairBytes wa, [])
  | _ => (.x, [], [])

/-- What may stand in slot 0 (R128). -/
def slot0Ok : PClass → Bool
  | .a | .m | .la | .lm => true
  | _ => false

/-- What may stand in slot 1 beside a slot 0 that is a memory access or not. -/
def slot1Ok (mem : Bool) : PClass → Bool
  | .a | .b => true
  | .m => !mem
  | _ => false

/-- REP refuses the instruction (R110). -/
def repForbidden : Instr → Bool
  | .reservedEncoding _ | .beq _ _ _ _ | .bne _ _ _ _ | .blt _ _ _ _ | .bge _ _ _ _ | .bltu _ _ _ _ | .bgeu _ _ _ _
  | .beqz _ _ _ _ | .bnez _ _ _ _ | .jal _ _ | .jalTwoWord _ _ _ | .jr _ _ | .jalr _ _ | .reti _ | .rep _ _ | .trap _
  | .wait _ | .synci _ => true
  | .mts _ sr _ => sr == 0 || decide (0x12 ≤ sr.toNat ∧ sr.toNat ≤ 0x17)
  | _ => false

/-! ### Fetch (R115, R119 to R125) -/

/-- The requester of a fetch. -/
def fetchRq (k : Nat) : Rq := ⟨0, k⟩

/-- Read one program word from its array. -/
def readProg (s : State) (k addr : Nat) : Option PWord × State := match locOf addr with
  | none => (none, s)
  | some l =>
    let (r, s) := readWord s l (fetchRq k)
    (r.map (fun bs => BitVec.ofNat 14 (ofBytesLE ((bs.drop (addr - l.base)).take 2))), s)

/-- Read the local program words of an access in ascending order. -/
def readLocal (s : State) (k : Nat) : List Nat → List (Word16 × Option PWord) × State
  | [] => ([], s)
  | w :: t =>
    let (r, s) := readProg s k (0x11_0000_2000 + k * 0x1_0000 + w * 2)
    let (l, s) := readLocal s k t
    ((BitVec.ofNat 16 w, r) :: l, s)

/-- The word of a valid line: the copy holds what the store holds, with the bytes gathered for it (R123, R166). -/
def cachedWord (s : State) (h w : Nat) : Option PWord :=
  let a := storeAddr h w
  match locOf a with
  | none => none
  | some l => ((decodeAt s l).value (rawData s l)).map
      (fun v => BitVec.ofNat 14 (ofBytesLE (((overlay s l (bytesLE 4 v)).drop (a - l.base)).take 2)))

/-- Whether a kid fetches the herd store through the cache. -/
def cached (s : State) (k : Nat) : Bool := !rdb s kd_KMODE_DET k && rdb s ic_ICCTRL_EN (herdOfKid k)

/-- The access waits for its line: a fill starts, or serves it too. -/
def missLine (s : State) (k w : Nat) : State :=
  let s := startFill s (herdOfKid k) (w / 8)
  setKid s k { kidOf s k with fetching := some w }

/-- An access through the cache of herd h. -/
def fetchCached (s : State) (k h w : Nat) : State :=
  if lineValid s h (w / 8) then
    let (ok, s) := checkCopies s k h w
    if ok then
      enqueue (incr s ic_ICHITS_COUNT h) k false ((accessWords w).map (fun x => (BitVec.ofNat 16 x, cachedWord s h x)))
    else missLine s k w
  else missLine s k w

/-- A direct access to the herd program store, of one word (R121). Its two further steps count where the word issues, and not where it
is discarded: the model's choice (R132; assumption 66). -/
def fetchDirect (s : State) (k h w : Nat) : State :=
  let (r, s) := readProg s k (storeAddr h w)
  enqueue s k true [(BitVec.ofNat 16 w, r)]

/-- The fetch access at the place where fetch has come. A direct access takes an open time (R122): `ahead` says that no
instruction waits for its word, which then may not have come yet (assumption 1). -/
def fetchAccess (s : State) (k : Nat) (ahead : Bool) : State :=
  let w := (kidOf s k).fpc.toNat
  let h := herdOfKid k
  if w < 0x1000 then
    let (l, s) := readLocal s k (accessWords w)
    enqueue s k false l
  else if cached s k then fetchCached s k h w
  else if ahead then
    let (come, s) := freshBool s
    if come then fetchDirect s k h w else s
  else fetchDirect s k h w

/-- Fetch in one counted step: an access starts where the queue has two free places, and not past word 0x7FFF (R119). -/
def fetchStep (s : State) (k : Nat) : State :=
  let c := kidOf s k
  if c.fetching.isSome ∨ 2 < c.pq.length ∨ 0x8000 ≤ c.fpc.toNat then s else fetchAccess s k true

/-- Fetch in n counted steps; after four no place can be free. -/
def fetchSteps (s : State) (k : Nat) : Nat → State
  | 0 => s
  | n + 1 => fetchStep (fetchSteps s k n) k

/-- The step counter moves on by n, and fetch with it (R116, R119). -/
def advance (s : State) (k n : Nat) : State := fetchSteps (setKid s k ((kidOf s k).step n)) k (min n 4)

/-- What comes of waiting for words. -/
inductive Fetch where
  | ready
  | fault
  | wait
deriving DecidableEq, Repr

/-- The queue is to hold n words, the oldest at the program counter: accesses are made until it does, one faults, or one must
wait for a line. -/
def need (k n : Nat) : Nat → State → Fetch × State
  | 0, s => (.wait, s)
  | fuel + 1, s =>
    let c := kidOf s k
    if n ≤ c.pq.length then (.ready, s)
    else if 0x8000 ≤ c.fpc.toNat then (.fault, s)
    else match c.fetching with
      | some w => (.wait, setKid s k { c with wait := some (.fill w) })
      | none => need k n fuel (fetchAccess s k false)

/-- The queue starts at the program counter: one that does not is discarded. -/
def Kid.atPc (c : Kid) : Kid :=
  if (match c.pq with
    | q :: _ => q.a
    | [] => c.fpc) = c.pc then c else { c with pq := [], fetching := none, fpc := c.pc }

/-- Wait for n words of the queue. -/
def needWords (s : State) (k n : Nat) : Fetch × State := need k n 5 s

/-- Word i of the queue. -/
def queued (s : State) (k i : Nat) : Option PWord := match (kidOf s k).pq[i]? with
  | some q => q.w
  | none => none

/-- The steps of a word that was fetched directly from the herd program store count when it is used, once (R132, R143). -/
def chargeWord (s : State) (k i : Nat) : State :=
  let c := kidOf s k
  match c.pq[i]? with
  | some q => if q.direct then setKid s k ({ c with pq := c.pq.set i { q with direct := false } }.step 2) else s
  | none => s

/-! ### Boundaries (R81, R86, R144, R145) -/

/-- A deferred trap is due. -/
def deferredDue (s : State) (k : Nat) : Bool := !(kidOf s k).deferred.isEmpty && !rdb s kd_KMODE_INTR k

/-- A delivery may enter: no handler runs, no KMODE write is pending, and no step is made. -/
def entryOk (s : State) (k : Nat) : Bool :=
  !rdb s kd_KMODE_INTR k && !rdb s kd_KMODE_INDB k && (kidOf s k).kpend.isEmpty && !(kidOf s k).stepping

/-- A delivery that has been held is due at a boundary; a deferred trap that is due there too goes first (R145 case 9). -/
def delivDue (s : State) (k : Nat) : Bool := (kidOf s k).deliv.any (fun d => d.2) && entryOk s k && !deferredDue s k

/-- The kid's logic runs: its domain is on, its herd is in no reset. -/
def kidLive (s : State) (k : Nat) : Bool :=
  !s.pow.deep && pstate s (herdDom (herdOfKid k)) == 0 && !s.rst.herds.contains (herdOfKid k)

/-- The kid issues its next instruction now. -/
def kidReady (s : State) (k : Nat) : Bool :=
  let c := kidOf s k
  kidLive s k && kstate s k == 0 && c.wait.isNone && c.kpend.all (fun e => e.2 != 0) &&
    (c.must || c.slot0.isSome || (!deferredDue s k && !delivDue s k && c.haltReq.isNone))

/-! ### Completion -/

/-- Store-buffer entries for local data memory at the head, at most n of them, are drained (R134). -/
def drainLocal (s : State) (k : Nat) : Nat → State
  | 0 => s
  | n + 1 =>
    let c := kidOf s k
    let view := 0x11_0000_0000 + k * 0x1_0000
    match c.sbuf with
    | e :: t =>
      if e.ga.here ∧ view ≤ e.ga.a ∧ e.ga.a < view + 0x800 then
        drainLocal (memWrite (setKid s k { c with sbuf := t }) e.ga.a (bytesLE e.n e.v) ⟨2, k⟩) k n
      else s
    | [] => s

/-- At the boundary after an instruction, what others have written to KPRIO and pulsed in KMODE during it (R88). -/
def applyLate (s : State) (k : Nat) : State :=
  let c := kidOf s k
  let s := setKid s k { c with pulse := 0, prio := none }
  let s := match c.prio with
    | some v => wr s kd_KPRIO_LEVEL k v.toNat
    | none => s
  kmodePulse s k c.pulse

/-- After an instruction, at a boundary (R144): what waited for it, and a STEP or a halt that waits, take effect. -/
def afterInstr (s : State) (k : Nat) : State :=
  if (kidOf s k).slot0.isSome then s
  else
    let s := applyLate s k
    let c := kidOf s k
    haltDue (if c.stepping && c.haltReq != some 2 then setKid s k { c with haltReq := some 3 } else s) k

/-- A precise trap (R78, R79, R132). -/
def trapAt (s : State) (k code epc : Nat) (paired : Bool) : State :=
  let s := drainLocal s k (kidOf s k).sbuf.length
  let s := advance s k (if paired then 0 else 1)
  let c := kidOf s k
  let s := applyLate (setKid s k { c with slot0 := none }) k
  afterInstr (takeTrap s k code false epc) k

/-- The pair that the oldest two words of the queue form with i in slot 0, where they form one (R126 to R129, R142). -/
def formPair (s : State) (k : KidId) (i : Instr) : Option Slot0 :=
  let c := kidOf s k
  match c.pq with
  | q :: r :: _ => (match r.w with
    | some w =>
      let (cl, _, wr) := pairInfo i
      let (cl', rd', wr') := pairInfo (decodeInstr (.kid k) w 0)
      if rdb s kd_KMODE_DET k = false ∧ c.rep = false ∧ c.stepping = false ∧ c.kpend.all (fun e => decide (1 < e.2)) = true ∧
          c.pc ≠ 0xFFF ∧ r.a = c.pc + 1 ∧ slot0Ok cl = true ∧ slot1Ok (cl == .m || cl == .lm) cl' = true ∧
          rd'.all (fun x => !wr.contains x) = true ∧ wr'.all (fun x => !wr.contains x) = true then
        some ⟨c.pc, c.b, c.kpend, c.stepc, q, false⟩
      else none
    | none => none)
  | _ => none

/-- Whether the instruction issues as slot 1 of the pair whose slot 0 has issued; else it may be slot 0 of a pair. -/
def pairUp (s : State) (k : KidId) (i : Instr) : Bool × State :=
  let c := kidOf s k
  match c.slot0 with
  | some p =>
    if p.pc ≠ c.pc then (true, setKid s k { c with slot0 := some { p with paired := true } })
    else (false, setKid s k { c with slot0 := formPair s k i })
  | none => (false, setKid s k { c with slot0 := formPair s k i })

/-- Where fetch goes while an instruction costs its steps: `jump` says that its transfer discards the queue, `astray` where a
wrong prediction has led fetch from the second step on (R120, R130, R132). -/
def fetchPast (s : State) (k cost : Nat) (jump : Bool) (astray : Option Word16) (npc : Word16) : State :=
  if jump then
    let s := fetchSteps s k 1
    let s := match astray with
      | some a => setKid s k ((kidOf s k).refetch a)
      | none => s
    let s := if 3 ≤ cost then fetchSteps s k 1 else s
    setKid s k ((kidOf s k).refetch npc)
  else fetchSteps s k (min cost 4)

/-- The instruction completes: it leaves the queue and goes on at npc. `keep` entries of the store buffer are its own. A
repeated instruction stays until its count is used up (R109). -/
def retire (s : State) (k : Nat) (paired : Bool) (npc : Word16) (jump : Bool) (astray : Option Word16) (cost keep : Nat) : State :=
  let c := (kidOf s k).step (if paired then cost - 1 else cost)
  let c := { c with kpend := c.kpend.map (fun e : Byte × Nat => (e.1, e.2 - 1)), must := false }
  let pend := c.sbuf.length - keep
  if c.rep then
    let n := rd s kd_KRPT_COUNT k - 1
    let s := wr s kd_KRPT_COUNT k n
    let c := if n = 0 then { c with rep := false, pc := c.pc + 1, pq := c.pq.drop 1 } else c
    afterInstr (fetchSteps (drainLocal (setKid s k c) k pend) k (min cost 4)) k
  else
    let c := { c with pc := npc, pq := c.pq.drop 1, slot0 := if paired then none else c.slot0 }
    let s := drainLocal (setKid s k c) k pend
    afterInstr (fetchPast s k (if paired then cost else if c.slot0.isSome then cost - 1 else cost) jump astray npc) k

/-! ### Issue -/

/-- What comes of naming an instruction: the kid does not issue it; something else takes the step; or it issues. -/
inductive Issue where
  | no
  | done (t : State)
  | go (t : State) (paired : Bool)

/-- An instruction that REP refuses, reached with COUNT not zero (R84, R110, R425). -/
def refusedRep (s : State) (k : KidId) (w : PWord) : Bool := (kidOf s k).rep && repForbidden (decodeInstr (.kid k) w 0)

/-- The oldest word of the queue is there: issue i, where it is the instruction that the word, with its second word, spells. -/
def issueWord (s : State) (k : KidId) (i : Instr) (w : PWord) : Issue :=
  let pc := (kidOf s k).pc.toNat
  if refusedRep s k w then
    (if twoWords w = true ∨ decodeInstr (.kid k) w 0 = i then .done (trapAt s k 1 pc false) else .no)
  else if twoWords w then
    match needWords s k 2 with
    | (.fault, s) => .done (trapAt s k 5 (pc + 1) false)
    | (.wait, s) => .done s
    | (.ready, s) =>
      let s := chargeWord s k 1
      (match queued s k 1 with
        | none => .done (trapAt s k 2 pc false)
        | some w2 =>
          if decodeInstr (.kid k) w w2 ≠ i then .no
          else .go (setKid s k { kidOf s k with pq := (kidOf s k).pq.eraseIdx 1, slot0 := none }) false)
  else if decodeInstr (.kid k) w 0 ≠ i then .no
  else
    let (p, s) := pairUp s k i
    .go s p

/-- A kid's next instruction is `i`, or it cannot be fetched: issue it. -/
def issueKid (s : State) (k : KidId) (i : Instr) : Issue :=
  if !kidReady s k then .no
  else
    let s := setKid s k (kidOf s k).atPc
    let pc := (kidOf s k).pc.toNat
    match needWords s k 1 with
    | (.fault, s) => .done (trapAt s k 5 pc false)
    | (.wait, s) => .done s
    | (.ready, s) =>
      let s := chargeWord s k 0
      match queued s k 0 with
      | none => .done (trapAt s k 2 pc false)
      | some w => issueWord s k i w

/-- Run the meaning of a kid's instruction where it issues. -/
def onKid (k : KidId) (i : Instr) (s : State) (body : State → Bool → State) : Out :=
  match issueKid s k i with
  | .no => .next s
  | .done t => .next t
  | .go t p => .next (body t p)

/-- An instruction that computes registers from registers. -/
def kidRegs (k : KidId) (i : Instr) (cost : Nat) (f : Regs → Regs) (s : State) : Out :=
  onKid k i s (fun s p =>
    let c := kidOf s k
    retire (setKid s k { c with b := f c.b }) k p (c.pc + 1) false none cost 0)

/-! ### Answers to a kid -/

/-- What a load writes. -/
def Dst.bytes : Dst → List Nat
  | .byte r => [r.val]
  | .pair w => pairBytes w

/-- Whether the access that a kid waits on, or has just issued, stands in slot 1 of a pair. -/
def inPair (c : Kid) : Bool := match c.slot0 with
  | some p => p.paired
  | none => false

/-- A load completes with its value. -/
def endLoad (s : State) (k : Nat) (d : Dst) (v : Nat) : State :=
  let c := kidOf s k
  retire (setKid s k { c with b := Regs.load c.b d v, wait := none }) k (inPair c) (c.pc + 1) false none 1 0

/-- A store completes; `keep` is 1 where it has just entered the store buffer. -/
def endStore (s : State) (k keep : Nat) : State :=
  let c := kidOf s k
  retire (setKid s k { c with wait := none }) k (inPair c) (c.pc + 1) false none 1 keep

/-- The trap that a failed access gives (R79, R171, R350). -/
def trapOfReply : Reply → Nat
  | .uecc => 2
  | .trap c => c
  | _ => 3

/-- The access of a kid ends in a trap. -/
def endTrap (s : State) (k code : Nat) : State :=
  let c := kidOf s k
  trapAt s k code c.pc.toNat (inPair c)

/-- The access that kid k waits on is answered. -/
def finishKid (s : State) (k : Nat) (r : Reply) : State := match (kidOf s k).wait with
  | some (.load d _) | some (.remote _ d) => match r with
    | .data v => endLoad s k d v
    | r => endTrap s k (trapOfReply r)
  | some (.store _ _ _) => match r with
    | .done => endStore s k 0
    | r => endTrap s k (trapOfReply r)
  | _ => s

end Sys2Proof.Machine
end

