-- ==== Sys2Proof/Machine/Service.lean ====
section
/-!
DEFINITION. Fences, herd self-test, spare-kid substitution, the service registers and the TAP (R429 to R444).
-/

namespace Sys2Proof.Machine

/-! ### Herd fence (R429 to R431) -/

/-- HSTAT.FENCE: 0 open, 1 FENCING, 2 FENCED. -/
def fenceOf (s : State) (h : Nat) : Nat := rd s hf_HSTAT_FENCE h

/-- HCTL.FENCE. -/
def fenceOp (s : State) (h : Nat) : State :=
  if fenceOf s h = 0 then (herdKids h).foldl kctlHaltOp (wr s hf_HSTAT_FENCE h 1) else s

/-- The requests that the kids of a herd have outstanding. -/
def herdReqs (s : State) (h : Nat) : Bool := s.reqs.any (fun r => match r.2.ag with
  | .kid k => k.val / 64 == h && !r.2.dead
  | _ => false)

/-- A FENCING herd becomes FENCED. -/
def fencedDue (s : State) (h : Nat) : Bool :=
  fenceOf s h == 1 && (herdKids h).all (fun k => decide (2 ≤ kstate s k)) && (oryxOf s h).fifo.isEmpty && !herdReqs s h

/-- HCTL.LIFT: the herd opens; what waited proceeds with the replay that follows. -/
def liftOp (s : State) (h : Nat) : State := wr s hf_HSTAT_FENCE h 0

/-! ### Herd self-test (R432 to R434) -/

/-- HCTL.BISTGO. -/
def bistgoOp (s : State) (h : Nat) : State :=
  if rdb s hf_HSTAT_BISTRUN h then wr s hf_HFFAULT_BUSYGO h 1
  else if fenceOf s h = 2 then wr s hf_HSTAT_BISTRUN h 1
  else wr s hf_BISTRES h 3

/-- Every tested array of a herd is unwritten. -/
def clearArrays (s : State) (h : Nat) : State :=
  let own (b : Nat) : Bool := ownerHerd b == some h
  let s := clearMem s (fun a => match locOf a with
    | some w => own w.bank
    | none => false)
  { clearRpts s own with spares := s.spares.filter (fun e => e.1 / 2 != h) }

/-- The self-test ends. -/
def bistEnd (s : State) (h kidf memf row spareFail : Nat) : State :=
  let s := (herdKids h).foldl (fun s k => resetKid (wr s kc_KCTL_RSTHOLD k 1) k) s
  let s := setHdc (resetBlk (resetOryx s h) .hdc h) h {}
  let s := setIcache (clearArrays s h) h {}
  let s := wr (wr s hf_HSTAT_BISTRUN h 0) hf_BISTKIDF h kidf
  let s := wr (wr (wr s hf_BISTMEMF_SHARED h memf) hf_BISTMEMF_CACHE h (memf / 2 ^ 16)) hf_BISTMEMF_MBOX h (memf / 2 ^ 17)
  let s := wr (wr s hf_BISTMEMF_COEF h (memf / 2 ^ 18)) hf_BISTMEMF_QBUF h (memf / 2 ^ 19)
  let s := wr (wr (wr s hf_BISTROW h row) hf_BISTBIT h (row / 2 ^ 13)) hf_BISTBANK h (row / 2 ^ 20)
  let s : State := { s with sbist := alSet s.sbist h spareFail }
  wr s hf_BISTRES h (if kidf = 0 ∧ memf = 0 ∧ spareFail = 0 then 1 else 2)

/-! ### Substitution (R435, R436) -/

/-- SUBGO: the request starts with the operands it finds. -/
def subgoOp (s : State) : State :=
  if rdb s ts_SUBBUSY then wr s ts_TSTFAULT_BUSYGO 0 1
  else
    let t : State := { s with sub := some (rd s ts_SUBKID, rd s ts_SUBSPARE, rd s ts_SUBCOPY) }
    stampAt (wr t ts_SUBBUSY 0 1) .sub

/-- Where program (0) and data (1) memory stand in a kid view, with their words and the bank of kid k. -/
def partBase (k part : Nat) : Nat := 0x11_0000_0000 + k * 0x1_0000 + (if part = 0 then 0x2000 else 0)
def partWords (part : Nat) : Nat := if part = 0 then 4096 else 512
def partStep (part : Nat) : Nat := if part = 0 then 2 else 4
def partBank (k part : Nat) : Nat := (if part = 0 then 0x1000_0000 else 0x2000_0000) + k
/-- An address lies in a part of kid k. -/
def inPart (k part a : Nat) : Bool := decide (partBase k part ≤ a ∧ a < partBase k part + partWords part * partStep part)
/-- An offset in a kid view lies in a part. -/
def offPart (part o : Nat) : Bool := inPart 0 part (0x11_0000_0000 + o)

/-- Open merge entries of a bank are committed before it is copied. -/
def commitBank (s : State) (bank : Nat) : State :=
  ((s.merges.filterMap (fun m => locOf m.word)).filter (fun w => w.bank == bank)).foldl commitWord s

/-- Every word of a part is read through the code: false at the first that is uncorrectable. -/
def readPart (s : State) (k part : Nat) : Nat → Bool × State
  | 0 => (true, s)
  | n + 1 => match readPart s k part n with
    | (false, s) => (false, s)
    | (true, s) => match locOf (partBase k part + n * partStep part) with
      | some w => let (r, s) := readWord s w ⟨9, 0⟩
        (r.isSome, s)
      | none => (true, s)

/-- The data of a part as the code delivers it, written to the spare as full writes: an armed flip-mask acts on its word (R177). -/
def copyPart (s : State) (k part : Nat) : State :=
  let base := partBase k part
  let fix := s.words.filter (fun e => inPart k part e.1)
  let mem := fix.foldl (fun m e => match locOf e.1 with
    | some w => match decodeAt s w with
      | .data _ => memSetMany m w.base (bytesLE w.code.bytes (((decodeAt s w).value (rawData s w)).getD 0))
      | _ => m
    | none => m) s.mem
  let words := s.words.filter (fun e => !inPart k part e.1) ++
    (List.range (partWords part)).map (fun i => (base + i * partStep part, (⟨true, true, 0⟩ : WMeta)))
  let s := clearRpts { s with mem := mem, words := words } (fun b => b == partBank k part)
  match s.flip with
  | some f => (match if f.bank = partBank k part then (baseOf f.bank f.addr).bind locOf else none with
    | some w => fullWrite s w (rawData s w)
    | none => s)
  | none => s

/-- What a spare holds. -/
def spareHolds (s : State) (i : Nat) : List Host.Cell × List (Nat × WMeta) := (alGet s.spares i).getD ([], [])

/-- A part that is not copied: the kid's view shows what the spare holds. -/
def swapPart (s : State) (k part i : Nat) : State :=
  let (cells, words) := spareHolds s i
  let view := 0x11_0000_0000 + k * 0x1_0000
  let s := clearRpts (clearMem s (inPart k part)) (fun b => b == partBank k part)
  let mem := (cells.filter (fun c => offPart part c.1)).foldl (fun m c => memSet m (view + c.1) c.2) s.mem
  { s with mem := mem, words := s.words ++ (words.filter (fun w => offPart part w.1)).map (fun w => (view + w.1, w.2)) }

/-- What a kid's memories hold, at their offsets in its view. -/
def viewOf (s : State) (k : Nat) : List Host.Cell × List (Nat × WMeta) :=
  let view := 0x11_0000_0000 + k * 0x1_0000
  let own (a : Nat) : Bool := inPart k 0 a || inPart k 1 a
  ((s.mem.filter (fun e => own e.1)).map (fun e => (e.1 - view, e.2)), (s.words.filter (fun e => own e.1)).map (fun e => (e.1 - view, e.2)))

/-- A part of the move. -/
def movePart (s : State) (k part i copy : Nat) : State := if bit copy part then copyPart s k part else swapPart s k part i

/-- The kid moves to the spare; a spare that it leaves keeps what it held. -/
def moveKid (s : State) (k spare copy : Nat) : State :=
  let i := k / 64 * 2 + spare
  let left := viewOf s k
  let from_ := (kidOf s k).pos
  let s := movePart (movePart s k 0 i copy) k 1 i copy
  let keep := alDel s.spares i
  let s : State := { s with spares := match from_ with
    | some p => alSet keep (k / 64 * 2 + (p - 64)) left
    | none => keep }
  let s := if bit copy 2 then setKid s k ((kidOf s k).refetch (kidOf s k).pc) else setKid (resetSr s k) k {}
  setKid s k { kidOf s k with pos := some (64 + spare) }

/-- The reads of the parts that are copied. -/
def readParts (s : State) (k copy : Nat) : Bool × State :=
  let s := commitBank (commitBank s (partBank k 0)) (partBank k 1)
  let (a, s) := if bit copy 0 then readPart s k 0 (partWords 0) else (true, s)
  if !a then (false, s) else if bit copy 1 then readPart s k 1 (partWords 1) else (true, s)

/-- SUBRES (R436). -/
def subRes (s : State) (k spare : Nat) : Nat :=
  let h := k / 64
  if rdb s hf_HSTAT_BISTRUN h then 6
  else if kstate s k < 2 then 2
  else if spareInUse s h spare then 3
  else if bit (spareBad s h) spare then 4
  else 0

/-- The time of a substitution in ns: 4 steps of 0.3 ns for each word that is copied (R435); registers count as none. -/
def subTime (copy : Nat) : Nat := ((if bit copy 0 then partWords 0 else 0) + (if bit copy 1 then partWords 1 else 0)) * 12 / 10

/-- A substitution ends. -/
def subOp (s : State) (k spare copy : Nat) : State :=
  let s := wr { s with sub := none } ts_SUBBUSY 0 0
  match subRes s k spare with
  | 0 =>
    let (ok, s) := readParts s k copy
    if ok then wr (moveKid s k spare copy) ts_SUBRES 0 1 else wr s ts_SUBRES 0 5
  | n => wr s ts_SUBRES 0 n

/-! ### Ports, links and HBM (R437 to R440) -/

/-- The bits of a mask that rise. -/
def rises (old new n : Nat) : List Nat := (List.range n).filter (fun i => bit new i && !bit old i)

/-- A write of FENCEP. -/
def fencepOp (s : State) (v : Nat) : State :=
  let old := rd s ts_FENCEP
  (rises old v 64).foldl (fun s p => fenceFawn (fenceFawn (portStop s p) (2 * p)) (2 * p + 1)) (wr s ts_FENCEP 0 v)

/-- A write of FENCEC. -/
def fencecOp (s : State) (v : Nat) : State :=
  let old := rd s ts_FENCEC
  (rises old v 8).foldl (fun s c => fenceFawn (fenceFawn (camStop s c) (setupFawn c)) (statusFawn c)) (wr s ts_FENCEC 0 v)

/-- A write of FENCEL. -/
def fencelOp (s : State) (v : Nat) : State :=
  let old := rd s ts_FENCEL
  (rises old v 12).foldl (fun s l => fenceFawn (fenceFawn (linkStop s l) (rxFawn l)) (txFawn l)) (wr s ts_FENCEL 0 v)

/-- FPGO (R438). -/
def fpgoOp (s : State) : State :=
  let f := rd s ts_FPSEL
  if f < 168 ∧ fawnFenced s f = true then
    memWrite s (fawnProgAddr f (rd s ts_FPADDR)) (bytesLE 2 (rd s ts_FPDATA)) imageRq
  else wr s ts_TSTFAULT_NOTFENCED 0 1

/-- A write of HBMFMASK: pseudo-channels that are no longer fenced leave HBMFST (R439). -/
def hbmMaskOp (s : State) (v : Nat) : State := wr (wr s ts_HBMFMASK 0 v) ts_HBMFST 0 (rd s ts_HBMFST &&& v)

/-- A write of HBMFSTK: the mask fences the other stack from now on, and none of its channels has drained. -/
def hbmStackOp (s : State) (v : Nat) : State :=
  if v = rd s ts_HBMFSTK then s else wr (wr s ts_HBMFSTK 0 v) ts_HBMFST 0 0

/-- The pseudo-channel of an HBM address is fenced. -/
def hbmShut (s : State) (a : Nat) : Bool :=
  decide (a < 0x10_0000_0000) && rd s ts_HBMFSTK == bits a 35 34 && bit (rd s ts_HBMFMASK) (bits a 12 8)

/-- A fenced pseudo-channel has drained. -/
def drainDue (s : State) (stack pc : Nat) : Bool :=
  rd s ts_HBMFSTK == stack && bit (rd s ts_HBMFMASK) pc && !bit (rd s ts_HBMFST) pc &&
    !s.merges.any (fun m => decide (m.word < 0x10_0000_0000) && bits m.word 35 34 == stack && bits m.word 12 8 == pc)

/-! ### TAP (R441 to R443) -/

/-- An instruction comes into force; `dr` is what its data register captures (R441, R442). -/
def tapLoad (s : State) (ir : Nat) (ext : Bool) (cells : List Bool) (dr : Nat) : State :=
  { s with tap := { s.tap with ir := ir, ext := ext, cells := cells, dr := dr } }

/-- IDCODE (R441). -/
def idcode : Nat := 0xA4D3_296B

/-- An instruction of the boundary register: it captures, and then `cells` are shifted in (R442, R443). -/
def tapBoundary (s : State) (ir : Nat) (ext : Bool) (cells : List Bool) : State :=
  let (dr, s) := boundary s
  tapLoad s ir ext cells dr

/-- An instruction is refused: it loads as BYPASS (R442). -/
def tapRefuse (s : State) : State := wr (tapLoad s 0xFF false s.tap.cells 0) ts_TSTFAULT_TAPREF 0 1

/-- Every port and link is DOWN, so that an EXTEST instruction is accepted (R443). -/
def allDown (s : State) : Bool :=
  (List.range 64).all (fun p => portState s p == 0) && (List.range 8).all (fun c => camState s c == 0) &&
    (List.range 12).all (fun l => linkState s l == 0)

/-- EXTEST, EXTEST_PULSE, EXTEST_TRAIN. -/
def extestOp (s : State) (ir : Nat) (cells : List Bool) : State :=
  if 2 ≤ s.lc.dbg ∧ allDown s = true then faultEdge s (tapBoundary s ir true cells) else tapRefuse s

/-- HBM1500 (R442): what the stack's wrapper captures is open (assumption 1). -/
def hbm1500Op (s : State) : State :=
  if 2 ≤ s.lc.dbg ∧ rd s ts_HBMFST = 0xFFFF_FFFF then
    let (x, s) := freshNat s
    tapLoad s 0x11 false s.tap.cells x
  else tapRefuse s

/-- The debug level that an opcode of the table needs (R442). -/
def tapLevel (opcode : Nat) : Option Nat :=
  if opcode = 0x01 ∨ opcode = 0x02 ∨ opcode = 0xFF then some 0
  else if opcode = 0x10 then some 1
  else if opcode = 0x00 ∨ opcode = 0x03 ∨ opcode = 0x04 ∨ opcode = 0x11 then some 2
  else none

/-- BYPASS, or an opcode that loads as it: one that the table does not list, or above the debug level. Any other has its own row. -/
def bypassOp (s : State) (opcode : Nat) : State :=
  if opcode = 0xFF then tapLoad s 0xFF false s.tap.cells 0
  else match tapLevel opcode with
    | some lvl => if s.lc.dbg < lvl then tapRefuse s else s
    | none => tapRefuse s

/-! ### Commands -/

/-- A write that reaches the fence block of herd h. -/
def atHerd (s : State) (h : Nat) (q : BusReq) (act : State → State) : Out := atBlock s (herdDom h) (herdShut s h) q act

/-- HCTL_FENCE. -/
def execHctlFence (h : HerdId) (s : State) : Out := atHerd s h (regReq hf_HCTL_FENCE h 0 1 1) (fun s => fenceOp s h)
/-- FENCED. -/
def execFenced (h : HerdId) (s : State) : Out := due s (fencedDue s h) (wr s hf_HSTAT_FENCE h 2)
/-- HCTL_BISTGO. -/
def execHctlBistgo (h : HerdId) (s : State) : Out := atHerd s h (regReq hf_HCTL_FENCE h 0 4 1) (fun s => bistgoOp s h)
/-- SELF_TEST. -/
def execSelfTest (h : HerdId) (kidf : BitVec 64) (memf : BitVec 20) (row : BitVec 24) (spareFail : BitVec 2) (s : State) : Out :=
  due s (rdb s hf_HSTAT_BISTRUN h) (bistEnd s h kidf.toNat memf.toNat row.toNat spareFail.toNat)
/-- SUBGO. -/
def execSubgo (s : State) : Out := atService s (regReq ts_SUBGO 0 0 1 1) subgoOp
/-- SUBSTITUTION. -/
def execSubstitution (s : State) : Out :=
  match s.sub with
  | some (k, spare, copy) => due s (decide (subTime copy ≤ since s .sub)) (subOp s k spare copy)
  | none => .next s
/-- FENCEP. -/
def execFencep (m : BitVec 64) (s : State) : Out := atService s (regReq ts_FENCEP 0 0 m.toNat 8) (fun s => fencepOp s m.toNat)
/-- FENCEC. -/
def execFencec (m : BitVec 8) (s : State) : Out := atService s (regReq ts_FENCEC 0 0 m.toNat 1) (fun s => fencecOp s m.toNat)
/-- FENCEL. -/
def execFencel (m : BitVec 12) (s : State) : Out :=
  atService s (regReq ts_FENCEC 0 0 (rd s ts_FENCEC + m.toNat * 2 ^ 8) 4) (fun s => fencelOp s m.toNat)
/-- FPGO. -/
def execFpgo (s : State) : Out :=
  atService s (regReq ts_FPSEL 0 0 (rd s ts_FPSEL + rd s ts_FPADDR * 2 ^ 8 + rd s ts_FPDATA * 2 ^ 18 + 2 ^ 30) 4) fpgoOp
/-- HBM_DRAIN. -/
def execHbmDrain (stack : Fin 4) (pc : Fin 32) (s : State) : Out :=
  due s (drainDue s stack pc) (wr s ts_HBMFST 0 (setBit (rd s ts_HBMFST) pc))
/-- HBMXADDR is written: HBMXBANK shows its bank (R440, R474). -/
def hbmxaddrOp (s : State) (a : Nat) : State := wr (wr s ts_HBMXADDR 0 a) ts_HBMXBANK 0 (hbmBank (a * 8))

/-- HBMXADDR. -/
def execHbmxaddr (a : BitVec 37) (s : State) : Out :=
  atService s (regReq ts_HBMXADDR 0 0 (a.toNat * 8) 8) (fun s => hbmxaddrOp s a.toNat)
/-- EXTEST. -/
def execExtest (cells : List Bool) (s : State) : Out := due s (!s.pow.deep) (extestOp s 0 cells)
/-- EXTEST_PULSE. -/
def execExtestPulse (cells : List Bool) (s : State) : Out := due s (!s.pow.deep) (extestOp s 3 cells)
/-- EXTEST_TRAIN. -/
def execExtestTrain (cells : List Bool) (s : State) : Out := due s (!s.pow.deep) (extestOp s 4 cells)
/-- IDCODE. -/
def execIdcode (s : State) : Out := due s (!s.pow.deep) (tapLoad s 1 false s.tap.cells idcode)
/-- SAMPLE/PRELOAD. -/
def execSamplePreload (cells : List Bool) (s : State) : Out := due s (!s.pow.deep) (tapBoundary s 2 false cells)
/-- HBM1500. -/
def execHbm1500 (s : State) : Out := due s (!s.pow.deep) (hbm1500Op s)
/-- BYPASS. -/
def execBypass (opcode : Byte) (s : State) : Out := due s (!s.pow.deep) (bypassOp s opcode.toNat)
/-- TRST_N: the TAP is reset, with IDCODE in force. -/
def execTrstN (s : State) : Out := .next { s with tap := {} }

end Sys2Proof.Machine
end

