-- ==== Sys2Proof/Machine/RegWrite.lean ====
section
/-!
DEFINITION. A write of any agent to a register block: the access codes, reserved and IMG fields, and what the fields of each
block do when they are written (R12 to R16, R88, and the register tables).
-/

namespace Sys2Proof.Machine

/-! ### Fields in a write -/

/-- The fields with bits in bytes o to o + nb − 1. -/
def fieldsInWrite (b : Blk) (o nb : Nat) : List (Fld × Nat) :=
  ((List.range nb).map (fun j => fieldsAt b (o + j))).flatten.eraseDups

/-- The bits that a write of v to bytes o to o + nb − 1 carries for a field: where they start in the field, how many, and what. -/
def carried (F : Fld) (i o nb v : Nat) : Nat × Nat × Nat :=
  let lo := max (F.bitLo i) (8 * o)
  let len := min (F.bitLo i + F.w) (8 * (o + nb)) - lo
  (lo - F.bitLo i, len, v / 2 ^ (lo - 8 * o) % 2 ^ len)

/-- A value of the field with the carried bits in it (R14: the unwritten bytes keep their value). -/
def mergeBits (old : Nat) (c : Nat × Nat × Nat) : Nat :=
  old % 2 ^ c.1 + c.2.2 * 2 ^ c.1 + old / 2 ^ (c.1 + c.2.1) * 2 ^ (c.1 + c.2.1)

/-- The ones that a write carries for a field, at their places in it. -/
def onesOf (c : Nat × Nat × Nat) : Nat := c.2.2 * 2 ^ c.1

/-! ### Reserved bits (R15) -/

/-- The lifecycle block's fields that are reserved outside BLANK (R388). -/
def blankOnly (s : State) (F : Fld) : Bool := (decide (F = lc_VKEYHASH) || decide (F = lc_PROVGO)) && s.otp.lcstate != 0

/-- A field is not there: its bits are reserved. -/
def absent (s : State) (F : Fld) (n : Nat) : Bool := roleShut s F n || blankOnly s F

/-- Whether a write sets a bit of byte o that no field has. -/
def setsReserved (s : State) (b : Blk) (n o byte : Nat) : Bool :=
  let listed := ((fieldsAt b o).filter (fun f => !absent s f.1 n)).foldl (fun m f => m ||| f.1.maskAt f.2 o) 0
  byte &&& (255 - listed) != 0

/-- A 1 written to a reserved bit sets RSVW. -/
def reservedWrite (s : State) (b : Blk) (n o nb v : Nat) : State :=
  if (List.range nb).any (fun j => setsReserved s b n (o + j) (v / 2 ^ (8 * j) % 256)) then faultBit s (rsvwOf b n) else s

/-! ### RW and WO fields -/

/-- MSI-X: a vector that is unmasked while it is pending sends its message (R367). -/
def msixMaskOp (s : State) (i v : Nat) : State :=
  let s := wr s hb_MSIXMASK 0 v i
  if v = 0 ∧ rdb s hb_MSIXPBA 0 i then msix (wr s hb_MSIXPBA 0 0 i) i else s

/-- A kid that runs holds its special registers: others write KPRIO alone (R88). -/
def kidSrWrite (s : State) (F : Fld) (k v : Nat) : State :=
  let c := kidOf s k
  let v := capRpt F v
  let inside := decide (kstate s k = 0) && !c.between
  if F = kd_KPRIO_LEVEL then
    (if inside then setKid s k { c with prio := some (BitVec.ofNat 8 v) } else wr s F k v)
  else if 2 ≤ kstate s k then wr s F k v
  else if v = rd s F k then s
  else wr s kd_KFAULT_XWR k 1

/-- A write of an RW or WO field: what the field does beside holding its value. -/
def rwField (s : State) (F : Fld) (n i v : Nat) : State := match F.blk with
  | .kidSr => kidSrWrite s F n v
  | .icache =>
    if F = ic_ICINV_WORD then icinvOp s n v
    else if F = ic_ICCTRL_EN ∧ v = 0 then icDisable (wr s F n v i) n
    else wr s F n v i
  | .epConfig =>
    if F = qx_HIWM ∨ F = qx_LOWM then relevel (wr s F n v i) n else wr s F n v i
  | .hdc =>
    if F = hd_PEND then pendOp s n i (BitVec.ofNat 8 v)
    else if F = hd_MASK then maskOp s n i (BitVec.ofNat 8 v)
    else if F = hd_RING then ringOp s n (BitVec.ofNat 8 v)
    else if F = hd_CMPL then cmplOp s n (BitVec.ofNat 8 v)
    else wr s F n v i
  | .timebase =>
    if F = tb_ALMT then almtOp s i v
    else if F = tb_ALM_EN ∧ v = 1 then almEnOp s i
    else wr s F n v i
  | .hostBoot =>
    if F = hb_HOSTRING then hostRing s v
    else if F = hb_MSIXMASK then msixMaskOp s i v
    else wr s F n v i
  | .kidCtl => if F = kc_KCTL_RSTHOLD then kctlHoldOp s n (v == 1) else wr s F n v i
  | .testService =>
    if F = ts_FENCEP then fencepOp s v
    else if F = ts_FENCEC then fencecOp s v
    else if F = ts_FENCEL then fencelOp s v
    else if F = ts_HBMFMASK then hbmMaskOp s v
    else if F = ts_HBMFSTK then hbmStackOp s v
    else if F = ts_HBMXADDR then hbmxaddrOp s v
    else wr s F n v i
  | _ => wr s F n v i

/-! ### W1P fields -/

/-- DCTL.RETRY, written as a register (R415 case 5). -/
def retryPulse (s : State) (d : Nat) : State :=
  if h : d < 152 then
    let (m, s) := openMeas s ⟨d, h⟩
    retryOp s d m
  else s

/-- A 1 written to a W1P field pulses its action; `ones` are the bits written as 1. -/
def pulse (s : State) (F : Fld) (n i ones : Nat) (ag : Agent) : State := match F.blk with
  | .kidSr =>
    let c := kidOf s n
    let v : Byte := if F = kd_KMODE_TCAP then 0x20 else 0x40
    if kstate s n = 0 ∧ c.between = false then setKid s n { c with pulse := c.pulse ||| v } else kmodePulse s n v
  | .icache => if F = ic_ICCTRL_INVALL then invallOp s n else clrcntOp s n
  | .integrity =>
    if F = mi_LOGPOP then logpopOp s
    else if F = mi_CNTCLR then cntclrOp s
    else if F = mi_CIPGO then cipgoOp s
    else if F = mi_FLIPARM then fliparmOp s
    else if F = mi_FLIPCAN then { s with flip := none }
    else rprgoOp s
  | .epConfig =>
    if F = qx_CCTL_QRESET then qresetOp s n
    else if F = qx_PCTL_RESYNC then resyncOp s n
    else clrpeakOp s n
  | .hdc => hdcClear s n
  | .bridges => rearmOp s i
  | .axisPort =>
    if F = ax_PCTL_START then portStart s n
    else if F = ax_PCTL_STOP then portStop s n
    else if F = ax_PCTL_RUN then portRun s n
    else if F = ax_PCTL_FAWNRUN then portFawnrun s n
    else if F = ax_SVCGO then svcgoOp s n
    else tarmOp s n i
  | .guard =>
    if F = gg_GCTL_LOGPOP then glogPop s
    else if F = gg_GCTL_CNTCLR then gctlClear s
    else if F = gg_ENAREL then (maskOnes ones 64).foldl enarelPort s
    else (maskOnes ones 64).foldl enadropPort s
  | .envelope =>
    if F = ge_ACTL_STOPR then stopAxis s n 11 1 0 0 0
    else if F = ge_ACTL_STOPD then stopAxis s n 11 3 0 0 0
    else releaseOp s n
  | .camera =>
    if F = cm_CCTL_START then camStart s n
    else if F = cm_CCTL_STOP then camStop s n
    else if F = cm_CCTL_FAWNRUN then camFawnrun s n
    else camCntclr s n
  | .timebase => if F = tb_TBCTL_CAP then wr s tb_TBCAPT 0 (now s) else tbSet s
  | .link =>
    if F = lk_LCTL_START then linkStart s n
    else if F = lk_LCTL_STOP then linkStop s n
    else if F = lk_LCTL_RESET then linkReset s n
    else if F = lk_LCTL_FAWNRUN then linkFawnrun s n
    else linkCntclr s n
  | .routing => if F = rt_RCTL_LOGPOP then { s with rlog := s.rlog.drop 1 } else rctlClear s
  | .hostBoot => goOp s
  | .lifecycle => if F = lc_LCGO then lcgoOp s else provgoOp s
  | .power => pmGo s
  | .domain => retryPulse s n
  | .kidCtl =>
    if F = kc_KCTL_RUN then kctlRunOp s n
    else if F = kc_KCTL_HALT then kctlHaltOp s n
    else if F = kc_KCTL_RESET then resetKidAlone s n
    else kctlStepOp s n
  | .resetCtl =>
    if F = rs_RSTCTL_WARM then warmOp s ag.isKid
    else if F = rs_RSTCTL_HERDGO then herdgoOp s
    else domgoOp s
  | .herdFence =>
    if F = hf_HCTL_FENCE then fenceOp s n
    else if F = hf_HCTL_LIFT then liftOp s n
    else bistgoOp s n
  | .testService => if F = ts_FPGO then fpgoOp s else subgoOp s
  | _ => s

/-! ### The write (R12 to R16) -/

/-- The instance whose copy of a field a write reaches: OXFAULT is one register of the engine (R231). -/
def ownInst (F : Fld) (n : Nat) : Nat := if F = ox_OXFAULT_RSVW ∨ F = ox_OXFAULT_UECC then n / 64 * 64 else n

/-- A write that counts as a write to an IMG field (R13). -/
def imgWrite (s : State) (F : Fld) (n i v : Nat) (ag : Agent) : State := match ag with
  | .kid _ => { s with reply := .trap 0x0A }
  | .tap => if s.lc.dbg = 2 then wr s F n v i else faultBit s (imgwOf F.blk n)
  | _ => faultBit s (imgwOf F.blk n)

/-- What a write does to one field that is no W1P field. -/
def fieldWrite (s : State) (F : Fld) (n i : Nat) (c : Nat × Nat × Nat) (ag : Agent) : State := match F.acc with
  | .ro | .w1p => s
  | .wo => rwField s F n i (mergeBits 0 c)
  | .rw => rwField s F n i (mergeBits (fieldVal s F n i) c)
  | .w1c =>
    let m := ownInst F n
    let t := if onesOf c = 0 then s else wr s F m (rd s F m i - (rd s F m i &&& onesOf c)) i
    if F.blk = .link ∧ rd t F m i ≠ rd s F m i then lfaultRead t n else t
  | .img =>
    let v := mergeBits (rd s F n i) c
    if v = rd s F n i then s else imgWrite s F n i v ag
  | .nrw => nrwField s F n (mergeBits (rd s F n i) c)

/-- A write of nb bytes at offset o of a register block: its fields take their values, then the W1P actions follow in
ascending order, each with the values that the write left. RSVW is set before the W1C fields act, so a write that carries a 1 for
a reserved bit and a 1 for RSVW leaves RSVW clear (assumption 73). -/
def regWrite (s : State) (b : Blk) (n o nb v : Nat) (ag : Agent) : State :=
  let s : State := { s with reply := .done }
  let fs := (fieldsInWrite b o nb).filter (fun f => !absent s f.1 n)
  let s := reservedWrite s b n o nb v
  let s := fs.foldl (fun s f => fieldWrite s f.1 n f.2 (carried f.1 f.2 o nb v) ag) s
  fs.foldl (fun s f =>
    let ones := onesOf (carried f.1 f.2 o nb v)
    if f.1.acc = .w1p ∧ ones ≠ 0 then pulse s f.1 n f.2 ones ag else s) s

end Sys2Proof.Machine
end

