-- ==== Sys2Proof/Machine/Bus.lean ====
section
/-!
DEFINITION. Accesses to the device-local map: who reaches what, the boundaries at which an access waits, what memory, registers
and ports do with it, and the answer (R28 to R34, R171, R189, R230, R348, R364 to R366, R387, R401, R420, R430, R444).
-/

namespace Sys2Proof.Machine

/-! ### Rights -/

/-- SUP of an agent's requests (R32, R33, R347, R356, R364, R444). -/
def supOf (s : State) : Agent → Bool
  | .kid k => rdb s kd_KMODE_SUP k
  | .fawn _ => false
  | .link _ sup => sup
  | _ => true

/-- The limited map of R387. -/
def limitedMap (a : Nat) : Bool := match placeOf a with
  | .reg b _ _ => b == .devfeat || b == .hostBoot || b == .lifecycle || b == .testService
  | _ => false

/-- An address of a kid view, or of the test and service block. -/
def viewOrService (a : Nat) : Bool :=
  decide (0x11_0000_0000 ≤ a ∧ a < 0x11_8000_0000) || (match placeOf a with
    | .reg b _ _ => b == .testService
    | _ => false)

/-- What the lifecycle state lets BAR2 and links reach (R387). -/
def lifecycleOk (s : State) (a : Nat) (write : Bool) : Bool :=
  if s.otp.lcstate = 0 then limitedMap a
  else if s.otp.lcstate = 4 then limitedMap a && !write
  else if s.otp.lcstate = 3 then !(write && s.lc.dbg == 0 && viewOrService a)
  else true

/-- What BAR2 reaches while the image is fetched and checked (R371, R375 case 3). -/
def bootOk (s : State) (a : Nat) (write : Bool) : Bool :=
  let ph := rd s hb_BOOTSTAT_PHASE
  if ph = 4 then staging a else if ph = 5 ∨ ph = 6 then !(write && staging a) else true

/-- An access that the agent has no right to make. -/
def refusedTo (s : State) (q : BusReq) : Bool := match q.ag, q.ret with
  | .host, .host true _ _ _ => !lifecycleOk s q.a q.wr.isSome || !bootOk s q.a q.wr.isSome
  | .link _ sup, _ => (!sup && decide (0x11_0000_0000 ≤ q.a)) || !lifecycleOk s q.a q.wr.isSome
  | _, _ => false

/-! ### Boundaries (R401, R415, R420, R430, R439) -/

/-- The herd of an agent inside a herd. -/
def herdOfAgent : Agent → Option Nat
  | .kid k => some (herdOfKid k)
  | _ => none

/-- A herd fence keeps the access waiting: at the herd it reaches, or at the herd of the kid that sends it. -/
def fenceHolds (s : State) (q : BusReq) : Bool :=
  let own := herdOfAgent q.ag
  let there := herdAt q.a
  (match there with
    | some h => own != some h && fenceOf s h != 0 && !supOf s q.ag
    | none => false) ||
  (match own with
    | some h => there != some h && fenceOf s h != 0 && (kidOf s (match q.ag with
        | .kid k => k.val
        | _ => 0)).haltReq.isNone
    | none => false)

/-- The host wakes a device in WATCH, but for the blocks of R419 case 4. -/
def wakesWatch (q : BusReq) : Bool := q.ag == .host && (match placeOf q.a with
  | .reg b _ _ => b != .power && b != .domain && b != .devfeat && b != .hostBoot
  | _ => true)

/-- An access from outside waits at what a device-wide reset still holds: the device's blocks before WIPE has ended, and HBM until
it has been wiped (R162, R371, R420). -/
def bootHolds (s : State) (q : BusReq) : Bool :=
  let ph := rd s hb_BOOTSTAT_PHASE
  q.outside && ((decide (1 ≤ ph ∧ ph ≤ 3) && decide (q.a < 0x14_0000_0000)) ||
    (s.host.wipeFull && decide (q.a < 0x10_0000_0000)))

/-- Whether a boundary keeps the access waiting. -/
def mustWait (s : State) (q : BusReq) : Bool :=
  bootHolds s q ||
  (match domOf q.a with
    | some d => pstate s d != 0
    | none => false) ||
  (match herdAt q.a with
    | some h => s.rst.herds.contains h
    | none => false) ||
  fenceHolds s q || (hbmShut s q.a && !supOf s q.ag) || (wakesWatch q && rd s pm_PMSTAT_STATE == 2)

/-- A domain that TRIMFAIL holds answers as a reserved address. -/
def trimHeld (s : State) (q : BusReq) : Bool := match domOf q.a with
  | some d => rdb s pd_DSTAT_TRIMFAIL d
  | none => false

/-! ### What a place does with an access -/

/-- The header of a link request. -/
def headOf (q : BusReq) : Msg := match q.ret with
  | .link _ h => ⟨h, []⟩
  | _ => ⟨0, []⟩

/-- The transaction type of a link request (R348), 0 for any other access. -/
def ttOf (q : BusReq) : Nat := (headOf q).tt

/-- The sizes and alignments that an access may have (R29, R348). -/
def shapeOk (q : BusReq) : Bool :=
  let natural := (q.n == 1 || q.n == 2 || q.n == 4 || q.n == 8) && q.a % q.n == 0
  match placeOf q.a with
  | .mem =>
    (List.range q.n).all (fun j => decide (placeOf (q.a + j) = .mem)) &&
      (natural || ((ttOf q == 1 || ttOf q == 2) && q.a % 4096 + q.n ≤ 4096))
  | _ => natural

/-- The slot of an oryx mailbox address: herd, slot, offset. -/
def slotAddr (a : Nat) : Option (Nat × Nat × Nat) :=
  if 0x12_0000_0000 ≤ a ∧ a < 0x12_0200_0000 ∧ 0x2000 ≤ a % 0x1_0000 ∧ a % 0x1_0000 < 0x3000 then
    some ((a - 0x12_0000_0000) / 0x1_0000, (a % 0x1_0000 - 0x2000) / 0x40, a % 0x40)
  else none

/-- An access to a slot without the right to it (R230). -/
def slotRefused (s : State) (q : BusReq) : Bool := match slotAddr q.a with
  | some (h, j, _) => !slotRight s q.ag h j
  | none => false

/-- Commit the merge entries of the words that a link write touched: its completion tells of a rejected commit (R350). -/
def commitNow (s : State) (a n : Nat) : State :=
  (List.range n).foldl (fun s j => match locOf (a + j) with
    | some w => if j = 0 ∨ w.base = a + j then commitWord s w else s
    | none => s) s

/-- A write to memory. -/
def memStore (s : State) (q : BusReq) (v : Nat) : State :=
  match slotAddr q.a with
  | some (h, j, o) => slotWrite s q.ag h j o q.n v q.ret
  | none =>
    let t := snoopWrite (memWrite s q.a (bytesLE q.n v) (agentRq q.ag true)) q.a q.n
    if ttOf q = 2 then
      let u := commitNow t q.a q.n
      { u with reply := if rd u mi_REJCOUNT = rd t mi_REJCOUNT then .done else .trap 6 }
    else { t with reply := .done }

/-- A read of memory. -/
def memLoad (s : State) (q : BusReq) : State :=
  let (r, s) := memRead s q.a q.n (agentRq q.ag false)
  { s with reply := match r with
    | some bs => .data (ofBytesLE bs)
    | none => .uecc }

/-- The new value of an ATOMIC: operation, width in bits, old value, operands. -/
def atomicNew (op w old v : Nat) : Nat :=
  if op = 0 then v % 2 ^ w
  else if op = 1 then (if old = v % 2 ^ w then v / 2 ^ w % 2 ^ w else old)
  else (old + v) % 2 ^ w

/-- An ATOMIC at its target: HBM or herd shared memory (R348). -/
def atomicOp (s : State) (q : BusReq) (op v : Nat) : State :=
  if 0x10_0800_0000 ≤ q.a ∨ 3 ≤ op ∨ (q.n ≠ 4 ∧ q.n ≠ 8) then { s with reply := .reserved }
  else
    let t := memLoad s q
    match t.reply with
    | .data old =>
      let new := atomicNew op (8 * q.n) old v
      let t := snoopWrite (memWrite t q.a (bytesLE q.n new) (agentRq q.ag true)) q.a q.n
      { commitNow t q.a q.n with reply := .data old }
    | _ => t

/-- A read of WAIT that must wait (R231). -/
def waitRead (s : State) (q : BusReq) (b : Blk) (n o : Nat) : Bool :=
  b == .oryxSlot && decide (o < 0x38 ∧ 0x34 < o + q.n) && slotPending s (n / 64) (n % 64) != 0

/-- The read of a register. -/
def regLoad (s : State) (q : BusReq) (b : Blk) (n o : Nat) : State :=
  if waitRead s q b n o then hold s q
  else { s with reply := .data (regRead s b n o q.n) }

/-- The access is made at its place. -/
def serve (s : State) (q : BusReq) : State :=
  if !shapeOk q || slotRefused s q then { s with reply := .reserved }
  else match placeOf q.a, q.wr with
    | .hole, _ => { s with reply := .reserved }
    | .mem, none => memLoad s q
    | .mem, some v => if ttOf q = 3 then atomicOp s q (headOf q).opx v else memStore s q v
    | .reg b n o, w =>
      if ttOf q = 3 then { s with reply := .reserved }
      else (match w with
        | none => regLoad s q b n o
        | some v => regWrite s b n o q.n v q.ag)
    | .port e o, w => match portRight s e q.ag with
      | .ok => (match w with
        | none =>
          let (r, s) := portRead s e o q.n
          { s with reply := r }
        | some v => portWrite s e o q.n v q.ag q.ret)
      | r => portRefuse s e r

/-- The bytes of clauses, storage returns and demands that arrive for a herd's endpoints (R348, R430 case 3). -/
def streamMsg (q : BusReq) : Bool := ttOf q == 5 || ttOf q == 6

/-- The endpoint that a stream message is for: the consumer of a CLAUSE, the producer that a QRET names, or, where the QRET
carries a demand, the consumer of the queue of that producer. -/
def streamEp (s : State) (q : BusReq) : Option Nat :=
  let m := headOf q
  let e := bits m.addr 14 0
  if m.tt = 5 then (if role s e = 2 ∧ rd s qx_PEERNODE e = m.src then some e else none)
  else if bit (q.wr.getD 0) 31 then
    (List.range 32768).find? (fun c => role s c == 2 && rd s qx_PEERNODE c == m.src && rd s qx_PEEREP c == e)
  else if role s e = 1 ∧ rd s qx_PEERNODE e = m.src then some e else none

/-- A CLAUSE reaches its consumer, or a QRET its endpoint; one that does not match counts in BADQ. -/
def streamOp (s : State) (q : BusReq) : State :=
  let v := q.wr.getD 0
  let s : State := { s with reply := .done }
  match streamEp s q with
  | none => incr s rt_BADQ
  | some e =>
    if (headOf q).tt = 5 then arrive s e ((bytesLE q.n v).map (fun b => ⟨some b, false, false, 0⟩))
    else if bit v 31 then demandOp s e
    else storageBack s e (bits v 26 0)

/-- The herd that keeps a stream message waiting. -/
def streamWaits (s : State) (q : BusReq) : Option Nat := match streamEp s q with
  | some e => if epOpen s e then none else some (e / 64)
  | none => none

/-- An access comes to the boundaries of its target: it is refused, waits, or is made. -/
def busOp (s : State) (q : BusReq) : State :=
  if streamMsg q then
    (match streamWaits s q with
      | some h => hold (touch s (herdDom h)) q
      | none => streamOp s q)
  else if refusedTo s q then { s with reply := .refused }
  else if placeOf q.a = .hole ∨ trimHeld s q = true then { s with reply := .reserved }
  else
    let s := if wakesWatch q then watchAccess s else s
    if mustWait s q then
      hold (match domOf q.a with
        | some d => touch s d
        | none => s) q
    else serve s q

/-! ### Answers -/

/-- The STATUS of a reply (R350). -/
def statusOf : Reply → Nat
  | .data _ | .done => 0
  | .refused => 2
  | .uecc => 4
  | .trap c => if c = 6 then 5 else 3
  | _ => 3

/-- A completion goes to its requester, who may be on this node. -/
def sendCompletion (s : State) (c : Msg) : State :=
  if c.dst = rd s rt_NODEID then { s with localRsp := s.localRsp ++ [c] } else routePosted s c

/-- The completion of a link request goes back to its requester. -/
def answerLink (s : State) (h : Nat) (r : Reply) : State :=
  let m : Msg := ⟨h, []⟩
  if ttPosted m.tt then s
  else
    let st := statusOf r
    let rdc := m.tt == 1 || m.tt == 3
    let d := match r with
      | .data v => if rdc then bytesLE m.len v else []
      | _ => []
    let c : Msg := ⟨header (if rdc then 7 else 8) d.length m.sup 63 m.tag (rd s rt_NODEID) m.src m.addr st 0, d⟩
    sendCompletion s c

/-- A run of bytes of a BAR read has come; with all of them the read is completed. -/
def readRun (s : State) (x : HostRead) (i n v : Nat) : State :=
  let y := { x with got := x.got ++ [(i, n, v)] }
  let s := { s with host := { s.host with reads := s.host.reads.map (fun r => if r.id = x.id then y else r) } }
  if x.n ≤ (y.got.map (fun g => g.2.1)).sum then endRead s y (.data (y.got.map (fun g => g.2.2 * 256 ^ g.1)).sum) else s

/-- A BAR write fails: it is counted once. -/
def failWrite (s : State) (bar2 : Bool) (off id : Nat) : State :=
  if id ≠ 0 ∧ s.host.failed = some id then s
  else hostErr { s with host := { s.host with failed := some id } } (barOff bar2 off)

/-- Bytes i to i + n - 1 of BAR request id are answered (R365, R366); what comes for a read that has ended is discarded. -/
def answerHost (s : State) (bar2 : Bool) (off id i n : Nat) (wr : Bool) (r : Reply) : State :=
  if wr then (match r with
    | .data _ | .done => s
    | _ => failWrite s bar2 off id)
  else match s.host.reads.find? (fun x => x.id == id), r with
    | none, _ => s
    | some x, .data v => readRun s x i n v
    | some x, r => failRead s x (if r = .reserved ∨ r = .refused then .ur else .ca)

/-- What the host is answered. -/
def hostReply (wr : Bool) (r : Reply) : Reply := match r with
  | .data v => .data v
  | .done => .done
  | .reserved | .refused => if wr then .done else .ur
  | _ => if wr then .done else .ca

/-- The TAP captures the end of its access (R444). -/
def answerTap (s : State) (r : Reply) : State :=
  let v := match r with
    | .data v => v
    | _ => 0
  let st := match r with
    | .data _ | .done => 0
    | .refused => 2
    | _ => 1
  { s with tap := { s.tap with cap := 1 + 2 * st + 2 ^ 44 * v } }

/-- The oldest entry of a kid's store buffer has drained (R81, R137, R138). -/
def drained (s : State) (k : Nat) (r : Reply) : State :=
  let c := kidOf s k
  let c := { c with sbuf := c.sbuf.drop 1, deferred := match r with
    | .data _ | .done => c.deferred
    | r => c.deferred ++ [trapOfReply r] }
  if c.wait = some .drain then haltDue (advance (setKid s k { c with wait := none, must := true }) k 1) k
  else haltDue (setKid s k c) k

/-- A fawn stops at a word with a cause: its port or link records it and raises its event (R114, R278, R323, R356). -/
def stopFawn (s : State) (f cause : Nat) : State :=
  let w := fawnOf s f
  let s := setFawn s f { w with st := .stopped, wait := none }
  let pc := w.pc.toNat
  if f < 128 then
    let p := f / 2
    portNotify (if f % 2 = 0 then wr (wr s ax_PFAWN_RXCAUSE p cause) ax_PFAWN_RXADDR p pc
      else wr (wr s ax_PFAWN_TXCAUSE p cause) ax_PFAWN_TXADDR p pc) p
  else if f < 144 then
    let c := (f - 128) / 2
    camNotify (if f % 2 = 0 then wr (wr s cm_CFAWN_SUCAUSE c cause) cm_CFAWN_SUADDR c pc
      else wr (wr s cm_CFAWN_STCAUSE c cause) cm_CFAWN_STADDR c pc) c
  else
    let l := (f - 144) / 2
    raiseFault (if f % 2 = 0 then wr (wr s lk_LFAWN_RXCAUSE l cause) lk_LFAWN_RXADDR l pc
      else wr (wr s lk_LFAWN_TXCAUSE l cause) lk_LFAWN_TXADDR l pc) 6

/-- A fawn goes on at the next word. -/
def nextFawn (s : State) (f : Nat) : State :=
  let w := fawnOf s f
  setFawn s f { w with pc := w.pc + 1, wait := none }

/-- The access that a store to a common address makes (R381): a write of its byte to RING or to HOSTRING. -/
def commonReq (s : State) (f : FawnId) (o v : Nat) (ret : Ret) : BusReq :=
  if o = 0 then ⟨.fawn f, blkBase .hdc (rd s lc_FCFG_RINGHERD 0 f) + 0x80, 1, some v, ret⟩
  else ⟨.fawn f, blkBase .hostBoot 0 + 0x40, 1, some v, ret⟩

/-- A store of a fawn completes, or it stops the fawn. -/
def endFawnStore (s : State) (f : Nat) (r : Reply) : State := match r with
  | .done => nextFawn s f
  | r => stopFawn s f (trapOfReply r)

/-- The RING half of a pair store to 0x3800 has completed: the HOSTRING half follows (R381). -/
def hostHalf (s : State) (f : FawnId) (v : Nat) : State :=
  let s := setFawn s f { fawnOf s f with wait := some (.store (v / 256) 1 0x3801) }
  let t := busOp s (commonReq s f 1 (v / 256) (.fawn f))
  if t.reply = .waits then t else endFawnStore t f t.reply

/-- The access that fawn f waits on is answered. -/
def finishFawn (s : State) (f : FawnId) (r : Reply) : State :=
  let w := fawnOf s f
  match w.wait with
  | some (.load d _) => (match r with
    | .data v => nextFawn (setFawn s f { w with b := Regs.load w.b d v }) f
    | r => stopFawn s f (trapOfReply r))
  | some (.store v n a) => if n = 2 ∧ a = 0x3800 ∧ r = .done then hostHalf s f v else endFawnStore s f r
  | _ => s

/-- The answer of an access goes to the agent that made it. -/
def answer (s : State) (q : BusReq) (r : Reply) : State :=
  match q.ret with
  | .none => { s with reply := r }
  | .kid k => { finishKid s k r with reply := r }
  | .fawn f => { finishFawn s f r with reply := r }
  | .host bar2 off id i => { answerHost s bar2 off id i q.n q.wr.isSome r with reply := hostReply q.wr.isSome r }
  | .link _ h => { answerLink s h r with reply := r }
  | .tap => { answerTap s r with reply := r }
  | .drain k => { drained s k r with reply := r }

/-- The BAR offset of the request being served, which a merge buffer keeps for HERRLAST (R365). -/
def noteHost (s : State) (q : BusReq) : State := match q.ret with
  | .host bar2 off _ _ => { s with host := { s.host with cur := barOff bar2 off } }
  | _ => s

/-- An access: it is answered, or it waits. -/
def access (s : State) (q : BusReq) : State :=
  let t := busOp (noteHost s q) q
  if t.reply = .waits then t else answer t q t.reply

/-- The accesses that wait at a boundary, in the order of their arrival: each is made now if its boundary has opened. -/
def replay (s : State) : State :=
  { s.held.foldl access { s with held := [] } with reply := s.reply }

/-! ### Register writes -/

/-- Where the bytes of a write lie that reach an NRW field. -/
def nrwBytes (a n : Nat) : Bool := (List.range n).any (fun j => match placeOf (a + j) with
  | .reg b _ o => (fieldsAt b o).any (fun f => decide (f.1.acc = .nrw))
  | _ => false)

/-- The BAR and the offset at which the host reaches an address of this node (R363, R364). -/
def hostWay (s : State) (a : Nat) : Option Ret :=
  if 0x14_0030_0000 ≤ a ∧ a < 0x14_0031_0000 then some (.host false (a - 0x14_0030_0000) 0 0)
  else ((List.range 16).find? (fun i => rdb s hb_APVALID 0 i && rd s hb_APNODE 0 i == rd s rt_NODEID &&
    rd s hb_APBASE 0 i == a / 0x1000_0000)).map (fun i => .host true (i * 0x1000_0000 + a % 0x1000_0000) 0 0)

/-- Where the answer of a write goes that a command names by its agent; none where the host has no way to the address. -/
def wayOf (s : State) (ag : Agent) (a : Nat) : Option Ret := match ag with
  | .host => hostWay s a
  | _ => some .none

/-- Whether a kid without SUP reaches an address of this node through its global window (R32). -/
def kidRefused (s : State) (ag : Agent) (a : Nat) : Bool := match ag with
  | .kid _ => !supOf s ag && decide (0x11_0000_0000 ≤ a)
  | _ => false

/-- A write of an agent to an address of the map. -/
def busWrite (s : State) (ag : Agent) (a n v : Nat) (ret : Ret) : State :=
  if kidRefused s ag a then { s with reply := .refused }
  else replay (access s ⟨ag, a, n, some v, ret⟩)

/-- REGISTER_WRITE. -/
def execRegisterWrite (ag : Agent) (a : Addr) (sz : Size) (v : BitVec 64) (s : State) : Out :=
  match wayOf s ag a.toNat with
  | some ret => due s (!s.pow.deep) (busWrite s ag a.toNat sz.bytes (v.toNat % 256 ^ sz.bytes) ret)
  | none => .next s

/-- NRW_WRITE: the write reaches an envelope or constraint limit. -/
def execNrwWrite (ag : Agent) (a : Addr) (sz : Size) (v : BitVec 64) (s : State) : Out :=
  match wayOf s ag a.toNat with
  | some ret => due s (!s.pow.deep && nrwBytes a.toNat sz.bytes) (busWrite s ag a.toNat sz.bytes (v.toNat % 256 ^ sz.bytes) ret)
  | none => .next s

end Sys2Proof.Machine
end

