-- ==== Sys2Proof/Machine/Fawn.lean ====
section
/-!
DEFINITION. How a fawn executes: fetch, its data map, and its stops (R34, R112 to R114, R133, R277, R323, R356, R381).
-/

namespace Sys2Proof.Machine

/-! ### Fetch -/

/-- The power domain of a fawn. -/
def fawnDom (f : Nat) : Nat :=
  if f < 128 then edgeDom (f / 32) else if f < 144 then edgeDom ((f - 128) / 4) else linkDom ((f - 144) / 2)

/-- The fawn issues its next instruction now. -/
def fawnReady (s : State) (f : Nat) : Bool :=
  !s.pow.deep && pstate s (fawnDom f) == 0 && decide ((fawnOf s f).st = .running) && (fawnOf s f).wait.isNone

def fawnRq (f : Nat) : Rq := ⟨3, f⟩

/-- A program word, zero-extended; none where it is uncorrectable. -/
def fawnWord (s : State) (f w : Nat) : Option PWord × State :=
  let (r, s) := memRead s (fawnProgAddr f w) 2 (fawnRq f)
  (r.map (fun bs => BitVec.ofNat 14 (ofBytesLE bs)), s)

/-- Run the meaning of a fawn's instruction where it issues; an uncorrectable word stops the fawn before it. -/
def onFawn (f : FawnId) (i : Instr) (s : State) (body : State → State) : Out :=
  .next (if !fawnReady s f then s
    else match fawnWord s f (fawnOf s f).pc.toNat with
      | (none, t) => stopFawn t f 2
      | (some w, t) => if decodeInstr (.fawn f) w 0 = i then body t else s)

/-- An instruction that computes registers from registers. -/
def fawnRegs (f : FawnId) (i : Instr) (g : Regs → Regs) (s : State) : Out :=
  onFawn f i s (fun s =>
    let w := fawnOf s f
    nextFawn (setFawn s f { w with b := g w.b }) f)

/-- A fawn goes to a word. -/
def gotoFawn (s : State) (f : Nat) (pc : BitVec 10) : State := setFawn s f { fawnOf s f with pc := pc }

/-! ### Data map -/

/-- Put a number into an ascending list. -/
def insertNat (n : Nat) : List Nat → List Nat
  | [] => [n]
  | m :: t => if n ≤ m then n :: m :: t else m :: insertNat n t

/-- The endpoints connected to a fawn, ascending (R381). -/
def connected (s : State) (f : Nat) : List Nat :=
  ((s.regs.filter (fun x => decide (x.1 = qx_ENGINE.key x.1.inst 0) && x.2 == 0x4000 + f && rd s qx_OWNER x.1.inst == 0x41)).map
    (fun x => x.1.inst)).foldl (fun l e => insertNat e l) []

/-- What lies at a fawn's data address. -/
inductive FPlace where
  | own (o : Nat)
  | rx (o : Nat)
  | rxStat
  | tx (o : Nat)
  | txStat
  | slot (o : Nat)
  | svcReq (o : Nat)
  | regs (o : Nat)
  | times (o : Nat)
  | frameEvent
  | area (o : Nat)
  | cmp (o : Nat)
  | faultEvent
  | port (e o : Nat)
  | common (o : Nat)
  | none
deriving DecidableEq, Repr

/-- The queue port at an address from 0xC000 on. -/
def fawnPort (s : State) (f a : Nat) : FPlace := match (connected s f)[(a - 0xC000) / 0x80]? with
  | some e => .port e (a % 0x80)
  | none => .none

/-- The data map of a fawn. -/
def fawnPlace (s : State) (f a : Nat) : FPlace :=
  let odd := f % 2 == 1
  if a < 0x100 then .own a
  else if a = 0x3800 ∨ a = 0x3801 then .common (a - 0x3800)
  else if 0xC000 ≤ a ∧ a < 0xC800 then fawnPort s f a
  else if 0x3000 ≤ a ∧ a < 0x3100 then .regs (a - 0x3000)
  else if f < 128 then
    if 0x1000 ≤ a ∧ a < 0x108C then (if odd then .tx (a - 0x1000) else .rx (a - 0x1000))
    else if a = 0x10F0 then (if odd then .txStat else .rxStat)
    else if 0x2000 ≤ a ∧ a < 0x2080 ∧ odd then .slot (a - 0x2000)
    else if 0x2080 ≤ a ∧ a < 0x2088 ∧ odd then .svcReq (a - 0x2080)
    else if 0x3100 ≤ a ∧ a < 0x3118 then .times (a - 0x3100)
    else .none
  else if f < 144 then (if a = 0x10F0 ∨ a = 0x10F4 then .frameEvent else .none)
  else
    if a = 0x1040 then .faultEvent
    else if 0x1000 ≤ a ∧ a < 0x1020 ∧ odd then .area (a - 0x1000)
    else if 0x1020 ≤ a ∧ a < 0x1040 ∧ odd then .cmp (a - 0x1020)
    else .none

/-- The register block of a fawn's unit. -/
def fawnBlk (f : Nat) : Blk × Nat :=
  if f < 128 then (.axisPort, f / 2) else if f < 144 then (.camera, (f - 128) / 2) else (.link, (f - 144) / 2)

/-! ### Loads -/

/-- Bytes of a value from byte o on. -/
def byteSlice (v o n : Nat) : Nat := v / 2 ^ (8 * o) % 2 ^ (8 * n)

/-- A read of an array of the unit. -/
def unitRead (s : State) (a n : Nat) (rq : Rq) : State :=
  let (r, s) := memRead s a n rq
  { s with reply := match r with
    | some bs => .data (ofBytesLE bs)
    | none => .uecc }

/-- Bytes of CMDSLOT (R266): all of them, or a wait. -/
def cmdSlotRead (s : State) (p o : Nat) : Nat → Option (Nat × State)
  | 0 => some (0, s)
  | n + 1 => match cmdSlotRead s p o n with
    | none => none
    | some (v, s) => (cmdSlotByte s p ((o + n) / 8) ((o + n) % 8)).map (fun r => (v + r.1 * 2 ^ (8 * n), r.2))

/-- The completion area of a link's transmit fawn: header, then data. -/
def cmpBytes (w : Fawn) : Option (List Byte) := w.cmp.map (fun c => (bytesLE 16 c.1 ++ c.2 ++ List.replicate 16 0).take 32)

/-- Who meets a word of a fawn's data, as the log names it: the data of camera ports and links are arrays of their engines (R174,
R324, R360). -/
def ownRq (f : Nat) : Rq := if f < 128 then fawnRq f else if f < 144 then camRq ((f - 128) / 2) else linkRq ((f - 144) / 2)

/-- An uncorrectable word of a fawn's data: CFAULT.UECC and the pose of the frame in hand (R324), or LFAULT.UECC (R360). -/
def ownUecc (s : State) (f : Nat) : State :=
  if f < 128 then s
  else if f < 144 then
    let c := (f - 128) / 2
    let s := camFault s cm_CFAULT_UECC c
    let x := camOf s c
    let mark (f : Frame) : Frame := { f with uecc := true }
    setCam s c (if x.frame.isSome then { x with frame := x.frame.map mark } else { x with fit := x.fit.map mark })
  else linkFault s lk_LFAULT_UECC ((f - 144) / 2)

/-- A read of a fawn's own data. -/
def ownRead (s : State) (f o n : Nat) : State :=
  let t := unitRead s (fawnDataAddr f o) n (ownRq f)
  if t.reply = .uecc then { ownUecc t f with reply := .uecc } else t

/-- What a read at a place gives. -/
def fawnLoad (s : State) (f : FawnId) (a n : Nat) : State :=
  let p := f.val / 2
  let x := portOf s p
  let give (v : Nat) : State := { s with reply := .data v }
  match fawnPlace s f a with
  | .own o => ownRead s f o n
  | .rx o => if o + n ≤ x.rxLen then unitRead s (ioAddr (0x8000 + p * 4) o) n (fawnRq f) else { s with reply := .waits }
  | .rxStat => if n ≠ 1 then { s with reply := .reserved } else if x.rxStat = 0 then { s with reply := .waits } else give x.rxStat
  | .tx o => unitRead s (ioAddr (0x8001 + p * 4) o) n (fawnRq f)
  | .txStat => if n ≠ 1 then { s with reply := .reserved }
    else give (b2n (x.frame.any (fun f => f.st == .going)) + 2 * b2n x.txUnder)
  | .slot o => (match cmdSlotRead s p o n with
    | some (v, t) => { t with reply := .data v }
    | none => { s with reply := .waits })
  | .svcReq o => give (byteSlice (svcRequestWord s p) o n)
  | .regs o => give (regRead s (fawnBlk f).1 (fawnBlk f).2 o n)
  | .times o => give (byteSlice (x.cyct.toNat + x.sampt.toNat * 2 ^ 64 + x.fbend.toNat * 2 ^ 128) o n)
  | .frameEvent | .faultEvent => { s with reply := .waits }
  | .area o => give (ofNats ((List.range n).map (fun j => (((fawnOf s f).area.lookup (o + j)).getD 0).toNat)))
  | .cmp o => (match cmpBytes (fawnOf s f) with
    | some bs => give (ofBytesLE ((bs.drop o).take n))
    | none => { s with reply := .waits })
  | .port e o => busOp s ⟨.fawn f, blkBase .prodPort e + o, n, none, .fawn f⟩
  | .common _ | .none => { s with reply := .reserved }

/-! ### Stores -/

/-- The RW fields of a camera port take what its fawns write; a write that reaches another field is handled as R12 to R16
state for a fawn, but no action is pulsed and no bit cleared (R323). -/
def camRegStore (s : State) (f : FawnId) (c o n v : Nat) : State :=
  let s := reservedWrite s .camera c o n v
  (fieldsInWrite .camera o n).foldl (fun s g =>
    if g.1.acc = .rw ∨ g.1.acc = .img then fieldWrite s g.1 c g.2 (carried g.1 g.2 o n v) (.fawn f) else s) s

/-- A completion of a link fawn's request stands in its area. -/
def areaDone (s : State) (f : Nat) (h : Nat) (d : List Byte) : State :=
  let w := fawnOf s f
  setFawn s f { w with cmp := some (h, d), req := none, wait := match w.wait with
    | some (.load _ _) => none
    | x => x }

/-- A request of a link fawn that no target can serve is completed here with STATUS RESERVED. -/
def areaRefused (s : State) (f : Nat) (m : Msg) (st : Nat) : State :=
  areaDone s f (header (if m.tt = 1 ∨ m.tt = 3 then 7 else 8) 0 false 0 0 (rd s rt_NODEID) (rd s rt_NODEID) m.addr st 0) []

/-- With no free tag the store waits for one (R349): it is issued again until it finds one. -/
def areaWaits (s : State) (f : FawnId) : State := { setFawn s f { fawnOf s f with wait := none } with reply := .waits }

/-- A write to 0x101F sends the request of the area: TT, LEN, ADDR, OPX and DSTNODE as written, the rest as R347 states. -/
def areaSend (s : State) (f : FawnId) : State :=
  let w := fawnOf s f
  let byte (o : Nat) : Byte := (w.area.lookup o).getD 0
  let m : Msg := ⟨ofBytesLE ((List.range 16).map byte), []⟩
  let n := dataLen m
  let s : State := { setFawn s f { w with cmp := none } with reply := .done }
  if !(decide (1 ≤ m.tt ∧ m.tt ≤ 4)) || !lenOk m || decide (16 < n) || (m.tt == 1 && decide (16 < m.len)) then areaRefused (routeLog s (.fawn f) m.h 3 0xF) f m 3
  else
    let d := (List.range n).map (fun i => byte (16 + i))
    if m.dst = rd s rt_NODEID then
      match freeTag s with
      | none => areaWaits s f
      | some tag =>
        let h := header m.tt m.len false 63 tag m.dst m.dst m.addr m.opx 0
        { setFawn s f { fawnOf s f with req := some tag } with
          reqs := alSet s.reqs tag (newReq s (.fawn f) h 0xF (.fawn f)), localMsgs := s.localMsgs ++ [⟨h, d⟩] }
    else match sendRequest s (.fawn f) (.fawn f) m.tt m.len false m.dst m.addr m.opx d with
      | (.noTag, t) => areaWaits t f
      | (.failed st, t) => areaRefused t f m st
      | (.sent tag, t) => setFawn t f { fawnOf t f with req := some tag }

/-- A write to the request area. -/
def areaStore (s : State) (f : FawnId) (o n v : Nat) : State :=
  let w := fawnOf s f
  let area := (List.range n).foldl (fun l j => alSet l (o + j) (BitVec.ofNat 8 (byteSlice v j 1))) w.area
  let s : State := { setFawn s f { w with area := area } with reply := .done }
  if o ≤ 0x1F ∧ 0x1F < o + n then areaSend s f else s

/-- Bytes of the TX buffer are written (R277). -/
def txStore (s : State) (p o n v : Nat) (rq : Rq) : State :=
  let s := memWrite s (ioAddr (0x8001 + p * 4) o) (bytesLE n v) rq
  let x := portOf s p
  let new := ((List.range n).map (fun j => o + j)).filterMap (fun b => if 2 ≤ b then some (b - 2) else none)
  { setPort s p { x with tx := x.tx.filter (fun b => !new.contains b) ++ new } with reply := .done }

/-- Byte j of a store to the common addresses acts on RING or HOSTRING, where its enable is set (R381). -/
def commonEnabled (s : State) (f o : Nat) : Bool := if o = 0 then rdb s lc_FCFG_RINGEN 0 f else rdb s lc_FCFG_HOSTEN 0 f

/-- A store to the common addresses; the HOSTRING half of a pair follows when the RING half has completed. -/
def commonStore (s : State) (f : FawnId) (o n v : Nat) : State :=
  if !(List.range n).all (fun j => commonEnabled s f (o + j)) then { s with reply := .reserved }
  else busOp s (commonReq s f o (v % 256) (.fawn f))

/-- What a write at a place does; read-only places ignore it. -/
def fawnStore (s : State) (f : FawnId) (a n v : Nat) : State :=
  let p := f.val / 2
  let s : State := { s with reply := .done }
  match fawnPlace s f a with
  | .own o => memWrite s (fawnDataAddr f o) (bytesLE n v) (ownRq f)
  | .tx o => txStore s p o n v (fawnRq f)
  | .regs o => if 128 ≤ f.val ∧ f.val < 144 then camRegStore s f ((f.val - 128) / 2) o n v else s
  | .rx _ | .rxStat | .txStat | .slot _ | .svcReq _ | .times _ | .frameEvent | .faultEvent | .cmp _ => s
  | .area o => areaStore s f o n v
  | .port e o => busOp s ⟨.fawn f, blkBase .prodPort e + o, n, some v, .fawn f⟩
  | .common o => commonStore s f o n v
  | .none => { s with reply := .reserved }

/-! ### Accesses of an instruction -/

/-- An access of fawn f, with what it waits on. -/
def fawnAccess (s : State) (f : FawnId) (wait : Wait) (op : State → State) : State :=
  let t := op (setFawn s f { fawnOf s f with wait := some wait, since := s.tb.count })
  if t.reply = .waits then t else finishFawn t f t.reply

/-- LD, LDW: an odd pair address stops the fawn (R114). -/
def fawnLd (f : FawnId) (i : Instr) (d : Dst) (wa : Fin 8) (n : Nat) (s : State) : Out :=
  onFawn f i s (fun s =>
    let a := Regs.pair (fawnOf s f).b wa
    if n = 2 ∧ a.toNat % 2 = 1 then stopFawn s f 4
    else fawnAccess s f (.load d a) (fun s => fawnLoad s f a.toNat n))

/-- ST, STW. -/
def fawnSt (f : FawnId) (i : Instr) (v : Regs → Nat) (wa : Fin 8) (n : Nat) (s : State) : Out :=
  onFawn f i s (fun s =>
    let b := (fawnOf s f).b
    let a := Regs.pair b wa
    if n = 2 ∧ a.toNat % 2 = 1 then stopFawn s f 4
    else fawnAccess s f (.store (v b) n a) (fun s => fawnStore s f a.toNat n (v b)))

end Sys2Proof.Machine
end

