-- ==== Sys2Proof/Machine/Kid.lean ====
section
/-!
DEFINITION. The accesses of a kid: its data map, store buffer, program memory, special registers, and the flow of control (R60 to
R89, R102 to R111, R130 to R145).
-/

namespace Sys2Proof.Machine

/-! ### The data map (R60 to R63) -/

/-- What lies at a kid's data address: a place that the store buffer serves, a device register, or a reserved range. -/
inductive KPlace where
  | buf (g : GAddr)
  | dev (a : Nat)
  | none
deriving DecidableEq, Repr

/-- The data map of kid k. -/
def kidPlace (s : State) (k a : Nat) : KPlace :=
  let h := herdOfKid k
  let here (x : Nat) : KPlace := .buf ⟨true, rd s rt_NODEID, x⟩
  if a < 0x800 then here (0x11_0000_0000 + k * 0x1_0000 + a)
  else if 0x1000 ≤ a ∧ a < 0x5000 then here (0x10_0000_0000 + h * 0x4_0000 + rd s kd_KHWIN_BLK k * 0x4000 + (a - 0x1000))
  else if 0x8000 ≤ a ∧ a < 0xC000 then
    let n := rd s kd_KGWINHI_NODE k
    .buf ⟨n == rd s rt_NODEID, n, rd s kd_KGWINLO_BASE k * 0x4000 + (a - 0x8000)⟩
  else if 0xC000 ≤ a ∧ a < 0xE000 then .dev (0x12_0000_4000 + h * 0x1_0000 + (a - 0xC000) / 0x80 * 0x100 + a % 0x80)
  else if 0xE000 ≤ a ∧ a < 0xF000 then .dev (0x12_0000_2000 + h * 0x1_0000 + (a - 0xE000))
  else if 0xFE00 ≤ a ∧ a < 0xFF00 then .dev (0x12_0000_1000 + h * 0x1_0000 + (a - 0xFE00))
  else if 0xFF00 ≤ a then .dev (0x11_0000_4100 + k * 0x1_0000 + (a - 0xFF00))
  else .none

/-- The trap of an access at its issue, where a check fails: 0x04, then 0x03 (R81, R82, R102). -/
def accessTrap (s : State) (k a n : Nat) : Option Nat :=
  if n = 2 ∧ a % 2 = 1 then some 4
  else match kidPlace s k a with
  | .none => some 3
  | .dev _ => none
  | .buf g =>
    if g.here ∧ 0x8000 ≤ a ∧ ((0x11_0000_0000 ≤ g.a ∧ rdb s kd_KMODE_SUP k = false) ∨ placeOf g.a = .hole) then some 3
    else none

/-! ### The store buffer (R134 to R138) -/

/-- An entry covers byte a load reads. -/
def StoreEnt.meets (e : StoreEnt) (g : GAddr) (n : Nat) : Bool :=
  e.ga.node == g.node && decide (g.a < e.ga.a + e.n) && decide (e.ga.a < g.a + n)

/-- What the youngest entry that a load meets gives it, where it can: a byte of it, or the pair. -/
def StoreEnt.forward (e : StoreEnt) (g : GAddr) (n : Nat) : Option Nat :=
  if n = 1 then some (e.v / 256 ^ (g.a - e.ga.a) % 256)
  else if e.n = 2 ∧ e.ga.a = g.a then some (e.v % 65536)
  else none

/-- The kid waits for an entry of its store buffer to drain: one counted step. An entry for local data memory drains without
more ado. -/
def waitDrain (s : State) (k : Nat) : State :=
  setKid s k { kidOf s k with wait := some .drain }

/-- Empty the buffer for an access that needs it: the entries for local data memory drain, one counted step each; `true` where
the buffer is empty then. -/
def emptied (s : State) (k : Nat) : Bool × State :=
  let n := (kidOf s k).sbuf.length
  let t := drainLocal s k n
  let left := (kidOf t k).sbuf
  (left.isEmpty, advance t k (n - left.length))

/-- A 1-byte write to RING of another node is sent as DOORBELL (R348): the type and the address of the request. -/
def remoteStore (a n : Nat) : Nat × Nat :=
  if n = 1 ∧ 0x12_0000_0000 ≤ a ∧ a < 0x12_0200_0000 ∧ a % 0x1_0000 = 0x1080 then (4, (a - 0x12_0000_0000) / 0x1_0000) else (2, a)

/-- The reply that a failed request gives the agent that made it (R350). -/
def failReply (st : Nat) : Reply := if st = 4 then .uecc else if st = 5 then .trap 6 else if st = 2 then .refused else .reserved

/-- The head of the buffer is marked as sent. -/
def markHead (s : State) (k tag : Nat) : State :=
  let c := kidOf s k
  setKid s k { c with sbuf := match c.sbuf with
    | e :: t => { e with tag := some tag } :: t
    | [] => [] }

/-- The oldest entry of the buffer goes to its target. -/
def drainHead (s : State) (k : KidId) (e : StoreEnt) : State :=
  if e.ga.here then
    let q : BusReq := ⟨.kid k, e.ga.a, e.n, some e.v, .drain k⟩
    let t := busOp s q
    if t.reply = .waits then markHead t k 4096 else answer t q t.reply
  else
    let (tt, a) := remoteStore e.ga.a e.n
    match sendRequest s (.kid k) (.drain k) tt e.n e.sup e.ga.node a 0 (bytesLE e.n e.v) with
    | (.noTag, t) => t
    | (.failed st, t) => drained t k (failReply st)
    | (.sent tag, t) => markHead t k tag

/-! ### Loads and stores (R102, R135) -/

/-- A load that no store-buffer entry serves: from this node. -/
def loadHere (s : State) (k : KidId) (d : Dst) (a : Word16) (x n : Nat) : State :=
  let t := busOp (setKid s k { kidOf s k with wait := some (.load d a), since := s.tb.count }) ⟨.kid k, x, n, none, .kid k⟩
  if t.reply = .waits then t else finishKid t k t.reply

/-- The fence of a kid's herd keeps its requests to other nodes waiting, but while the herd empties for it (R430 case 5). -/
def shutIn (s : State) (k : Nat) : Bool := fenceOf s (herdOfKid k) != 0 && (kidOf s k).haltReq.isNone

/-- The same from another node. A load that finds no free tag, or the fence of its herd, is issued again. -/
def loadThere (s : State) (k : KidId) (d : Dst) (g : GAddr) (n : Nat) : State :=
  if shutIn s k then setKid s k { kidOf s k with must := true }
  else match sendRequest s (.kid k) (.kid k) 1 n (rdb s kd_KMODE_SUP k) g.node g.a 0 [] with
  | (.noTag, t) => setKid t k { kidOf t k with must := true }
  | (.failed st, t) => endTrap t k (trapOfReply (failReply st))
  | (.sent tag, t) => setKid t k { kidOf t k with wait := some (.remote tag d) }

/-- A load through the store buffer (R138): the youngest entry that it meets forwards, or that entry and the older ones must
drain; those for local data memory at the head drain without more ado. `fuel` bounds the entries. -/
def loadBuf : Nat → State → KidId → Dst → Word16 → GAddr → Nat → State
  | 0, s, _, _, _, _, _ => s
  | fuel + 1, s, k, d, a, g, n => match (kidOf s k).sbuf.reverse.find? (fun e => e.meets g n) with
    | some e => (match e.forward g n with
      | some v => endLoad s k d v
      | none =>
        let t := drainLocal s k 1
        if (kidOf t k).sbuf.length < (kidOf s k).sbuf.length then loadBuf fuel (advance t k 1) k d a g n else waitDrain s k)
    | none => if g.here then loadHere s k d a g.a n else loadThere s k d g n

/-- LD, LDW. -/
def kidLd (k : KidId) (i : Instr) (d : Dst) (wa : Fin 8) (n : Nat) (s : State) : Out :=
  onKid k i s (fun s p =>
    let a := Regs.pair (kidOf s k).b wa
    match accessTrap s k a.toNat n with
    | some code => trapAt s k code (kidOf s k).pc.toNat p
    | none => match kidPlace s k a.toNat with
      | .buf g => loadBuf 4 s k d a g n
      | .dev x => (match emptied s k with
        | (true, s) => loadHere s k d a x n
        | (false, s) => waitDrain s k)
      | .none => s)

/-- A store enters the buffer, which must have a free entry. -/
def storeBuf (s : State) (k : Nat) (v : Nat) (g : GAddr) (n : Nat) : State :=
  let c := kidOf s k
  let e : StoreEnt := ⟨g, n, v, rdb s kd_KMODE_SUP k, none⟩
  if c.sbuf.length < 2 then endStore (setKid s k { c with sbuf := c.sbuf ++ [e] }) k 1
  else
    let t := drainLocal s k 1
    if (kidOf t k).sbuf.length < 2 then
      let t := advance t k 1
      let c := kidOf t k
      endStore (setKid t k { c with sbuf := c.sbuf ++ [e] }) k 1
    else waitDrain s k

/-- A store to a device register. A store to the kid's own control block completes before what it commands. -/
def storeDev (s : State) (k : KidId) (v : Nat) (a : Word16) (x n : Nat) : State :=
  if 0xFF00 ≤ a.toNat then
    let t := endStore s k 0
    { busOp t ⟨.kid k, x, n, some v, .none⟩ with reply := .done }
  else
    let q : BusReq := ⟨.kid k, x, n, some v, .kid k⟩
    let t := busOp (setKid s k { kidOf s k with wait := some (.store v n a) }) q
    if t.reply = .waits then t else finishKid t k t.reply

/-- ST, STW. -/
def kidSt (k : KidId) (i : Instr) (v : Regs → Nat) (wa : Fin 8) (n : Nat) (s : State) : Out :=
  onKid k i s (fun s p =>
    let b := (kidOf s k).b
    let a := Regs.pair b wa
    match accessTrap s k a.toNat n with
    | some code => trapAt s k code (kidOf s k).pc.toNat p
    | none => match kidPlace s k a.toNat with
      | .buf g => storeBuf s k (v b) g n
      | .dev x => (match emptied s k with
        | (true, s) => storeDev s k (v b) a x n
        | (false, s) => waitDrain s k)
      | .none => s)

/-! ### Flow of control (R103 to R106, R130 to R132) -/

/-- A conditional branch: `back` says that its offset is negative, which predicts it taken. -/
def kidBranch (k : KidId) (i : Instr) (cond : Regs → Bool) (back : Bool) (dest : Word16 → Word16) (s : State) : Out :=
  onKid k i s (fun s p =>
    let c := kidOf s k
    let taken := cond c.b
    let told := !rdb s kd_KMODE_DET k && back
    let wrong := taken != told
    retire s k p (if taken then dest c.pc else c.pc + 1) (taken || wrong) (if wrong && told then some (dest c.pc) else none)
      (if wrong then 3 else if taken then 2 else 1) 0)

/-- An unconditional transfer, with the return address where it links; fetch has gone on there already where `hit` says so. -/
def goTo (s : State) (k : Nat) (p : Bool) (link : Option Word16) (dest : Word16) (hit : Bool) (cost : Nat) : State :=
  let c := kidOf s k
  let s := setKid s k (match link with
    | some r => { c with b := Regs.setPair c.b 7 r }
    | none => c)
  retire s k p dest (!hit) none cost 0

/-- JAL in either form. -/
def kidJal (k : KidId) (i : Instr) (link : Word16 → Option Word16) (dest : Word16 → Word16) (s : State) : Out :=
  onKid k i s (fun s p =>
    let pc := (kidOf s k).pc
    let det := rdb s kd_KMODE_DET k
    goTo s k p (link pc) (dest pc) false (if det then 3 else 2))

/-- JR and JALR, with the target buffer (R131). -/
def kidJr (k : KidId) (i : Instr) (r : Fin 8) (link : Bool) (s : State) : Out :=
  onKid k i s (fun s p =>
    let c := kidOf s k
    let pc := c.pc
    let dest := Regs.pair c.b r
    let det := rdb s kd_KMODE_DET k
    let hit := !det && (c.pq.head?.bind (fun q => q.hit)) == some dest
    let s := if det then s else setKid s k { c with tbuf := (pc, dest) :: (c.tbuf.filter (fun e => decide (e.1 ≠ pc))).take 3 }
    goTo s k p (if link then some (pc + 1) else none) dest hit (if hit then 1 else 3))

/-- An instruction without operands or effects on registers that completes in `cost` steps. -/
def kidStep (k : KidId) (i : Instr) (cost : Nat) (f : State → State) (s : State) : Out :=
  onKid k i s (fun s p => retire (f s) k p ((kidOf s k).pc + 1) false none cost 0)

/-! ### Special registers (R71, R75, R107) -/

/-- What an MTS writes to a field of the kid's own registers. -/
def mtsField (s : State) (k : Nat) (f : Fld × Nat) (sr v : Nat) : State :=
  let c := carried f.1 f.2 sr 1 v
  match f.1.acc with
  | .rw =>
    let x := mergeBits (rd s f.1 k) c
    wr s f.1 k (capRpt f.1 x)
  | .w1c => wr s f.1 k (rd s f.1 k - (rd s f.1 k &&& onesOf c))
  | _ => s

/-- A write of a special-register byte by its kid; one to KMODE takes effect at the fourth instruction after it (R72), but a 1 for its
reserved bit sets RSVW at once, and in KFAULT RSVW is set before the byte's W1C bits act (assumption 73). -/
def mtsOp (s : State) (k sr : Nat) (v : Byte) : State :=
  let s := reservedWrite s .kidSr k sr 1 v.toNat
  if sr = 0 then
    let c := kidOf s k
    setKid s k { c with kpend := c.kpend ++ [(v, 4)] }
  else (fieldsInWrite .kidSr sr 1).foldl (fun s f => mtsField s k f sr v.toNat) s

/-! ### Program memory (R67, R70, R102, R135, R139) -/

/-- Where a program word is stored. -/
def wordAddr (k w : Nat) : Nat := if w < 0x1000 then 0x11_0000_2000 + k * 0x1_0000 + w * 2 else storeAddr (herdOfKid k) w

/-- PML: the word as stored, zero-extended from 14 bits. -/
def pmlOp (s : State) (k : KidId) (d : Fin 8) (w : Nat) (p : Bool) : State :=
  let pc := (kidOf s k).pc
  if 0x8000 ≤ w then trapAt s k 3 pc.toNat p
  else match memRead s (wordAddr k w) 2 (agentRq (.kid k) false) with
    | (none, s) => trapAt s k 2 pc.toNat p
    | (some bs, s) =>
      let c := kidOf s k
      retire (setKid s k { c with b := Regs.setPair c.b d (BitVec.ofNat 16 (ofBytesLE bs % 2 ^ 14)) }) k p (pc + 1) false none 2 0

/-- A program word is written by its kid; one in the herd program store whose commit is rejected is reported at once (R165). -/
def writeProg (s : State) (k : KidId) (w : Nat) (v : Word16) : State :=
  let s := snoopWrite (memWrite s (wordAddr k w) (bytesLE 2 v.toNat) (agentRq (.kid k) true)) (wordAddr k w) 2
  if w < 0x1000 then s else commitBad s (agentRq (.kid k) true)

/-- PMW: with the store buffer empty and the three words that follow in the queue, where they stay as they are (R139), the word is
written. -/
def pmwOp (s : State) (k : KidId) (v : Word16) (w : Nat) (p : Bool) : State :=
  let pc := (kidOf s k).pc
  if 0x8000 ≤ w then trapAt s k 3 pc.toNat p
  else match emptied s k with
    | (false, s) => waitDrain s k
    | (true, s) => match needWords s k 4 with
      | (.wait, s) => s
      | (_, s) => retire (writeProg s k w v) k p (pc + 1) false none 4 0

/-! ### System instructions (R84, R85, R108 to R110) -/

/-- REP: the word that follows is checked, and COUNT set. -/
def repOp (s : State) (k : KidId) (n : Nat) (p : Bool) : State :=
  let pc := (kidOf s k).pc
  match needWords s k 2 with
  | (.fault, s) => trapAt s k 5 (pc + 1).toNat p
  | (.wait, s) => s
  | (.ready, s) => match queued s k 1 with
    | none => trapAt (chargeWord s k 1) k 2 pc.toNat p
    | some w =>
      if repForbidden (decodeInstr (.kid k) w 0) then trapAt s k 1 pc.toNat p
      else
        let s := wr s kd_KRPT_COUNT k n
        if n = 0 then
          let s := chargeWord s k 1
          retire (setKid s k { kidOf s k with pq := (kidOf s k).pq.eraseIdx 1 }) k p (pc + 2) false none 2 0
        else
          let s := retire s k p (pc + 1) false none 1 0
          setKid s k { kidOf s k with rep := true }

/-- RETI from the trap or the doorbell handler: to `to`, with COUNT as saved. -/
def retiTo (s : State) (k : Nat) (dest : Fld) (count : Nat) : State :=
  let s := wr s kd_KRPT_COUNT k count
  let s := retire s k false (BitVec.ofNat 16 (rd s dest k)) true none 3 0
  setKid s k { kidOf s k with rep := decide (count ≠ 0) }

/-- RETI. -/
def retiOp (s : State) (k : Nat) (p : Bool) : State :=
  if rdb s kd_KMODE_INTR k then retiTo (wr s kd_KMODE_INTR k 0) k kd_KEPC_ADDR (rd s kd_KRPT_ECOUNT k)
  else if rdb s kd_KMODE_INDB k then
    let t := kidComplete s k (rd s kd_KSRC_SRC k)
    retiTo (wr t kd_KMODE_INDB k 0) k kd_KIPC_ADDR (rd s kd_KRPT_ICOUNT k)
  else trapAt s k 1 (kidOf s k).pc.toNat p

/-- WAIT: a kid that is eligible waits for its next delivery. -/
def waitOp (s : State) (k : Nat) : State :=
  if rdb s kd_KMODE_DBE k && !rdb s kd_KMODE_INDB k && !rdb s kd_KMODE_INTR k then wr s kc_KSTAT_STATE k 1
  else wr s kd_KFAULT_WAITNE k 1

/-- FENCE; an earlier store that gathers in a merge buffer and whose commit would be rejected is reported with it (R81). -/
def fenceInstr (s : State) (k : KidId) (p : Bool) : State := match emptied s k with
  | (true, s) => retire (commitBad s (agentRq (.kid k) true)) k p ((kidOf s k).pc + 1) false none 1 0
  | (false, s) => waitDrain s k

/-- SYNCI. -/
def synciOp (s : State) (k : Nat) (p : Bool) : State :=
  let s := setKid s k { kidOf s k with tbuf := [] }
  retire s k p ((kidOf s k).pc + 1) true none 3 0

/-- DIV. -/
def divOp (s : State) (k : Nat) (d : Fin 8) (r : Fin 16) (p : Bool) : State :=
  let c := kidOf s k
  if Regs.byte c.b r = 0 then trapAt s k 9 c.pc.toNat p
  else retire (setKid s k { c with b := opDiv d r c.b }) k p (c.pc + 1) false none 12 0

end Sys2Proof.Machine
end

