-- ==== Sys2Proof/Machine/KidExec.lean ====
section
/-!
DEFINITION. The meanings of the kid and fawn instructions, and of what comes about in a kid between instructions (R72 to R77, R81,
R86, R100 to R110, R113).
-/

namespace Sys2Proof.Machine

/-- An instruction that computes registers from registers, on a kid or a fawn. -/
def regInstr (c : Who) (i : Instr) (f : Regs → Regs) (s : State) : Out := match c with
  | .kid k => kidRegs k i 1 f s
  | .fawn n => fawnRegs n i f s

/-- A load, on a kid or a fawn. -/
def loadInstr (c : Who) (i : Instr) (d : Dst) (wa : Fin 8) (n : Nat) (s : State) : Out := match c with
  | .kid k => kidLd k i d wa n s
  | .fawn f => fawnLd f i d wa n s

/-- A store, on a kid or a fawn. -/
def storeInstr (c : Who) (i : Instr) (v : Regs → Nat) (wa : Fin 8) (n : Nat) (s : State) : Out := match c with
  | .kid k => kidSt k i v wa n s
  | .fawn f => fawnSt f i v wa n s

/-- A branch on one register, on a kid or a fawn. -/
def branchInstr (c : Who) (i : Instr) (cond : Regs → Bool) (off : BitVec 5) (s : State) : Out := match c with
  | .kid k => kidBranch k i cond off.msb (fun pc => target pc off) s
  | .fawn f => onFawn f i s (fun s =>
      let w := fawnOf s f
      gotoFawn s f (if cond w.b then fawnTarget w.pc off else w.pc + 1))

/-- A branch on two registers. -/
def branch2 (k : KidId) (i : Instr) (cond : Regs → Bool) (off : BitVec 4) (s : State) : Out :=
  kidBranch k i cond off.msb (fun pc => target pc off) s

/-! ### Synchronisation -/

/-- NOP. -/
def execNop (c : Who) (s : State) : Out := match c with
  | .kid k => kidRegs k (.nop c) 1 (fun b => b) s
  | .fawn f => fawnRegs f (.nop c) (fun b => b) s
/-- WAIT. -/
def execWait (c : Who) (s : State) : Out := match c with
  | .kid k => kidStep k (.wait c) 1 (fun s => waitOp s k) s
  | .fawn f => onFawn f (.wait c) s (fun s => setFawn s f { fawnOf s f with wait := some .event })
/-- FENCE; a fawn's stores have completed before its next instruction (R113). -/
def execFence (c : Who) (s : State) : Out := match c with
  | .kid k => onKid k (.fence c) s (fun s p => fenceInstr s k p)
  | .fawn f => fawnRegs f (.fence c) (fun b => b) s

/-! ### Byte arithmetic (R100) -/

/-- NOT. -/
def execNot (c : Who) (fm : Form) (d : Fin 16) (s : State) : Out := regInstr c (.not c fm d) (opNot d) s
/-- ADDI on a byte. -/
def execAddiB (c : Who) (fm : Form) (d : Fin 16) (imm : BitVec 4) (s : State) : Out :=
  regInstr c (.addiB c fm d imm) (opAddiB d imm) s
/-- MOV. -/
def execMov (c : Who) (fm : Form) (d r : Fin 16) (s : State) : Out := regInstr c (.mov c fm d r) (opMov d r) s
/-- MOVI. -/
def execMovi (c : Who) (d : Fin 8) (imm : Byte) (s : State) : Out := regInstr c (.movi c d imm) (opMovi d imm) s
/-- ADD. -/
def execAdd (c : Who) (fm : Form) (d r : Fin 16) (s : State) : Out := regInstr c (.add c fm d r) (opAdd d r) s
/-- SUB. -/
def execSub (c : Who) (fm : Form) (d r : Fin 16) (s : State) : Out := regInstr c (.sub c fm d r) (opSub d r) s
/-- AND. -/
def execAnd (c : Who) (fm : Form) (d r : Fin 16) (s : State) : Out := regInstr c (.and c fm d r) (opAnd d r) s
/-- OR. -/
def execOr (c : Who) (fm : Form) (d r : Fin 16) (s : State) : Out := regInstr c (.or c fm d r) (opOr d r) s
/-- XOR. -/
def execXor (c : Who) (fm : Form) (d r : Fin 16) (s : State) : Out := regInstr c (.xor c fm d r) (opXor d r) s
/-- CRY. -/
def execCry (c : Who) (fm : Form) (d r : Fin 16) (s : State) : Out := regInstr c (.cry c fm d r) (opCry d r) s
/-- BRW. -/
def execBrw (c : Who) (fm : Form) (d r : Fin 16) (s : State) : Out := regInstr c (.brw c fm d r) (opBrw d r) s
/-- SHL. -/
def execShl (c : Who) (fm : Form) (d : Fin 16) (n : Fin 8) (s : State) : Out := regInstr c (.shl c fm d n) (opShl d n) s
/-- SHR. -/
def execShr (c : Who) (fm : Form) (d : Fin 16) (n : Fin 8) (s : State) : Out := regInstr c (.shr c fm d n) (opShr d n) s
/-- SAR. -/
def execSar (c : Who) (fm : Form) (d : Fin 16) (n : Fin 8) (s : State) : Out := regInstr c (.sar c fm d n) (opSar d n) s
/-- ROL. -/
def execRol (c : Who) (fm : Form) (d : Fin 16) (n : Fin 8) (s : State) : Out := regInstr c (.rol c fm d n) (opRol d n) s

/-! ### Pair arithmetic, MUL and DIV (R101) -/

/-- ADDW. -/
def execAddw (c : Who) (fm : Form) (d r : Fin 8) (s : State) : Out := regInstr c (.addw c fm d r) (opAddw d r) s
/-- SUBW. -/
def execSubw (c : Who) (fm : Form) (d r : Fin 8) (s : State) : Out := regInstr c (.subw c fm d r) (opSubw d r) s
/-- MOVW. -/
def execMovw (c : Who) (fm : Form) (d r : Fin 8) (s : State) : Out := regInstr c (.movw c fm d r) (opMovw d r) s
/-- ADDI on a pair. -/
def execAddiW (c : Who) (fm : Form) (d : Fin 8) (imm : BitVec 4) (s : State) : Out :=
  regInstr c (.addiW c fm d imm) (opAddiW fm d imm) s
/-- MUL. -/
def execMul (k : KidId) (d : Fin 8) (r : Fin 16) (s : State) : Out := kidRegs k (.mul k d r) 4 (opMul d r) s
/-- DIV. -/
def execDiv (k : KidId) (d : Fin 8) (r : Fin 16) (s : State) : Out :=
  onKid k (.div k d r) s (fun s p => divOp s k d r p)

/-! ### Memory access (R102) -/

/-- LD. -/
def execLd (c : Who) (fm : Form) (d : Fin 16) (wa : Fin 8) (s : State) : Out := loadInstr c (.ld c fm d wa) (.byte d) wa 1 s
/-- LDW. -/
def execLdw (c : Who) (d wa : Fin 8) (s : State) : Out := loadInstr c (.ldw c d wa) (.pair d) wa 2 s
/-- ST. -/
def execSt (c : Who) (fm : Form) (r : Fin 16) (wa : Fin 8) (s : State) : Out :=
  storeInstr c (.st c fm r wa) (fun b => (Regs.byte b r).toNat) wa 1 s
/-- STW. -/
def execStw (c : Who) (r wa : Fin 8) (s : State) : Out :=
  storeInstr c (.stw c r wa) (fun b => (Regs.pair b r).toNat) wa 2 s
/-- PML. -/
def execPml (k : KidId) (d wa : Fin 8) (s : State) : Out :=
  onKid k (.pml k d wa) s (fun s p => pmlOp s k d (Regs.pair (kidOf s k).b wa).toNat p)
/-- PMW. -/
def execPmw (k : KidId) (r wa : Fin 8) (s : State) : Out :=
  onKid k (.pmw k r wa) s (fun s p =>
    let b := (kidOf s k).b
    pmwOp s k (Regs.pair b r) (Regs.pair b wa).toNat p)

/-! ### Branches and jumps (R103 to R106) -/

/-- BEQZ. -/
def execBeqz (c : Who) (fm : Form) (a : Fin 16) (off : BitVec 5) (s : State) : Out := branchInstr c (.beqz c fm a off) (condZ a) off s
/-- BNEZ. -/
def execBnez (c : Who) (fm : Form) (a : Fin 16) (off : BitVec 5) (s : State) : Out := branchInstr c (.bnez c fm a off) (condNz a) off s
/-- BEQ. -/
def execBeq (k : KidId) (a b : Fin 8) (off : BitVec 4) (s : State) : Out := branch2 k (.beq k a b off) (condEq a b) off s
/-- BNE. -/
def execBne (k : KidId) (a b : Fin 8) (off : BitVec 4) (s : State) : Out := branch2 k (.bne k a b off) (condNe a b) off s
/-- BLT. -/
def execBlt (k : KidId) (a b : Fin 8) (off : BitVec 4) (s : State) : Out := branch2 k (.blt k a b off) (condLt a b) off s
/-- BGE. -/
def execBge (k : KidId) (a b : Fin 8) (off : BitVec 4) (s : State) : Out := branch2 k (.bge k a b off) (condGe a b) off s
/-- BLTU. -/
def execBltu (k : KidId) (a b : Fin 8) (off : BitVec 4) (s : State) : Out := branch2 k (.bltu k a b off) (condLtu a b) off s
/-- BGEU. -/
def execBgeu (k : KidId) (a b : Fin 8) (off : BitVec 4) (s : State) : Out := branch2 k (.bgeu k a b off) (condGeu a b) off s
/-- JAL off. -/
def execJal (c : Who) (off : BitVec 8) (s : State) : Out := match c with
  | .kid k => kidJal k (.jal c off) (fun pc => some (pc + 1)) (fun pc => target pc off) s
  | .fawn f => onFawn f (.jal c off) s (fun s =>
      let w := fawnOf s f
      setFawn s f { w with b := Regs.setPair w.b 7 ((w.pc + 1).zeroExtend 16), pc := fawnTarget w.pc off })
/-- JAL t. -/
def execJalTwoWord (k : KidId) (link : Bool) (t : BitVec 15) (s : State) : Out :=
  kidJal k (.jalTwoWord k link t) (fun pc => if link then some (pc + 2) else none) (fun _ => t.zeroExtend 16) s
/-- JR. -/
def execJr (c : Who) (r : Fin 8) (s : State) : Out := match c with
  | .kid k => kidJr k (.jr c r) r false s
  | .fawn f => onFawn f (.jr c r) s (fun s => gotoFawn s f ((Regs.pair (fawnOf s f).b r).truncate 10))
/-- JALR. -/
def execJalr (c : Who) (r : Fin 8) (s : State) : Out := match c with
  | .kid k => kidJr k (.jalr c r) r true s
  | .fawn f => onFawn f (.jalr c r) s (fun s =>
      let w := fawnOf s f
      setFawn s f { w with b := Regs.setPair w.b 7 ((w.pc + 1).zeroExtend 16), pc := (Regs.pair w.b r).truncate 10 })

/-! ### Special registers, REP, system instructions (R107 to R110) -/

/-- MFS. -/
def execMfs (k : KidId) (d : Fin 8) (sr : BitVec 6) (s : State) : Out :=
  kidStep k (.mfs k d sr) 1 (fun s =>
    let c := kidOf s k
    setKid s k { c with b := Regs.setByte c.b (low d) (BitVec.ofNat 8 (regByte s .kidSr k sr.toNat)) }) s
/-- MTS. -/
def execMts (k : KidId) (sr : BitVec 6) (r : Fin 8) (s : State) : Out :=
  kidStep k (.mts k sr r) 1 (fun s => mtsOp s k sr.toNat (Regs.byte (kidOf s k).b (low r))) s
/-- REP. -/
def execRep (k : KidId) (arg : RepArg) (s : State) : Out :=
  onKid k (.rep k arg) s (fun s p => repOp s k (match arg with
    | .imm c8 => c8.toNat + 1
    | .reg r => (Regs.byte (kidOf s k).b r).toNat) p)
/-- SYNCI. -/
def execSynci (k : KidId) (s : State) : Out := onKid k (.synci k) s (fun s p => synciOp s k p)
/-- RETI. -/
def execReti (k : KidId) (s : State) : Out := onKid k (.reti k) s (fun s p => retiOp s k p)
/-- TRAP. -/
def execTrap (k : KidId) (s : State) : Out :=
  onKid k (.trap k) s (fun s p => trapAt s k 8 ((kidOf s k).pc + 1).toNat p)
/-- A reserved encoding (R97, R114). -/
def execReservedEncoding (c : Who) (s : State) : Out := match c with
  | .kid k => onKid k (.reservedEncoding c) s (fun s p => trapAt s k 1 (kidOf s k).pc.toNat p)
  | .fawn f => onFawn f (.reservedEncoding c) s (fun s => stopFawn s f 1)

/-! ### Between instructions -/

/-- A boundary between instructions of a kid that runs (R144): no instruction is under way, and no pair has issued in part. -/
def atBoundary (s : State) (k : Nat) : Bool := kidLive s k && kstate s k == 0 && (kidOf s k).between

/-- DEFERRED_TRAP. -/
def execDeferredTrap (k : KidId) (s : State) : Out :=
  let c := kidOf s k
  match c.deferred with
  | code :: t => due s (atBoundary s k && deferredDue s k) (takeTrap (setKid s k { c with deferred := t }) k code true c.pc.toNat)
  | [] => .next s

/-- DOORBELL_ENTRY: at a boundary; from WAIT, whether or not a deferred trap is queued (R86 case 7); or in place of an access that
waits at a queue port, which is withdrawn: a deferred trap that is due at that boundary goes first, and the delivery is held
(R145 cases 5 and 9, R86 case 1). -/
def execDoorbellEntry (k : KidId) (s : State) : Out :=
  let c := kidOf s k
  match c.deliv with
  | some (src, _) =>
    let inPort := kstate s k == 0 && queueWait c
    let t := if inPort then withdraw s k else s
    .next (if !(kidLive s k && entryOk s k) then s
      else if kstate s k == 1 || ((atBoundary s k || inPort) && !deferredDue s k) then takeDoorbell t k src
      else if inPort then setKid t k { kidOf t k with deliv := some (src, true) }
      else s)
  | none => .next s

/-- KMODE_WRITE: the three instructions after the MTS have run (R72); a delivery that came meanwhile is held until now (R86 case 2). -/
def execKmodeWrite (k : KidId) (s : State) : Out :=
  let c := kidOf s k
  match c.kpend with
  | (v, 0) :: t =>
    due s (kidLive s k && decide (kstate s k < 2) && c.between)
      (kmodeApply (setKid s k { c with kpend := t, deliv := c.deliv.map (fun d => (d.1, true)) }) k v)
  | _ => .next s

/-- A 1 that another agent writes to KMODE.TCAP or KMODE.SCLR (R88). -/
def pulseOp (s : State) (F : Fld) (k : Nat) : State := pulse s F k 0 1 .host

/-- TCAP. -/
def execTcap (k : KidId) (s : State) : Out :=
  atKid s k (regReq kd_KMODE_SUP k 0 (0x20 + 2 * rd s kd_KMODE_DET k + 4 * rd s kd_KMODE_DBE k) 1) (fun s => pulseOp s kd_KMODE_TCAP k)
/-- SCLR. -/
def execSclr (k : KidId) (s : State) : Out :=
  atKid s k (regReq kd_KMODE_SUP k 0 (0x40 + 2 * rd s kd_KMODE_DET k + 4 * rd s kd_KMODE_DBE k) 1) (fun s => pulseOp s kd_KMODE_SCLR k)

/-- STORE_BUFFER_DRAIN. -/
def execStoreBufferDrain (k : KidId) (s : State) : Out := match (kidOf s k).sbuf with
  | e :: _ => due s (kidLive s k && e.tag.isNone && (e.ga.here || ((freeTag s).isSome && !shutIn s k))) (drainHead s k e)
  | [] => .next s

/-- The device-local address of this node that a kid's data address reaches. -/
def kidLocal (s : State) (k a : Nat) : Option Nat := match kidPlace s k a with
  | .buf g => if g.here then some g.a else none
  | .dev x => some x
  | .none => none

/-- An access of kid k waits at a boundary. -/
def kidHeld (s : State) (k : KidId) : Bool := s.held.any (fun q => decide (q.ag = .kid k))

end Sys2Proof.Machine
end

