-- ==== Sys2Proof/Machine/QueueRows.lean ====
section
/-!
DEFINITION. What comes about at queues and mailboxes by themselves: waiting stores and reads complete, bytes, demands and returns
travel (R191, R195, R202 to R207, R233, R348).
-/

namespace Sys2Proof.Machine

/-- A waiting PUSH store as an access. -/
def pushReq (e : Nat) (r : PushReq) : BusReq := ⟨r.ag, blkBase .prodPort e, r.n, some r.v, r.ret⟩

/-- RESERVATION: the oldest store that can complete completes. -/
def execReservation (e : EpId) (s : State) : Out := match reservationOp s e with
  | some (t, r) => due s (role s e == 1 && epOpen s e) (answer t (pushReq e r) .done)
  | none => .next s

/-- A CLAUSE message with the next bytes of the queue of producer e. A message carries bytes only (R348): those of a lost payload
word go as 0x00, those of a lost header as 0xFF, whose LEN is reserved, so that it breaks the queue (R210, assumption 72). -/
def clauseMsg (s : State) (e : Nat) (bs : List RByte) : Msg :=
  ⟨header 5 bs.length false 63 0 (rd s rt_NODEID) (rd s qx_PEERNODE e) (peerEp s e) 0 0,
    bs.map (fun x => x.b.getD (if x.hd then 0xFF else 0))⟩

/-- The next n bytes of the queue leave for another node. -/
def sendOp (s : State) (e n : Nat) : State :=
  let (bs, t) := sendBytes s e n
  routePosted t (clauseMsg s e bs)

/-- ROUTE_BYTES: to the consumer on this node, or as a CLAUSE message to another. -/
def execRouteBytes (e : EpId) (n : Nat) (s : State) : Out :=
  due s (role s e == 1 && !herdHeld s (e / 64) && decide (0 < n ∧ n ≤ (prodOf s e).count) &&
      (if peerHere s e then epOpen s (peerEp s e) else rd s hf_HSTAT_FENCE (e / 64) == 0))
    (if peerHere s e then routeOp s e n else sendOp s e n)

/-- A QRET message about the queue of endpoint e: returned bytes, or a demand. -/
def qretMsg (s : State) (e prod n : Nat) (demand : Bool) : Msg :=
  ⟨header 6 4 false 63 0 (rd s rt_NODEID) (rd s qx_PEERNODE e) prod 0 0, bytesLE 4 (n % 2 ^ 27 + b2n demand * 2 ^ 31)⟩

/-- The payload bytes of the clause that an oryx or a sighting engine waits to push at producer p (R244, R322). -/
def enginePayload (s : State) (p : Nat) : Option Nat :=
  if (List.range 8).any (fun c => camUp s c && (camOf s c).fit.isSome && rd s cm_POSEEP c == p && poseEpOk s c)
  then some 28
  else match (oryxOf s (p / 64)).fifo with
  | d :: _ =>
    if oryxUp s (p / 64) && !d.ueD && d.dest == 2 && oryxEp s (p / 64) d && d.ep (p / 64) == p then
      some (8 + clauseLen s (p / 64) d)
    else none
  | [] => none

/-- The header of that clause finds PFREE too small. -/
def engineShort (s : State) (p : Nat) : Bool := match enginePayload s p with
  | some n => decide ((prodOf s p).pfree < sizeOfLen n)
  | none => false

/-- DEMAND: the demand of a producer on this node reaches consumer e, or leaves producer e for another node (R202). An
engine that is short of storage asks while no demand is outstanding. -/
def execDemand (e : EpId) (s : State) : Out :=
  if role s e = 2 then
    let p := peerEp s e
    let t := findShort s p false
    due s (peerHere s e && epOpen s e && ((prodOf t p).asked || (engineShort s p && (consOf s e).demand.isNone)))
      (demandOp (setProd t p { prodOf t p with asked := false }) e)
  else
    let t := findShort s e false
    due s (role s e == 1 && !peerHere s e && epOpen s e && ((prodOf t e).asked || engineShort s e))
      (routePosted (setProd t e { prodOf t e with asked := false }) (qretMsg s e e 0 true))

/-- STORAGE_RETURN: the oldest return on its way reaches producer e, or leaves consumer e for another node (R204). -/
def execStorageReturn (e : EpId) (s : State) : Out :=
  if role s e = 1 then
    let c := peerEp s e
    match (consOf s c).ret with
    | n :: rest => due s (peerHere s e && epOpen s e)
      (storageBack (setCons s c { consOf s c with ret := rest }) e n)
    | [] => .next s
  else match (consOf s e).ret with
    | n :: rest => due s (role s e == 2 && !peerHere s e && epOpen s e)
      (routePosted (setCons s e { consOf s e with ret := rest }) (qretMsg s e (peerEp s e) n false))
    | [] => .next s

/-- The queue port and offset of a read that a kid or a fawn waits on, and its length. -/
def waitingRead (s : State) : Who → Option (Nat × Nat × Nat)
  | .kid k => match (kidOf s k).wait with
    | some (.load d a) => (match (kidLocal s k a.toNat).map placeOf with
      | some (.port e o) => if kidHeld s k then none else some (e, o, d.bytes.length)
      | _ => none)
    | _ => none
  | .fawn f => match (fawnOf s f).wait with
    | some (.load d a) => (match fawnPlace s f a.toNat with
      | .port e o => if s.held.any (fun q => decide (q.ag = .fawn f)) then none else some (e, o, d.bytes.length)
      | _ => none)
    | _ => none

/-- The read that an agent waits on completes with a value. -/
def finishRead (s : State) (c : Who) (v : Nat) : State := match c with
  | .kid k => finishKid s k (.data v)
  | .fawn f => finishFawn s f (.data v)

/-- A read that waits at a port in a range of offsets completes once it has its value. -/
def readReady (c : Who) (inRange : Nat → Bool) (s : State) : Out := match waitingRead s c with
  | some (e, o, n) => (match portRead s e o n with
    | (.data v, t) => due s (role s e == 2 && inRange o && !herdHeld s (e / 64)) (finishRead t c v)
    | _ => .next s)
  | none => .next s

/-- HDR. -/
def execHdr (c : Who) (s : State) : Out := readReady c (fun o => decide (o < 4)) s
/-- WIN. -/
def execWin (c : Who) (s : State) : Out := readReady c (fun o => decide (0x40 ≤ o)) s

/-- The read that agent c waits on is one of HDR or WIN at consumer e. -/
def waitsAt (s : State) (e : Nat) (c : Who) : Bool := match waitingRead s c with
  | some (j, o, _) => j == e && (decide (o < 4) || decide (0x40 ≤ o))
  | none => false

/-- A read of HDR or WIN has waited at consumer e for STALLTO µs on a clause whose header arrived at time t. -/
def readStalls (s : State) (e t : Nat) : Bool :=
  (s.kids.any (fun x => if h : x.1 < 32768 then
    waitsAt s e (.kid ⟨x.1, h⟩) && stallDue s e (max t x.2.since.toNat) else false)) ||
  (s.fawns.any (fun x => if h : x.1 < 168 then
    waitsAt s e (.fawn ⟨x.1, h⟩) && stallDue s e (max t x.2.since.toNat) else false))

/-- OPENSTALL (R207). -/
def execOpenstall (e : EpId) (s : State) : Out :=
  due s (role s e == 2 && (match (consOf s e).cls with
    | l :: _ => readStalls s e l.at_.toNat
    | [] => false)) (notice s qx_NOTE_OPENSTALL e)

/-- CAPTURE. -/
def execCapture (h : HerdId) (s : State) : Out := match captureNext s h with
  | some (t, r) => due s (oryxUp s h) (answer t ⟨r.ag, slotBase h r.slot + r.off, r.n, some r.v, r.ret⟩ .done)
  | none => .next s

end Sys2Proof.Machine
end

