-- ==== Sys2Proof/Machine/LinkMsg.lean ====
section
/-!
DEFINITION. Messages of the links: served here or forwarded, and completions brought to their requesters (R33, R347 to R352, R356).
-/

namespace Sys2Proof.Machine

/-! ### Taking a message -/

/-- The oldest message of a stream: of a link, or of the requests that this node's link fawns send to itself. -/
def headMsg (s : State) (l : Option LinkId) (req : Bool) : Option Msg := match l with
  | some l => if linkOn s l then (if req then (linkOf s l).reqMsgs else (linkOf s l).rspMsgs).head? else none
  | none => (if req then s.localMsgs else s.localRsp).head?

/-- The stream without it; its buffers are freed (R345). -/
def popMsg (s : State) (l : Option LinkId) (req : Bool) (m : Msg) : State := match l with
  | some l =>
    let x := linkOf s l
    setLink s l (if req then popReq x m (x.reqMsgs.drop 1) else popRsp x m (x.rspMsgs.drop 1))
  | none => if req then { s with localMsgs := s.localMsgs.drop 1 } else { s with localRsp := s.localRsp.drop 1 }

/-- The message of one type that is served next. -/
def nextMsg (s : State) (l : Option LinkId) (req : Bool) (tt : Nat) (act : State → Msg → State) : Out :=
  match headMsg s l req with
  | some m => due s (m.tt == tt) (act (popMsg s l req m) m)
  | none => .next s

/-! ### Forwarding (R351) -/

/-- A request that this node cannot pass on or serve is answered with a STATUS; other messages are not answered. -/
def answerStatus (s : State) (m : Msg) (st : Nat) : State :=
  if 1 ≤ m.tt ∧ m.tt ≤ 4 then
    let c : Msg := ⟨header (if m.tt = 1 ∨ m.tt = 3 then 7 else 8) 0 m.sup 63 m.tag (rd s rt_NODEID) m.src m.addr st 0, []⟩
    sendCompletion s c
  else s

/-- A message for another node goes on: with one hop less, over the link that the region table names. -/
def forward (s : State) (m : Msg) : State :=
  if m.hops = 0 then answerStatus (incr s rt_HOPDROP) m 6
  else match routeLink s m.dst with
    | (some l, s) => queueMsg s l { m with h := m.h - 2 ^ 14 }
    | (none, s) => answerStatus s m 1

/-! ### Serving (R348) -/

/-- The link whose boundary a request crosses: the one it came by, or that of the fawn which sent it here. -/
def msgLink (s : State) (l : Option LinkId) (m : Msg) : LinkId := match l with
  | some l => l
  | none => match ((alGet s.reqs m.tag).map Req.ag : Option Agent) with
    | some (.fawn f) => ⟨(f.val - 144) / 2, by omega⟩
    | _ => ⟨0, by decide⟩

/-- A message as an access: a READ, a WRITE, an ATOMIC, or the bytes for an endpoint. -/
def msgReq (s : State) (l : Option LinkId) (m : Msg) : BusReq :=
  ⟨.link (msgLink s l m) m.sup, m.addr, if m.tt = 5 ∨ m.tt = 6 then m.d.length else m.len,
    if m.tt = 1 then none else some (ofBytesLE m.d), .link l m.h⟩

/-- A message is served at this node or forwarded. -/
def serveMsg (l : Option LinkId) (here : State → Msg → State) (s : State) (m : Msg) : State :=
  if m.dst = rd s rt_NODEID ∨ l.isNone = true then here s m else forward s m

/-- A DOORBELL: a write to RING of the herd (R212, R213); it waits at the boundary of a held herd (R420). -/
def doorbellMsg (s : State) (l : Option LinkId) (m : Msg) : State :=
  let q : BusReq := ⟨.link (msgLink s l m) m.sup, blkBase .hdc m.addr + 0x80, 1, some (ofBytesLE m.d), .link l m.h⟩
  if 512 ≤ m.addr then answer s q .reserved else access s q

/-- READ. -/
def execRead (l : Option LinkId) (s : State) : Out :=
  nextMsg s l true 1 (serveMsg l (fun s m => access s (msgReq s l m)))
/-- WRITE. -/
def execWrite (l : Option LinkId) (s : State) : Out :=
  nextMsg s l true 2 (serveMsg l (fun s m => access s (msgReq s l m)))
/-- ATOMIC. -/
def execAtomic (l : Option LinkId) (s : State) : Out :=
  nextMsg s l true 3 (serveMsg l (fun s m => access s (msgReq s l m)))
/-- DOORBELL. -/
def execDoorbell (l : Option LinkId) (s : State) : Out :=
  nextMsg s l true 4 (serveMsg l (fun s m => doorbellMsg s l m))
/-- CLAUSE. -/
def execClause (l : Option LinkId) (s : State) : Out :=
  nextMsg s l true 5 (serveMsg l (fun s m => access s (msgReq s l m)))
/-- QRET. -/
def execQret (l : Option LinkId) (s : State) : Out :=
  nextMsg s l false 6 (serveMsg l (fun s m => access s (msgReq s l m)))

/-! ### Completions (R349, R350, R359) -/

/-- What a completion brings its requester; a BAR read ends in Completer Abort (R365). -/
def cmpReply (r : Req) (st : Nat) (d : List Byte) : Reply :=
  let m : Msg := ⟨r.h, []⟩
  let host := match r.ret with
    | .host _ _ _ _ => true
    | _ => false
  if st ≠ 0 then (if host then .ca else failReply st) else if m.tt = 1 ∨ m.tt = 3 then .data (ofBytesLE d) else .done

/-- A request ends: its completion is logged where it failed, and reaches the requester. -/
def finishRequest (s : State) (tag : Nat) (r : Req) (cmp : Msg) : State :=
  let m : Msg := ⟨r.h, []⟩
  let st := cmp.opx
  let s := if st = 0 then s else routeLog s r.ag r.h st (if r.left then r.link else 0xF)
  match r.ret with
  | .fawn f => if (fawnOf s f).req = some tag then areaDone s f cmp.h cmp.d else s
  | ret => answer s ⟨r.ag, m.addr, m.len, if m.tt = 1 ∨ m.tt = 3 then none else some 0, ret⟩ (cmpReply r st cmp.d)

/-- A completion comes to this node. One made here for LINKDOWN ends its request and leaves its tag in use; one that comes after the
end of its request counts in LATECMP and frees its tag, unless its TIMEOUT is still to pass. -/
def completion (s : State) (cmp : Msg) : State := match alGet s.reqs cmp.tag with
  | none => if cmp.opx = 8 then s else incr s rt_LATECMP
  | some r =>
    if cmp.opx = 8 then
      (if r.dead then s
       else finishRequest { s with reqs := alSet s.reqs cmp.tag { r with dead := true } } cmp.tag r cmp)
    else if r.dead then
      let s := incr s rt_LATECMP
      { s with reqs := if r.timed then alDel s.reqs cmp.tag else alSet s.reqs cmp.tag { r with came := true } }
    else finishRequest { s with reqs := alDel s.reqs cmp.tag } cmp.tag r cmp

/-- RDCMP. -/
def execRdcmp (l : Option LinkId) (s : State) : Out := nextMsg s l false 7 (serveMsg l completion)
/-- WRCMP. -/
def execWrcmp (l : Option LinkId) (s : State) : Out := nextMsg s l false 8 (serveMsg l completion)

/-- CMPTO passes for a request. -/
def timeoutOp (s : State) (tag : Nat) (r : Req) : State :=
  if r.dead then { s with reqs := if r.came then alDel s.reqs tag else alSet s.reqs tag { r with timed := true } }
  else
    let s := incr { s with reqs := alSet s.reqs tag { r with dead := true, timed := true } } rt_TIMEOUTS
    finishRequest s tag r (localCmp s tag 7 r)

/-- TIMEOUT: CMPTO µs have passed (R350). -/
def execTimeout (tag : BitVec 12) (s : State) : Out := match alGet s.reqs tag.toNat with
  | some r => due s (!r.timed && r.ttl == 0) (timeoutOp s tag.toNat r)
  | none => .next s

end Sys2Proof.Machine
end

