-- ==== Sys2Proof/Machine/HostBus.lean ====
section
/-!
DEFINITION. Accesses from outside: the host's through its BARs, and the TAP's (R362 to R366, R371, R387, R442, R444).
-/

namespace Sys2Proof.Machine

/-! ### BARs (R363 to R366) -/

/-- Where a BAR offset leads: an address of this node, an address of another, or an aperture that is not valid. -/
inductive BarTo where
  | here (a : Nat)
  | there (node a : Nat)
  | invalid
deriving DecidableEq, Repr

/-- The target of a BAR offset. -/
def barTo (s : State) (bar2 : Bool) (off : Nat) : BarTo :=
  if !bar2 then .here (blkBase .hostBoot 0 + off)
  else
    let i := off / 0x1000_0000
    let a := rd s hb_APBASE 0 i * 0x1000_0000 + off % 0x1000_0000
    if !rdb s hb_APVALID 0 i then .invalid
    else if rd s hb_APNODE 0 i = rd s rt_NODEID then .here a
    else .there (rd s hb_APNODE 0 i) a

/-- In BLANK and RETIRED the host reaches no other node (R387). -/
def remoteOk (s : State) : Bool := s.otp.lcstate != 0 && s.otp.lcstate != 4

/-- The accesses that a BAR request is made of, as place and length: itself where it has one of the sizes of R29, else aligned runs of
at most `w` bytes, in ascending order (assumption 77). -/
def cutRuns (w : Nat) : Nat → Nat → Nat → Nat → List (Nat × Nat)
  | 0, _, _, _ => []
  | fuel + 1, off, i, n =>
    let a := off + i
    let k := if a % w = 0 ∧ w ≤ n then w else if a % 8 = 0 ∧ 8 ≤ n then 8 else if a % 4 = 0 ∧ 4 ≤ n then 4
      else if a % 2 = 0 ∧ 2 ≤ n then 2 else 1
    if n = 0 then [] else (i, k) :: cutRuns w fuel off (i + k) (n - k)
def barRuns (s : State) (bar2 : Bool) (off n : Nat) : List (Nat × Nat) :=
  if n = 1 ∨ n = 2 ∨ n = 4 ∨ n = 8 then [(0, n)]
  else cutRuns (match barTo s bar2 off with
    | .there _ _ => 64
    | _ => 8) n off 0 n

/-- The host can make a BAR request now; one to another node needs a free tag for each access (R349). -/
def barDue (s : State) (bar2 : Bool) (off n : Nat) : Bool :=
  pcieUp s && !s.pow.deep && (match barTo s bar2 off with
    | .there _ _ => !remoteOk s || decide ((barRuns s bar2 off n).length + s.reqs.length ≤ 4096)
    | _ => true)

/-- One access of BAR request id, for its bytes i to i + n - 1; v is what a write carries. -/
def barAccess (s : State) (bar2 : Bool) (start id i n : Nat) (v : Option Nat) : State :=
  let off := start + i
  let q (a : Nat) : BusReq := ⟨.host, a, n, v, .host bar2 start id i⟩
  match barTo s bar2 off with
  | .here a => access s (q a)
  | .invalid => answer (hfault s hb_HFAULT_APINV) (q 0) .reserved
  | .there node a =>
    if !remoteOk s then answer s (q 0) .refused
    else
      let (tt, x) := if v.isSome then remoteStore a n else (1, a)
      let d := match v with
        | some v => bytesLE n v
        | none => []
      match sendRequest s .host (.host bar2 start id i) tt n true node x 0 d with
      | (.sent _, t) => { t with reply := .waits }
      | (.failed _, t) => answer t (q 0) .ca
      | (.noTag, t) => t

/-- How a read has ended, for the agent that made it; until then it waits. -/
def readReply (s : State) (id : Nat) : Reply := match s.host.ends.find? (fun e => e.1 == id) with
  | some (_, .data v) => .data v
  | some (_, .ur) => .ur
  | some (_, .ca) => .ca
  | none => .waits

/-- The number of a new BAR request: above every one in use. -/
def freshId (h : HostSt) : Nat :=
  (h.reads.map HostRead.id ++ h.ends.map Prod.fst ++ h.failed.toList).foldl (fun m i => max m (i + 1)) h.nextId

/-- A BAR read: it is noted until it is answered. -/
def barRead (s : State) (bar2 : Bool) (off n : Nat) : State :=
  let id := freshId s.host
  let t : State := { s with host := { s.host with reads := s.host.reads ++ [⟨id, bar2, off, n, [], 0⟩], nextId := id + 1 } }
  let t := (barRuns s bar2 off n).foldl (fun t r => barAccess t bar2 off id r.1 r.2 none) t
  { t with reply := readReply t id }

/-- A BAR write, which is posted: the host is not answered. -/
def barWrite (s : State) (bar2 : Bool) (off : Nat) (bs : List Byte) : State :=
  let id := freshId s.host
  let t : State := { s with host := { s.host with nextId := id + 1 } }
  let t := (barRuns s bar2 off bs.length).foldl (fun t r =>
    barAccess t bar2 off id r.1 r.2 (some (ofBytesLE ((bs.drop r.1).take r.2)))) t
  { t with reply := .done }

/-- BAR_READ. -/
def execBarRead (bar2 : Bool) (off : BitVec 32) (n : BitVec 13) (s : State) : Out :=
  due s (barDue s bar2 off.toNat n.toNat) (replay (barRead s bar2 off.toNat n.toNat))

/-- BAR_WRITE. -/
def execBarWrite (bar2 : Bool) (off : BitVec 32) (data : List Byte) (s : State) : Out :=
  due s (barDue s bar2 off.toNat data.length) (replay (barWrite s bar2 off.toNat data))

/-! ### TESTREG (R442, R444) -/

/-- A write that halts or steps a kid and does nothing else, which debug level 1 grants (R396): KCTL.HALT or KCTL.STEP, with
RSTHOLD as it is. -/
def haltOrStep (s : State) (a n v : Nat) : Bool := n == 1 && (match placeOf a with
  | .reg .kidCtl k o => o == 0 && (let x := v - 16 * rd s kc_KCTL_RSTHOLD k; x == 2 || x == 8)
  | _ => false)

/-- Update-DR makes the access that the shift-in holds: its bits are WRITE, the size, the address and the data. -/
def testregOp (s : State) (v : Nat) : State :=
  let write := bit v 0
  let size := bits v 3 1
  let s := tapLoad s 0x10 false s.tap.cells s.tap.cap
  let refuse (st : Nat) : State := { s with tap := { s.tap with cap := 1 + 2 * st } }
  let n := 2 ^ size
  if write ∧ s.lc.dbg < 2 ∧ haltOrStep s (bits v 43 4) n (bits v 107 44 % 256) = false then refuse 2
  else if 3 < size then refuse 1
  else
    access { s with tap := { s.tap with cap := 0 } }
      ⟨.tap, bits v 43 4, n, if write then some (bits v 107 44 % 256 ^ n) else none, .tap⟩

/-- TESTREG. -/
def execTestreg (v : BitVec 108) (s : State) : Out :=
  due s (!s.pow.deep) (if s.lc.dbg = 0 then tapRefuse s else replay (testregOp s v.toNat))

end Sys2Proof.Machine
end

