-- ==== Sys2Proof/Machine/OryxRows.lean ====
section
/-!
DEFINITION. The rows of the oryx engines: a descriptor completes, with the reads of WAIT that this answers (R231, R239, R243).
-/

namespace Sys2Proof.Machine

/-! ### Completion (R243 steps 4 and 5) -/

/-- The slot whose WAIT a waiting access reads. -/
def waitSlot (q : BusReq) : Option Nat := match q.wr, placeOf q.a with
  | none, .reg .oryxSlot n o => if o < 0x38 ∧ 0x34 < o + q.n then some n else none
  | _, _ => none

/-- The waiting reads of WAIT of a slot are answered, in the order of their arrival, once nothing is pending. -/
def answerWaits (s : State) (h j : Nat) : State :=
  if slotPending s h j = 0 then
    let s' := (s.held.filter (fun q => waitSlot q == some (h * 64 + j))).foldl access
      { s with held := s.held.filter (fun q => waitSlot q != some (h * 64 + j)) }
    { s' with reply := s.reply }
  else s

/-- The end of a completion: the waiting reads, then the doorbell. -/
def completeDesc (s : State) (h j : Nat) (db : Bool) : State := raiseDb (answerWaits s h j) h db

/-! ### Rows -/

/-- A command row: the head of the FIFO is a descriptor of that row, and its clause can be pushed now. -/
def oryxRow (p : Desc → Bool) (h : Nat) (s : State) : Out :=
  match (oryxOf s h).fifo with
  | [] => .next s
  | d :: _ => due s (oryxUp s h && !d.ueD && p d && pushReady s h d (clauseLen s h d))
      (completeDesc (runDesc s h d) h d.slot d.db)

/-- ORYX_NOP. -/
def execOryxNop (h : HerdId) (s : State) : Out := oryxRow (fun d => d.op == 1) h s
/-- SEG. -/
def execSeg (h : HerdId) (s : State) : Out := oryxRow (fun d => d.op == 2) h s
/-- XF2. -/
def execXf2 (h : HerdId) (s : State) : Out := oryxRow (fun d => d.op == 3) h s
/-- XF3. -/
def execXf3 (h : HerdId) (s : State) : Out := oryxRow (fun d => d.op == 4) h s
/-- SS. -/
def execSs (h : HerdId) (s : State) : Out := oryxRow (fun d => d.op == 5) h s
/-- PID. -/
def execPid (h : HerdId) (s : State) : Out := oryxRow (fun d => d.op == 6) h s
/-- CORDIC_COS_SIN; a function number out of range ends here with DIM. -/
def execCordicCosSin (h : HerdId) (s : State) : Out := oryxRow (fun d => d.op == 7 && d.n1 != 1) h s
/-- CORDIC_ATAN2. -/
def execCordicAtan2 (h : HerdId) (s : State) : Out := oryxRow (fun d => d.op == 7 && d.n1 == 1) h s
/-- MATMUL. -/
def execMatmul (h : HerdId) (s : State) : Out := oryxRow (fun d => d.op == 8) h s
/-- INTERP. -/
def execInterp (h : HerdId) (s : State) : Out := oryxRow (fun d => d.op == 9) h s
/-- VEC_ADD; a sub-operation out of range ends here with DIM. -/
def execVecAdd (h : HerdId) (s : State) : Out := oryxRow (fun d => d.op == 0x0A && (d.n2 == 0 || decide (4 < d.n2))) h s
/-- VEC_SUB. -/
def execVecSub (h : HerdId) (s : State) : Out := oryxRow (fun d => d.op == 0x0A && d.n2 == 1) h s
/-- VEC_MUL. -/
def execVecMul (h : HerdId) (s : State) : Out := oryxRow (fun d => d.op == 0x0A && d.n2 == 2) h s
/-- AXPY. -/
def execAxpy (h : HerdId) (s : State) : Out := oryxRow (fun d => d.op == 0x0A && d.n2 == 3) h s
/-- DOT. -/
def execDot (h : HerdId) (s : State) : Out := oryxRow (fun d => d.op == 0x0A && d.n2 == 4) h s
/-- PUT. -/
def execPut (h : HerdId) (s : State) : Out := oryxRow (fun d => d.op == 0x0B) h s
/-- GET. -/
def execGet (h : HerdId) (s : State) : Out := oryxRow (fun d => d.op == 0x0C) h s

/-- ERROR_COMPLETION: a reserved OP, or an uncorrectable word in the captured DESC, which pushes nothing, raises nothing and
leaves TAG 0 (R246). -/
def execErrorCompletion (h : HerdId) (s : State) : Out :=
  match (oryxOf s h).fifo with
  | [] => .next s
  | d :: _ =>
    if !oryxUp s h then .next s
    else if d.ueD then .next (completeDesc (finishDesc s h d 8 0 {}) h d.slot false)
    else due s ((d.op == 0 || decide (0x0D ≤ d.op)) && pushReady s h d 0) (completeDesc (failDesc s h d 1) h d.slot d.db)

/-- SLOT_WAIT: the oldest read of WAIT on which the agent waits, once nothing is pending in its slot. -/
def execSlotWait (c : Who) (s : State) : Out :=
  let ag : Agent := match c with
    | .kid k => .kid k
    | .fawn f => .fawn f
  match (s.held.filter (fun q => decide (q.ag = ag))).findSome? waitSlot with
  | some n => .next (answerWaits s (n / 64) (n % 64))
  | none => .next s

end Sys2Proof.Machine
end

