-- ==== Sys2Proof/Machine/Opening.lean ====
section
/-!
DEFINITION. The commands that open a boundary or end a boot phase; the accesses that waited there proceed (R371, R385, R401, R407,
R415, R420, R431, R439).
-/

namespace Sys2Proof.Machine

/-- VERIFY. -/
def execVerify (s : State) : Out := due s (rd s hb_BOOTSTAT_PHASE == 5 && !inHold s) (verifyOp s)
/-- APPLY. -/
def execApply (s : State) : Out := due s (rd s hb_BOOTSTAT_PHASE == 6 && !inHold s) (replay (applyOp s))
/-- WAKE_UP: the measurement is of the domain that wakes. -/
def execWakeUp (d : DomId) (bad : List BankId) (m : Meas) (s : State) : Out :=
  due s (pstate s d == 2 && !s.pow.deep && wakeBanksOk d bad && decide (m.dom = d) && decide (wakeDelay d ≤ since s (.wake d))) (replay (wakeOp s d bad m))
/-- RETRY. -/
def execRetry (d : DomId) (m : Meas) (s : State) : Out := served s (fun s => replay (retryOp s d m))
/-- HERD_RESET_ENDS. -/
def execHerdResetEnds (h : HerdId) (s : State) : Out := due s (herdEnds s h && !s.rst.inReset) (replay (endHerd s h))
/-- DOMAIN_RESET_ENDS. -/
def execDomainResetEnds (d : DomId) (s : State) : Out := due s (domEnds s d) (replay (endDomReset s d))
/-- HCTL_LIFT. -/
def execHctlLift (h : HerdId) (s : State) : Out :=
  atHerd s h (regReq hf_HCTL_FENCE h 0 2 1) (fun s => replay (liftOp s h))
/-- HBMFMASK. -/
def execHbmfmask (m : BitVec 32) (s : State) : Out :=
  atService s (regReq ts_HBMFMASK 0 0 m.toNat 4) (fun s => replay (hbmMaskOp s m.toNat))

/-! ### The idle step (assumption 3) -/

/-- With no command waiting, one period of the timebase passes, and accesses whose boundary has opened proceed. -/
def idle (s : State) : State := if s.pow.deep then s else replay (lcTick (powTick (hostTick (linksTick (linesUp (tick s))))))

end Sys2Proof.Machine
end

