-- ==== Sys2Proof/Machine/Dispatch.lean ====
section
/-!
DEFINITION. The meaning of every command: one arm for each row of the opcode table.
-/

namespace Sys2Proof.Machine

/-- The effect of a command on everything but the queue. -/
def exec (i : Instr) (s : State) : Host.Outcome State Fault Refusal :=
  match i with
  | .nop c => Sys2Proof.Machine.execNop c s
  | .wait c => Sys2Proof.Machine.execWait c s
  | .fence c => Sys2Proof.Machine.execFence c s
  | .not c fm d => Sys2Proof.Machine.execNot c fm d s
  | .jr c r => Sys2Proof.Machine.execJr c r s
  | .jalr c r => Sys2Proof.Machine.execJalr c r s
  | .addw c fm d r => Sys2Proof.Machine.execAddw c fm d r s
  | .subw c fm d r => Sys2Proof.Machine.execSubw c fm d r s
  | .movw c fm d r => Sys2Proof.Machine.execMovw c fm d r s
  | .addiB c fm d imm => Sys2Proof.Machine.execAddiB c fm d imm s
  | .addiW c fm d imm => Sys2Proof.Machine.execAddiW c fm d imm s
  | .jal c off => Sys2Proof.Machine.execJal c off s
  | .jalTwoWord k link t => Sys2Proof.Machine.execJalTwoWord k link t s
  | .beqz c fm a off => Sys2Proof.Machine.execBeqz c fm a off s
  | .bnez c fm a off => Sys2Proof.Machine.execBnez c fm a off s
  | .mov c fm d r => Sys2Proof.Machine.execMov c fm d r s
  | .movi c d imm => Sys2Proof.Machine.execMovi c d imm s
  | .add c fm d r => Sys2Proof.Machine.execAdd c fm d r s
  | .sub c fm d r => Sys2Proof.Machine.execSub c fm d r s
  | .and c fm d r => Sys2Proof.Machine.execAnd c fm d r s
  | .or c fm d r => Sys2Proof.Machine.execOr c fm d r s
  | .xor c fm d r => Sys2Proof.Machine.execXor c fm d r s
  | .cry c fm d r => Sys2Proof.Machine.execCry c fm d r s
  | .brw c fm d r => Sys2Proof.Machine.execBrw c fm d r s
  | .shl c fm d n => Sys2Proof.Machine.execShl c fm d n s
  | .shr c fm d n => Sys2Proof.Machine.execShr c fm d n s
  | .sar c fm d n => Sys2Proof.Machine.execSar c fm d n s
  | .rol c fm d n => Sys2Proof.Machine.execRol c fm d n s
  | .ld c fm d wa => Sys2Proof.Machine.execLd c fm d wa s
  | .st c fm r wa => Sys2Proof.Machine.execSt c fm r wa s
  | .ldw c d wa => Sys2Proof.Machine.execLdw c d wa s
  | .stw c r wa => Sys2Proof.Machine.execStw c r wa s
  | .beq k a b off => Sys2Proof.Machine.execBeq k a b off s
  | .bne k a b off => Sys2Proof.Machine.execBne k a b off s
  | .blt k a b off => Sys2Proof.Machine.execBlt k a b off s
  | .bge k a b off => Sys2Proof.Machine.execBge k a b off s
  | .bltu k a b off => Sys2Proof.Machine.execBltu k a b off s
  | .bgeu k a b off => Sys2Proof.Machine.execBgeu k a b off s
  | .mfs k d sr => Sys2Proof.Machine.execMfs k d sr s
  | .mts k sr r => Sys2Proof.Machine.execMts k sr r s
  | .mul k d r => Sys2Proof.Machine.execMul k d r s
  | .div k d r => Sys2Proof.Machine.execDiv k d r s
  | .rep k arg => Sys2Proof.Machine.execRep k arg s
  | .pml k d wa => Sys2Proof.Machine.execPml k d wa s
  | .pmw k r wa => Sys2Proof.Machine.execPmw k r wa s
  | .synci k => Sys2Proof.Machine.execSynci k s
  | .reti k => Sys2Proof.Machine.execReti k s
  | .trap k => Sys2Proof.Machine.execTrap k s
  | .reservedEncoding c => Sys2Proof.Machine.execReservedEncoding c s
  | .deferredTrap k => Sys2Proof.Machine.execDeferredTrap k s
  | .doorbellEntry k => Sys2Proof.Machine.execDoorbellEntry k s
  | .kmodeWrite k => Sys2Proof.Machine.execKmodeWrite k s
  | .tcap k => Sys2Proof.Machine.execTcap k s
  | .sclr k => Sys2Proof.Machine.execSclr k s
  | .storeBufferDrain k => Sys2Proof.Machine.execStoreBufferDrain k s
  | .lineFill h line => Sys2Proof.Machine.execLineFill h line s
  | .iccInvall h => Sys2Proof.Machine.execIccInvall h s
  | .iccClrcnt h => Sys2Proof.Machine.execIccClrcnt h s
  | .icinv h w => Sys2Proof.Machine.execIcinv h w s
  | .registerWrite ag a sz v => Sys2Proof.Machine.execRegisterWrite ag a sz v s
  | .mergeCommit w => Sys2Proof.Machine.execMergeCommit w s
  | .cipgo => Sys2Proof.Machine.execCipgo s
  | .correctInPlace => Sys2Proof.Machine.execCorrectInPlace s
  | .fliparm => Sys2Proof.Machine.execFliparm s
  | .flipcan => Sys2Proof.Machine.execFlipcan s
  | .logpop => Sys2Proof.Machine.execLogpop s
  | .cntclr => Sys2Proof.Machine.execCntclr s
  | .rprgo => Sys2Proof.Machine.execRprgo s
  | .hppr => Sys2Proof.Machine.execHppr s
  | .push ag e off sz v => Sys2Proof.Machine.execPush ag e off sz v s
  | .reservation e => Sys2Proof.Machine.execReservation e s
  | .routeBytes e n => Sys2Proof.Machine.execRouteBytes e n s
  | .refill e => Sys2Proof.Machine.execRefill e s
  | .hdr c => Sys2Proof.Machine.execHdr c s
  | .win c => Sys2Proof.Machine.execWin c s
  | .skip e v => Sys2Proof.Machine.execSkip e v s
  | .done e => Sys2Proof.Machine.execDone e s
  | .mark e => Sys2Proof.Machine.execMark e s
  | .markclr e => Sys2Proof.Machine.execMarkclr e s
  | .rewind e => Sys2Proof.Machine.execRewind e s
  | .demand e => Sys2Proof.Machine.execDemand e s
  | .storageReturn e => Sys2Proof.Machine.execStorageReturn e s
  | .qreset e => Sys2Proof.Machine.execQreset e s
  | .resync e => Sys2Proof.Machine.execResync e s
  | .clrpeak e => Sys2Proof.Machine.execClrpeak e s
  | .stall e => Sys2Proof.Machine.execStall e s
  | .openstall e => Sys2Proof.Machine.execOpenstall e s
  | .ring h src => Sys2Proof.Machine.execRing h src s
  | .cmpl h src => Sys2Proof.Machine.execCmpl h src s
  | .pend h ix v => Sys2Proof.Machine.execPend h ix v s
  | .mask h ix v => Sys2Proof.Machine.execMask h ix v s
  | .claimPoint h => Sys2Proof.Machine.execClaimPoint h s
  | .hdcctlCntclr h => Sys2Proof.Machine.execHdcctlCntclr h s
  | .levelAssert ix => Sys2Proof.Machine.execLevelAssert ix s
  | .levelNegate ix => Sys2Proof.Machine.execLevelNegate ix s
  | .rearm ix => Sys2Proof.Machine.execRearm ix s
  | .post ag h j off sz v => Sys2Proof.Machine.execPost ag h j off sz v s
  | .capture h => Sys2Proof.Machine.execCapture h s
  | .slotWait c => Sys2Proof.Machine.execSlotWait c s
  | .oryxNop h => Sys2Proof.Machine.execOryxNop h s
  | .seg h => Sys2Proof.Machine.execSeg h s
  | .xf2 h => Sys2Proof.Machine.execXf2 h s
  | .xf3 h => Sys2Proof.Machine.execXf3 h s
  | .ss h => Sys2Proof.Machine.execSs h s
  | .pid h => Sys2Proof.Machine.execPid h s
  | .cordicCosSin h => Sys2Proof.Machine.execCordicCosSin h s
  | .cordicAtan2 h => Sys2Proof.Machine.execCordicAtan2 h s
  | .matmul h => Sys2Proof.Machine.execMatmul h s
  | .interp h => Sys2Proof.Machine.execInterp h s
  | .vecAdd h => Sys2Proof.Machine.execVecAdd h s
  | .vecSub h => Sys2Proof.Machine.execVecSub h s
  | .vecMul h => Sys2Proof.Machine.execVecMul h s
  | .axpy h => Sys2Proof.Machine.execAxpy h s
  | .dot h => Sys2Proof.Machine.execDot h s
  | .put h => Sys2Proof.Machine.execPut h s
  | .get h => Sys2Proof.Machine.execGet h s
  | .pctlStart p => Sys2Proof.Machine.execPctlStart p s
  | .pctlStop p => Sys2Proof.Machine.execPctlStop p s
  | .pctlRun p => Sys2Proof.Machine.execPctlRun p s
  | .pctlFawnrun p => Sys2Proof.Machine.execPctlFawnrun p s
  | .align p line => Sys2Proof.Machine.execAlign p line s
  | .alignTimeout p => Sys2Proof.Machine.execAlignTimeout p s
  | .enumr p line rtt => Sys2Proof.Machine.execEnumr p line rtt s
  | .enumrTimeout p => Sys2Proof.Machine.execEnumrTimeout p s
  | .configSequence p ans => Sys2Proof.Machine.execConfigSequence p ans s
  | .sync p => Sys2Proof.Machine.execSync p s
  | .cmd p => Sys2Proof.Machine.execCmd p s
  | .fetchPoint p ix => Sys2Proof.Machine.execFetchPoint p ix s
  | .fb p line => Sys2Proof.Machine.execFb p line s
  | .triggerEdge p t => Sys2Proof.Machine.execTriggerEdge p t s
  | .tarm p t => Sys2Proof.Machine.execTarm p t s
  | .svcgo p => Sys2Proof.Machine.execSvcgo p s
  | .alignloss p line => Sys2Proof.Machine.execAlignloss p line s
  | .commandClause e => Sys2Proof.Machine.execCommandClause e s
  | .check a => Sys2Proof.Machine.execCheck a s
  | .groupStop tile => Sys2Proof.Machine.execGroupStop tile s
  | .enadly p => Sys2Proof.Machine.execEnadly p s
  | .enarel m => Sys2Proof.Machine.execEnarel m s
  | .enadrop m => Sys2Proof.Machine.execEnadrop m s
  | .stopr a => Sys2Proof.Machine.execStopr a s
  | .stopd a => Sys2Proof.Machine.execStopd a s
  | .release a => Sys2Proof.Machine.execRelease a s
  | .nrwWrite ag a sz v => Sys2Proof.Machine.execNrwWrite ag a sz v s
  | .gctlLogpop => Sys2Proof.Machine.execGctlLogpop s
  | .gctlCntclr => Sys2Proof.Machine.execGctlCntclr s
  | .cctlStart c => Sys2Proof.Machine.execCctlStart c s
  | .cctlStop c => Sys2Proof.Machine.execCctlStop c s
  | .cctlFawnrun c => Sys2Proof.Machine.execCctlFawnrun c s
  | .cctlCntclr c => Sys2Proof.Machine.execCctlCntclr c s
  | .frameStart c pkt => Sys2Proof.Machine.execFrameStart c pkt s
  | .longPacket c pkt => Sys2Proof.Machine.execLongPacket c pkt s
  | .frameEnd c pkt => Sys2Proof.Machine.execFrameEnd c pkt s
  | .fit c => Sys2Proof.Machine.execFit c s
  | .noclk c => Sys2Proof.Machine.execNoclk c s
  | .deskew c => Sys2Proof.Machine.execDeskew c s
  | .tbctlCap => Sys2Proof.Machine.execTbctlCap s
  | .tbctlSet => Sys2Proof.Machine.execTbctlSet s
  | .exchange => Sys2Proof.Machine.execExchange s
  | .noresp => Sys2Proof.Machine.execNoresp s
  | .slew up => Sys2Proof.Machine.execSlew up s
  | .unlock => Sys2Proof.Machine.execUnlock s
  | .alarm ix => Sys2Proof.Machine.execAlarm ix s
  | .almt ix v => Sys2Proof.Machine.execAlmt ix v s
  | .almEn ix => Sys2Proof.Machine.execAlmEn ix s
  | .lctlStart l => Sys2Proof.Machine.execLctlStart l s
  | .lctlStop l => Sys2Proof.Machine.execLctlStop l s
  | .lctlReset l => Sys2Proof.Machine.execLctlReset l s
  | .lctlFawnrun l => Sys2Proof.Machine.execLctlFawnrun l s
  | .lctlCntclr l => Sys2Proof.Machine.execLctlCntclr l s
  | .trainingFrame l lane frame => Sys2Proof.Machine.execTrainingFrame l lane frame s
  | .trainto l => Sys2Proof.Machine.execTrainto l s
  | .auto l => Sys2Proof.Machine.execAuto l s
  | .codeword l lanes => Sys2Proof.Machine.execCodeword l lanes s
  | .read l => Sys2Proof.Machine.execRead l s
  | .write l => Sys2Proof.Machine.execWrite l s
  | .atomic l => Sys2Proof.Machine.execAtomic l s
  | .doorbell l => Sys2Proof.Machine.execDoorbell l s
  | .clause l => Sys2Proof.Machine.execClause l s
  | .qret l => Sys2Proof.Machine.execQret l s
  | .rdcmp l => Sys2Proof.Machine.execRdcmp l s
  | .wrcmp l => Sys2Proof.Machine.execWrcmp l s
  | .timereq l => Sys2Proof.Machine.execTimereq l s
  | .timersp l => Sys2Proof.Machine.execTimersp l s
  | .timeout tag => Sys2Proof.Machine.execTimeout tag s
  | .linkStall l => Sys2Proof.Machine.execLinkStall l s
  | .rctlLogpop => Sys2Proof.Machine.execRctlLogpop s
  | .rctlCntclr => Sys2Proof.Machine.execRctlCntclr s
  | .barRead bar2 off n => Sys2Proof.Machine.execBarRead bar2 off n s
  | .barWrite bar2 off data => Sys2Proof.Machine.execBarWrite bar2 off data s
  | .hrdto => Sys2Proof.Machine.execHrdto s
  | .hostring v => Sys2Proof.Machine.execHostring v s
  | .perstN high => Sys2Proof.Machine.execPerstN high s
  | .powerOnReset => Sys2Proof.Machine.execPowerOnReset s
  | .resetN high => Sys2Proof.Machine.execResetN high s
  | .powerGood ix up => Sys2Proof.Machine.execPowerGood ix up s
  | .pllLock => Sys2Proof.Machine.execPllLock s
  | .pllLockFail => Sys2Proof.Machine.execPllLockFail s
  | .wipe => Sys2Proof.Machine.execWipe s
  | .fetch slotB locator img => Sys2Proof.Machine.execFetch slotB locator img s
  | .dataStrobeTimeout => Sys2Proof.Machine.execDataStrobeTimeout s
  | .bootctlGo => Sys2Proof.Machine.execBootctlGo s
  | .verify => Sys2Proof.Machine.execVerify s
  | .apply => Sys2Proof.Machine.execApply s
  | .claim => Sys2Proof.Machine.execClaim s
  | .advance => Sys2Proof.Machine.execAdvance s
  | .revoke => Sys2Proof.Machine.execRevoke s
  | .debug => Sys2Proof.Machine.execDebug s
  | .attest => Sys2Proof.Machine.execAttest s
  | .provgo => Sys2Proof.Machine.execProvgo s
  | .reqRun => Sys2Proof.Machine.execReqRun s
  | .reqDoze => Sys2Proof.Machine.execReqDoze s
  | .reqWatch => Sys2Proof.Machine.execReqWatch s
  | .reqDeep => Sys2Proof.Machine.execReqDeep s
  | .gate d => Sys2Proof.Machine.execGate d s
  | .wakeUp d bad m => Sys2Proof.Machine.execWakeUp d bad m s
  | .samplePass temps pins ports => Sys2Proof.Machine.execSamplePass temps pins ports s
  | .deepwake src => Sys2Proof.Machine.execDeepwake src s
  | .waketo ix => Sys2Proof.Machine.execWaketo ix s
  | .supplyWarning m => Sys2Proof.Machine.execSupplyWarning m s
  | .warningEnds m low dur => Sys2Proof.Machine.execWarningEnds m low dur s
  | .tapsReturn m ms => Sys2Proof.Machine.execTapsReturn m ms s
  | .brownStop m => Sys2Proof.Machine.execBrownStop m s
  | .vrst m => Sys2Proof.Machine.execVrst m s
  | .twarn t temp => Sys2Proof.Machine.execTwarn t temp s
  | .thermtripN => Sys2Proof.Machine.execThermtripN s
  | .marginLoop ms => Sys2Proof.Machine.execMarginLoop ms s
  | .avsRetry port ok => Sys2Proof.Machine.execAvsRetry port ok s
  | .retry d m => Sys2Proof.Machine.execRetry d m s
  | .warm byKid => Sys2Proof.Machine.execWarm byKid s
  | .herdgo => Sys2Proof.Machine.execHerdgo s
  | .herdResetEnds h => Sys2Proof.Machine.execHerdResetEnds h s
  | .domgo => Sys2Proof.Machine.execDomgo s
  | .domainResetEnds d => Sys2Proof.Machine.execDomainResetEnds d s
  | .kctlRun k => Sys2Proof.Machine.execKctlRun k s
  | .kctlHalt k => Sys2Proof.Machine.execKctlHalt k s
  | .kctlReset k => Sys2Proof.Machine.execKctlReset k s
  | .kctlStep k => Sys2Proof.Machine.execKctlStep k s
  | .kctlRsthold k v => Sys2Proof.Machine.execKctlRsthold k v s
  | .kidResetEnds k => Sys2Proof.Machine.execKidResetEnds k s
  | .hctlFence h => Sys2Proof.Machine.execHctlFence h s
  | .fenced h => Sys2Proof.Machine.execFenced h s
  | .hctlLift h => Sys2Proof.Machine.execHctlLift h s
  | .hctlBistgo h => Sys2Proof.Machine.execHctlBistgo h s
  | .selfTest h kidf memf row spareFail => Sys2Proof.Machine.execSelfTest h kidf memf row spareFail s
  | .subgo => Sys2Proof.Machine.execSubgo s
  | .substitution => Sys2Proof.Machine.execSubstitution s
  | .fencep m => Sys2Proof.Machine.execFencep m s
  | .fencec m => Sys2Proof.Machine.execFencec m s
  | .fencel m => Sys2Proof.Machine.execFencel m s
  | .fpgo => Sys2Proof.Machine.execFpgo s
  | .hbmfmask m => Sys2Proof.Machine.execHbmfmask m s
  | .hbmDrain stack pc => Sys2Proof.Machine.execHbmDrain stack pc s
  | .hbmxaddr a => Sys2Proof.Machine.execHbmxaddr a s
  | .extest cells => Sys2Proof.Machine.execExtest cells s
  | .idcode => Sys2Proof.Machine.execIdcode s
  | .samplePreload cells => Sys2Proof.Machine.execSamplePreload cells s
  | .extestPulse cells => Sys2Proof.Machine.execExtestPulse cells s
  | .extestTrain cells => Sys2Proof.Machine.execExtestTrain cells s
  | .testreg v => Sys2Proof.Machine.execTestreg v s
  | .hbm1500 => Sys2Proof.Machine.execHbm1500 s
  | .bypass opcode => Sys2Proof.Machine.execBypass opcode s
  | .init bootsel => Sys2Proof.Machine.execInit bootsel s
  | .errorCompletion h => Sys2Proof.Machine.execErrorCompletion h s
  | .thermalWarningEnd t temp => Sys2Proof.Machine.execThermalWarningEnd t temp s
  | .trstN => Sys2Proof.Machine.execTrstN s
  | .pcieConfigReady => Sys2Proof.Machine.execPcieConfigReady s

end Sys2Proof.Machine
end

