-- ==== Sys2Proof/WellFormed.lean ====
section
/-!
DEFINITION. Which commands are well formed: the operands that a row admits beyond what their types say.
-/

namespace Sys2Proof

/-- A long form is a kid's alone (R93). -/
def formOk (c : Who) (fm : Form) : Bool := match c, fm with
  | .fawn _, .long => false
  | _, _ => true

/-- A short form names b0 to b7 (R94). -/
def low8 (fm : Form) (r : Fin 16) : Bool := match fm with
  | .short => decide (r.val < 8)
  | .long => true

/-- A short pair form names w0 to w3 (R94). -/
def low4 (fm : Form) (w : Fin 8) : Bool := match fm with
  | .short => decide (w.val < 4)
  | .long => true

/-- Two byte registers of a form. -/
def bytesOk (c : Who) (fm : Form) (d s : Fin 16) : Bool := formOk c fm && low8 fm d && low8 fm s
/-- One byte register of a form. -/
def byteOk (c : Who) (fm : Form) (d : Fin 16) : Bool := formOk c fm && low8 fm d
/-- Two pairs of a form. -/
def pairsOk (c : Who) (fm : Form) (d s : Fin 8) : Bool := formOk c fm && low4 fm d && low4 fm s

/-- The short ADDI on a pair adds 1, 2, 4 or 8 (R101). -/
def incOk (fm : Form) (imm : BitVec 4) : Bool := match fm with
  | .short => imm == 1 || imm == 2 || imm == 4 || imm == 8
  | .long => true

/-- An agent that makes accesses of its own: engines act by their rows, the image by APPLY. -/
def agentOk : Agent → Bool
  | .engine | .image => false
  | _ => true

/-- An agent that writes registers anywhere in the map: a fawn reaches only what R34 lists. -/
def writerOk : Agent → Bool
  | .engine | .image | .fawn _ => false
  | _ => true

/-- The cells of the boundary register (R443). -/
def boundaryCells : Nat := 534

/-- Opcodes of the TAP that have a row of their own (R442). -/
def tapOpcodes : List Nat := [0x00, 0x01, 0x02, 0x03, 0x04, 0x10, 0x11]

/-- A BAR request lies in its BAR, has at most `most` bytes and crosses no 4 KiB boundary (R362, R363). -/
def barOk (bar2 : Bool) (off n most : Nat) : Bool :=
  decide (1 ≤ n ∧ n ≤ most ∧ off % 4096 + n ≤ 4096) && (bar2 || decide (off < 0x1_0000))

/-- The well-formed commands. -/
def Instr.wf : Instr → Bool
  | .not c fm d | .shl c fm d _ | .shr c fm d _ | .sar c fm d _ | .rol c fm d _ | .addiB c fm d _ | .beqz c fm d _ | .bnez c fm d _
  | .ld c fm d _ | .st c fm d _ => byteOk c fm d
  | .mov c fm d s | .add c fm d s | .sub c fm d s | .and c fm d s | .or c fm d s | .xor c fm d s | .cry c fm d s | .brw c fm d s =>
    bytesOk c fm d s
  | .addw c fm d s | .subw c fm d s | .movw c fm d s => pairsOk c fm d s
  | .addiW c fm d imm => formOk c fm && low4 fm d && incOk fm imm
  | .registerWrite ag _ _ _ | .nrwWrite ag _ _ _ => writerOk ag
  | .push ag _ off sz _ => agentOk ag && decide (off.val % sz.bytes = 0 ∧ off.val + sz.bytes ≤ 8)
  | .routeBytes _ n => decide (1 ≤ n ∧ n ≤ 256)
  | .post ag _ _ off sz _ => agentOk ag && decide (off.val + sz.bytes = 16)
  | .configSequence _ ans => decide (ans.length ≤ 16)
  | .fb _ line => decide (line.length ≤ 160)
  | .align _ line | .enumr _ line _ | .alignloss _ line => decide (line.length ≤ 512)
  | .longPacket _ pkt => decide (6 ≤ pkt.length ∧ pkt.length ≤ 0x1_0005)
  | .codeword _ lanes => decide (lanes.length = 4) && lanes.all (fun l => decide (l.length = 680))
  | .barRead bar2 off n => barOk bar2 off.toNat n.toNat 4096
  | .barWrite bar2 off data => barOk bar2 off.toNat data.length 512
  | .wakeUp d _ m | .retry d m => decide (m.dom = d)
  | .samplePass temps _ _ => decide (temps.length = 5)
  | .extest cells | .samplePreload cells | .extestPulse cells | .extestTrain cells => decide (cells.length = boundaryCells)
  | .bypass opcode => !tapOpcodes.contains opcode.toNat
  | _ => true

end Sys2Proof
end

