-- ==== Sys2Proof/Machine/Step.lean ====
section
/-!
DEFINITION. The step of the block: the command at the front of the queue, or the idle step.
-/

namespace Sys2Proof.Machine

/-- One step: the front command runs on the state with the queue's rest; a command that is not well formed is a fault; with no
command waiting the block idles (assumption 3). -/
def step (s : State) : Host.Outcome State Fault Refusal :=
  match s.pending with
  | [] => .next (idle s)
  | i :: rest => if i.wf then exec i { s with pending := rest } else .fault .illFormed

/-- The command that a table word spells goes to the front of the queue; the table spells none. -/
def State.withFetchWord (s : State) (nbits w : Nat) : State :=
  match decodeTableWord nbits w with
  | some i => { s with pending := i :: s.pending }
  | none => s

end Sys2Proof.Machine
end

