-- ==== Sys2Proof/Safety.lean ====
section
/-!
DEFINITION. What a safe state and a safe run are, and the terms that claims use: when a kid issues an instruction, when a boundary
is open, and what a command leaves unchanged.
-/

namespace Sys2Proof.Machine

/-- Memory has its canonical form: addresses strictly rising, no byte listed that an unlisted address reads as. -/
def State.memOk (s : State) : Prop := Memory.wf s.mem = true

/-- A step goes on. -/
def steps (s : State) : Prop := ∃ t, step s = .next t

/-- The state after a number of steps that all go on. -/
def runsTo : Nat → State → State → Prop
  | 0, s, t => s = t
  | n + 1, s, t => ∃ u, step s = .next u ∧ runsTo n u t

/-! ### When a command runs -/

/-- The state in which the queue of kid k holds n words from its program counter on, the last of them readable. -/
def kidHas (s : State) (k : KidId) (n : Nat) (w : PWord) (t : State) : Prop :=
  needWords s k n = (.ready, t) ∧ queued t k (n - 1) = some w

/-- Kid k is ready, its fetch gives the words of instruction i, and REP does not refuse i (R110). -/
def kidIssues (s : State) (k : KidId) (i : Instr) : Prop :=
  kidReady s k = true ∧ ∃ w t, kidHas (setKid s k (kidOf s k).atPc) k 1 w t ∧
    (if twoWords w then ∃ w₂ u, kidHas (chargeWord t k 0) k 2 w₂ u ∧ decodeInstr (.kid k) w w₂ = i
      else decodeInstr (.kid k) w 0 = i) ∧
    ((kidOf s k).rep = true → repForbidden i = false)

/-- Fawn f is ready and its word is that of instruction i. -/
def fawnIssues (s : State) (f : FawnId) (i : Instr) : Prop :=
  fawnReady s f = true ∧ ∃ w s₁, fawnWord s f (fawnOf s f).pc.toNat = (some w, s₁) ∧ decodeInstr (.fawn f) w 0 = i

/-- The block of domain d answers at once: the device is not in DEEP, the domain is on, no TRIMFAIL holds it, and no reset keeps
the block shut. -/
def blockOpen (s : State) (d : Nat) (shut : Bool) : Prop :=
  s.pow.deep = false ∧ rdb s pd_DSTAT_TRIMFAIL d = false ∧ pstate s d = 0 ∧ shut = false

/-- A kid with nothing of its earlier instructions or of others on its way: no buffered store, no HALT, STEP or KMODE write that
waits, no repeat, nothing written to it during an instruction. -/
def kidQuiet (c : Kid) : Prop :=
  c.sbuf = [] ∧ c.haltReq = none ∧ c.stepping = false ∧ c.kpend = [] ∧ c.rep = false ∧ c.pulse = 0 ∧ c.prio = none

/-! ### What a command leaves unchanged -/

/-- Every byte of memory reads as before. -/
def sameMem (s t : State) : Prop := ∀ a, memGet t.mem a = memGet s.mem a

/-- From s to t kid k has gone on by one instruction that changes nothing outside it: beside its record, only what fetch ahead
changes (R119 to R125, R158, R168): counts and logs of memory integrity, the doorbells that report them, and the cache of its
herd with the check state of the cached copies. -/
def fetchFrame (s t : State) (k : KidId) : Prop :=
  t = { s with kids := t.kids, regs := t.regs, words := t.words, rpts := t.rpts, milog := t.milog, icaches := t.icaches,
               hdcs := t.hdcs, clk := t.clk, fresh := t.fresh } ∧
    (∀ j, j ≠ k.val → kidOf t j = kidOf s j) ∧ (∀ a, a < 2 ^ 40 → alGet t.words a = alGet s.words a) ∧
    (∀ h, h ≠ herdOfKid k → icacheOf t h = icacheOf s h) ∧
    ∀ (F : Fld) (n i : Nat), F.blk ≠ .integrity → F.blk ≠ .icache → F.blk ≠ .hdc → F.blk ≠ .domain → rd t F n i = rd s F n i

/-- Only register fields that `p` names have changed. -/
def onlyRegs (s t : State) (p : RegKey → Prop) : Prop :=
  t = { s with regs := t.regs, reply := t.reply } ∧ ∀ F n i, ¬ p (F.key n i) → rd t F n i = rd s F n i

end Sys2Proof.Machine
end

