-- ==== Sys2Proof/Certificates/Slice0/Obligations.lean ====
section
/-!
DEFINITION. The statements for the provers. The predicates in namespace Sys2Proof.Claims say once what a group of rows does.
-/

namespace Sys2Proof.Claims

open Sys2Proof.Machine

/-! ### Terms of the kid and fawn statements -/

/-- The general registers of kid k. -/
def kregs (s : State) (k : KidId) : Regs := (kidOf s k).b
/-- The general registers of fawn f. -/
def fregs (s : State) (f : FawnId) : Regs := (fawnOf s f).b
/-- The registers with byte d at a value mod 256. -/
def withByte (b : Regs) (d : Fin 16) (v : Nat) : Regs := b.set d (BitVec.ofNat 8 v)
/-- The registers with the pair d, b(2d+1):b(2d), at a value mod 65,536. -/
def withPair (b : Regs) (d : Fin 8) (v : Nat) : Regs :=
  (b.set (2 * d.val) (BitVec.ofNat 8 v)).set (2 * d.val + 1) (BitVec.ofNat 8 (v / 256))
/-- A byte register as a number. -/
def byteNat (b : Regs) (r : Fin 16) : Nat := b[r].toNat
/-- A pair as a number. -/
def pairNat (b : Regs) (w : Fin 8) : Nat := b[2 * w.val + 1].toNat * 256 + b[2 * w.val].toNat

/-- Kid k's queue starts at its program counter, and its word i is w. -/
def queueHolds (s : State) (k : KidId) (i : Nat) (w : PWord) : Prop := (kidOf s k).atPc = kidOf s k ∧ queued s k i = some w

/-- The time of an event (R328): the counter, with any of the eight phases where the counter runs. -/
def eventTime (s : State) (x : Nat) : Prop := ∃ r, r < 8 ∧ x = (now s + r) % 2 ^ 64 ∧ (s.tb.runs = false → r = 0)

/-- An instruction of kid k that computes registers: issued, it completes with the registers `f` of the old ones. Outside a repeat
the kid goes on at the next word; in a repeat COUNT falls by 1 and the kid stays until it is 0 (R109). A quiet kid changes nothing
beside its own record and what its fetch ahead changes. -/
def kidComputes (k : KidId) (i : Instr) (f : Regs → Regs) : Prop :=
  ∀ s : State, kidIssues s k i → ∃ t, exec i s = .next t ∧ kregs t k = f (kregs s k) ∧
    ((kidOf s k).rep = false → (kidOf t k).pc = (kidOf s k).pc + 1) ∧
    ((kidOf s k).rep = true → rd s kd_KRPT_COUNT k ≤ 256 →
      rd t kd_KRPT_COUNT k = rd s kd_KRPT_COUNT k - 1 ∧
      (kidOf t k).pc = if rd s kd_KRPT_COUNT k ≤ 1 then (kidOf s k).pc + 1 else (kidOf s k).pc) ∧
    (kidQuiet (kidOf s k) → fetchFrame s t k)

/-- The same for fawn n, which has no repeat: it changes nothing in memory, in kids or in other fawns. -/
def fawnComputes (n : FawnId) (i : Instr) (f : Regs → Regs) : Prop :=
  ∀ s : State, fawnIssues s n i → ∃ t, exec i s = .next t ∧ fregs t n = f (fregs s n) ∧
    (fawnOf t n).pc = (fawnOf s n).pc + 1 ∧ t.kids = s.kids ∧ sameMem s t ∧ ∀ j, j ≠ n.val → fawnOf t j = fawnOf s j

/-- A row of class 0b00, which kids and fawns have. -/
def computes (i : Who → Instr) (f : Regs → Regs) : Prop :=
  (∀ k, kidComputes k (i (.kid k)) f) ∧ ∀ n, fawnComputes n (i (.fawn n)) f

/-- A transfer of control of kid k: it completes at `dest` of the old registers and the old word address, mod 65,536, with the
registers `link` of the old ones; a quiet kid changes nothing beside its own record and what its fetch ahead changes. -/
def kidTransfers (k : KidId) (i : Instr) (dest : Regs → Nat → Int) (link : Regs → Nat → Regs) : Prop :=
  ∀ s : State, kidIssues s k i → ∃ t, exec i s = .next t ∧
    (kidOf t k).pc = BitVec.ofInt 16 (dest (kregs s k) (kidOf s k).pc.toNat) ∧
    kregs t k = link (kregs s k) (kidOf s k).pc.toNat ∧
    (kidQuiet (kidOf s k) → fetchFrame s t k)

/-- The same of fawn n, mod 1,024. -/
def fawnTransfers (n : FawnId) (i : Instr) (dest : Regs → Nat → Int) (link : Regs → Nat → Regs) : Prop :=
  ∀ s : State, fawnIssues s n i → ∃ t, exec i s = .next t ∧
    (fawnOf t n).pc = BitVec.ofInt 10 (dest (fregs s n) (fawnOf s n).pc.toNat) ∧
    fregs t n = link (fregs s n) (fawnOf s n).pc.toNat ∧ t.kids = s.kids ∧ sameMem s t

/-- A transfer that kids and fawns have. -/
def transfers (i : Who → Instr) (dest : Regs → Nat → Int) (link : Regs → Nat → Regs) : Prop :=
  (∀ k, kidTransfers k (i (.kid k)) dest link) ∧ ∀ n, fawnTransfers n (i (.fawn n)) dest link

/-- Where a conditional branch goes on. -/
def branchTo (taken : Bool) (pc : Nat) (off : Int) : Int := if taken then pc + 1 + off else pc + 1

/-- Kid k has entered its trap handler from s: what R78 saves and where it goes. -/
def trapEntered (s t : State) (k : KidId) (code epc : Nat) (dfr : Bool) : Prop :=
  rd t kd_KEPC_ADDR k = epc ∧ rd t kd_KRPT_ECOUNT k = rd s kd_KRPT_COUNT k ∧ rd t kd_KRPT_COUNT k = 0 ∧
    rd t kd_KCAUSE_CODE k = code ∧ rd t kd_KCAUSE_DEFER k = b2n dfr ∧ rd t kd_KCAUSE_DB k = 0 ∧
    rd t kd_KSRC_SRC k = rd s kd_KSRC_SRC k ∧ rd t kd_KMODE_INTR k = 1 ∧
    (kidOf t k).pc = 2 ∧ (kidOf t k).pq = [] ∧ kregs t k = kregs s k

/-- An issued instruction traps precisely with a code and KEPC (R78, R79) where KMODE.INTR is clear; where it is set KFAULT.DTRAP
is set, KCAUSE, KEPC and KRPT keep their values, and the kid halts with WHY 2, once its store buffer is empty (R83, R138). -/
def kidTraps (k : KidId) (i : Instr) (s : State) (code epc : Nat) : Prop :=
  (rdb s kd_KMODE_INTR k = false → rd s kd_KRPT_COUNT k ≤ 256 → ∃ t, exec i s = .next t ∧ trapEntered s t k code epc false) ∧
  (rdb s kd_KMODE_INTR k = true → ∃ t, exec i s = .next t ∧
    rd t kd_KFAULT_DTRAP k = 1 ∧ rd t kd_KCAUSE_CODE k = rd s kd_KCAUSE_CODE k ∧ rd t kd_KEPC_ADDR k = rd s kd_KEPC_ADDR k ∧
    rd t kd_KRPT_COUNT k = rd s kd_KRPT_COUNT k ∧ rd t kd_KRPT_ECOUNT k = rd s kd_KRPT_ECOUNT k ∧ kregs t k = kregs s k ∧
    ((kidOf t k).sbuf = [] → kstate t k = 2 ∧ rd t kc_KSTAT_WHY k = 2) ∧
    ((kidOf t k).sbuf ≠ [] → kstate t k = 0 ∧ (kidOf t k).haltReq = some 2) ∧ ((kidOf s k).sbuf = [] → (kidOf t k).sbuf = []))

end Sys2Proof.Claims

open Sys2Proof Sys2Proof.Machine Sys2Proof.Claims

/-! ### Kid and fawn instructions -/

/-- R100: the byte instructions, on kids and fawns, short and long forms. -/
def Claims.byteInstructionsCompute : Prop :=
  (∀ fm d s, computes (fun c => .mov c fm d s) (fun b => withByte b d (byteNat b s))) ∧
  (∀ (d : Fin 8) imm, computes (fun c => .movi c d imm) (fun b => withByte b ⟨d.val, by omega⟩ imm.toNat)) ∧
  (∀ fm d s, computes (fun c => .add c fm d s) (fun b => withByte b d (byteNat b d + byteNat b s))) ∧
  (∀ fm d (imm : BitVec 4), computes (fun c => .addiB c fm d imm) (fun b => b.set d (BitVec.ofInt 8 (byteNat b d + imm.toInt)))) ∧
  (∀ fm d s, computes (fun c => .sub c fm d s) (fun b => withByte b d (byteNat b d + 256 - byteNat b s))) ∧
  (∀ fm d s, computes (fun c => .and c fm d s) (fun b => withByte b d (byteNat b d &&& byteNat b s))) ∧
  (∀ fm d s, computes (fun c => .or c fm d s) (fun b => withByte b d (byteNat b d ||| byteNat b s))) ∧
  (∀ fm d s, computes (fun c => .xor c fm d s) (fun b => withByte b d (byteNat b d ^^^ byteNat b s))) ∧
  (∀ fm d, computes (fun c => .not c fm d) (fun b => withByte b d (255 - byteNat b d))) ∧
  (∀ fm d s, computes (fun c => .cry c fm d s) (fun b => withByte b d (if 255 < byteNat b d + byteNat b s then 1 else 0))) ∧
  (∀ fm d s, computes (fun c => .brw c fm d s) (fun b => withByte b d (if byteNat b d < byteNat b s then 1 else 0)))

/-- R100: the shifts; the operand n of a constructor stands for a shift by n + 1 (R94). -/
def Claims.shiftInstructionsCompute : Prop :=
  (∀ fm d (n : Fin 8), computes (fun c => .shl c fm d n) (fun b => withByte b d (byteNat b d * 2 ^ (n.val + 1)))) ∧
  (∀ fm d (n : Fin 8), computes (fun c => .shr c fm d n) (fun b => withByte b d (byteNat b d / 2 ^ (n.val + 1)))) ∧
  (∀ fm d (n : Fin 8), computes (fun c => .sar c fm d n)
    (fun b => b.set d (BitVec.ofInt 8 (Int.fdiv b[d].toInt (2 ^ (n.val + 1) : Nat))))) ∧
  (∀ fm d (n : Fin 8), computes (fun c => .rol c fm d n) (fun b =>
    withByte b d (byteNat b d * 2 ^ ((n.val + 1) % 8) + byteNat b d / 2 ^ (8 - (n.val + 1) % 8))))

/-- R101: the pair instructions, MUL, and DIV with a divisor that is not zero and with zero. -/
def Obligations.PairInstructionsCompute : Prop :=
  (∀ fm d s, computes (fun c => .movw c fm d s) (fun b => withPair b d (pairNat b s))) ∧
  (∀ fm d s, computes (fun c => .addw c fm d s) (fun b => withPair b d (pairNat b d + pairNat b s))) ∧
  (∀ fm d s, computes (fun c => .subw c fm d s) (fun b => withPair b d (pairNat b d + 65536 - pairNat b s))) ∧
  (∀ d (imm : BitVec 4), computes (fun c => .addiW c .short d imm) (fun b => withPair b d (pairNat b d + imm.toNat))) ∧
  (∀ d (imm : BitVec 4), computes (fun c => .addiW c .long d imm)
    (fun b => withPair b d ((((pairNat b d : Int) + imm.toInt) % 65536).toNat))) ∧
  (∀ k (d : Fin 8) s, kidComputes k (.mul k d s) (fun b => withPair b d (b[2 * d.val].toNat * byteNat b s))) ∧
  (∀ k d s (st : State), kidIssues st k (.div k d s) → byteNat (kregs st k) s ≠ 0 →
    ∃ t, exec (.div k d s) st = .next t ∧
      kregs t k = withPair (kregs st k) d (pairNat (kregs st k) d / byteNat (kregs st k) s) ∧
      ((kidOf st k).rep = false → (kidOf t k).pc = (kidOf st k).pc + 1) ∧
      (kidQuiet (kidOf st k) → fetchFrame st t k)) ∧
  (∀ k d s (st : State), kidIssues st k (.div k d s) → byteNat (kregs st k) s = 0 →
    kidTraps k (.div k d s) st 9 (kidOf st k).pc.toNat)

/-- R103, R104: the compare-and-branch instructions. -/
def Claims.branchesTransfer : Prop :=
  (∀ fm a (off : BitVec 5), transfers (fun c => .beqz c fm a off)
    (fun b pc => branchTo (decide (byteNat b a = 0)) pc off.toInt) (fun b _ => b)) ∧
  (∀ fm a (off : BitVec 5), transfers (fun c => .bnez c fm a off)
    (fun b pc => branchTo (decide (byteNat b a ≠ 0)) pc off.toInt) (fun b _ => b)) ∧
  ∀ k (x y : Fin 8) (off : BitVec 4),
    let u (b : Regs) (r : Fin 8) : Nat := b[r.val].toNat
    let i (b : Regs) (r : Fin 8) : Int := b[r.val].toInt
    kidTransfers k (.beq k x y off) (fun b pc => branchTo (decide (u b x = u b y)) pc off.toInt) (fun b _ => b) ∧
    kidTransfers k (.bne k x y off) (fun b pc => branchTo (decide (u b x ≠ u b y)) pc off.toInt) (fun b _ => b) ∧
    kidTransfers k (.blt k x y off) (fun b pc => branchTo (decide (i b x < i b y)) pc off.toInt) (fun b _ => b) ∧
    kidTransfers k (.bge k x y off) (fun b pc => branchTo (decide (i b y ≤ i b x)) pc off.toInt) (fun b _ => b) ∧
    kidTransfers k (.bltu k x y off) (fun b pc => branchTo (decide (u b x < u b y)) pc off.toInt) (fun b _ => b) ∧
    kidTransfers k (.bgeu k x y off) (fun b pc => branchTo (decide (u b y ≤ u b x)) pc off.toInt) (fun b _ => b)

/-- R104, R105, R99: the jumps, with their return addresses. -/
def Claims.jumpsTransfer : Prop :=
  (∀ off : BitVec 8, (∀ k, kidTransfers k (.jal (.kid k) off) (fun _ pc => pc + 1 + off.toInt) (fun b pc => withPair b 7 (pc + 1))) ∧
    ∀ n, fawnTransfers n (.jal (.fawn n) off) (fun _ pc => pc + 1 + off.toInt) (fun b pc => withPair b 7 ((pc + 1) % 1024))) ∧
  (∀ k link (a : BitVec 15), kidTransfers k (.jalTwoWord k link a) (fun _ _ => a.toNat)
    (fun b pc => if link then withPair b 7 (pc + 2) else b)) ∧
  (∀ r, transfers (fun c => .jr c r) (fun b _ => pairNat b r) (fun b _ => b)) ∧
  (∀ r, (∀ k, kidTransfers k (.jalr (.kid k) r) (fun b _ => pairNat b r) (fun b pc => withPair b 7 (pc + 1))) ∧
    ∀ n, fawnTransfers n (.jalr (.fawn n) r) (fun b _ => pairNat b r) (fun b pc => withPair b 7 ((pc + 1) % 1024)))

/-- R102, R138: a load whose youngest buffered store is to the same address with the same size takes its value from the store
buffer. -/
def Claims.loadForwardsFromStoreBuffer : Prop :=
  ∀ (k : KidId) (s : State) (wa : Fin 8) (e : StoreEnt) (es : List StoreEnt) (g : GAddr),
    let a := pairNat (kregs s k) wa
    kidPlace s k a = .buf g → (kidOf s k).sbuf = es ++ [e] → e.ga = g →
    (∀ fm d, kidIssues s k (.ld (.kid k) fm d wa) → accessTrap s k a 1 = none → e.n = 1 →
      ∃ t, exec (.ld (.kid k) fm d wa) s = .next t ∧ kregs t k = withByte (kregs s k) d e.v ∧
        ((kidOf s k).rep = false → (kidOf t k).pc = (kidOf s k).pc + 1)) ∧
    (∀ d, kidIssues s k (.ldw (.kid k) d wa) → accessTrap s k a 2 = none → e.n = 2 →
      ∃ t, exec (.ldw (.kid k) d wa) s = .next t ∧ kregs t k = withPair (kregs s k) d e.v ∧
        ((kidOf s k).rep = false → (kidOf t k).pc = (kidOf s k).pc + 1))

/-- R102: a load from the kid's own data memory with an empty store buffer gets the bytes that memory gives, and leaves every byte
of memory as it is. -/
def Claims.loadReadsOwnMemory : Prop :=
  ∀ (k : KidId) (s : State) (wa : Fin 8) (bs : List Byte),
    let a := pairNat (kregs s k) wa
    let x := 0x11_0000_0000 + k.val * 0x1_0000 + a
    a < 0x800 → (kidOf s k).sbuf = [] → rdb s pd_DSTAT_TRIMFAIL (herdDom (herdOfKid k)) = false →
    (∀ fm d, kidIssues s k (.ld (.kid k) fm d wa) → (memRead s x 1 (agentRq (.kid k) false)).1 = some bs →
      ∃ t, exec (.ld (.kid k) fm d wa) s = .next t ∧ kregs t k = withByte (kregs s k) d (ofBytesLE bs) ∧ sameMem s t) ∧
    (∀ d, kidIssues s k (.ldw (.kid k) d wa) → a % 2 = 0 → (memRead s x 2 (agentRq (.kid k) false)).1 = some bs →
      ∃ t, exec (.ldw (.kid k) d wa) s = .next t ∧ kregs t k = withPair (kregs s k) d (ofBytesLE bs) ∧ sameMem s t)

/-- R134: a store to a place that the store buffer serves enters the empty buffer, with its address, size and value and the SUP of
its kid; the registers and every byte of memory stay as they are. -/
def Claims.storeEntersBuffer : Prop :=
  ∀ (k : KidId) (s : State) (wa : Fin 8) (g : GAddr),
    let a := pairNat (kregs s k) wa
    kidPlace s k a = .buf g → kidQuiet (kidOf s k) →
    (∀ fm r, kidIssues s k (.st (.kid k) fm r wa) → accessTrap s k a 1 = none →
      ∃ t, exec (.st (.kid k) fm r wa) s = .next t ∧
        (kidOf t k).sbuf = [⟨g, 1, byteNat (kregs s k) r, rdb s kd_KMODE_SUP k, none⟩] ∧ kregs t k = kregs s k ∧
        (kidOf t k).pc = (kidOf s k).pc + 1 ∧ fetchFrame s t k) ∧
    (∀ r, kidIssues s k (.stw (.kid k) r wa) → accessTrap s k a 2 = none →
      ∃ t, exec (.stw (.kid k) r wa) s = .next t ∧
        (kidOf t k).sbuf = [⟨g, 2, pairNat (kregs s k) r, rdb s kd_KMODE_SUP k, none⟩] ∧ kregs t k = kregs s k ∧
        (kidOf t k).pc = (kidOf s k).pc + 1 ∧ fetchFrame s t k)

/-- R134, R138: a store to a place that the store buffer serves goes behind the entries that the buffer keeps. With both entries taken the
oldest goes first: to local data memory at once, else the store waits for it. -/
def Claims.storeFollowsBuffer (k : KidId) (s : State) (i : Instr) (e : StoreEnt) : Prop :=
  let went (t : State) (m : Nat) : Prop := (kidOf t k).sbuf = (kidOf s k).sbuf.drop m ++ [e] ∧ kregs t k = kregs s k ∧
    ((kidOf s k).rep = false → (kidOf t k).pc = (kidOf s k).pc + 1)
  ((kidOf s k).sbuf.length < 2 → ∃ t m, exec i s = .next t ∧ went t m) ∧
  ((kidOf s k).sbuf.length = 2 → ∃ t, exec i s = .next t ∧ ((∃ m, 0 < m ∧ went t m) ∨
    ((kidOf t k).wait = some .drain ∧ (kidOf t k).pc = (kidOf s k).pc ∧ kregs t k = kregs s k ∧ (kidOf t k).sbuf = (kidOf s k).sbuf)))

/-- R102, R135: an access to a device register or a queue port is made with the store buffer empty. The instruction completes where the
access does, waits while it does, and traps where it is refused. -/
def Claims.deviceAccess (k : KidId) (s : State) (i : Instr) (q : BusReq) (w : Wait) (done : State → Reply → State) : Prop :=
  ∃ u t, exec i s = .next t ∧ fetchFrame s u k ∧ kregs u k = kregs s k ∧ (kidOf u k).pc = (kidOf s k).pc ∧ (kidOf u k).wait = some w ∧
    let b := busOp u q
    t = match b.reply with
      | .waits => b
      | r => done b r

/-- R102, R134, R135: every store of a kid whose address passes its checks. -/
def Claims.storesComplete : Prop :=
  ∀ (k : KidId) (s : State) (wa : Fin 8),
    let a := pairNat (kregs s k) wa
    let sup := rdb s kd_KMODE_SUP k
    let stored (b : State) (r : Reply) : State := match r with
      | .done => endStore b k 0
      | r => endTrap b k (trapOfReply r)
    (∀ fm r, kidIssues s k (.st (.kid k) fm r wa) → accessTrap s k a 1 = none → let v := byteNat (kregs s k) r
      (∀ g, kidPlace s k a = .buf g → Claims.storeFollowsBuffer k s (.st (.kid k) fm r wa) ⟨g, 1, v, sup, none⟩) ∧
      ∀ x, kidPlace s k a = .dev x → a < 0xFF00 → (kidOf s k).sbuf = [] →
        Claims.deviceAccess k s (.st (.kid k) fm r wa) ⟨.kid k, x, 1, some v, .kid k⟩ (.store v 1 (BitVec.ofNat 16 a)) stored) ∧
    (∀ r, kidIssues s k (.stw (.kid k) r wa) → accessTrap s k a 2 = none → let v := pairNat (kregs s k) r
      (∀ g, kidPlace s k a = .buf g → Claims.storeFollowsBuffer k s (.stw (.kid k) r wa) ⟨g, 2, v, sup, none⟩) ∧
      ∀ x, kidPlace s k a = .dev x → a < 0xFF00 → (kidOf s k).sbuf = [] →
        Claims.deviceAccess k s (.stw (.kid k) r wa) ⟨.kid k, x, 2, some v, .kid k⟩ (.store v 2 (BitVec.ofNat 16 a)) stored)

/-- R102, R135: loads of a kid from device registers and queue ports. -/
def Claims.deviceLoads : Prop :=
  ∀ (k : KidId) (s : State) (wa : Fin 8) (x : Nat),
    let a := pairNat (kregs s k) wa
    let loaded (d : Dst) (b : State) (r : Reply) : State := match r with
      | .data v => endLoad b k d v
      | r => endTrap b k (trapOfReply r)
    kidPlace s k a = .dev x → (kidOf s k).sbuf = [] →
    (∀ fm d, kidIssues s k (.ld (.kid k) fm d wa) → Claims.deviceAccess k s (.ld (.kid k) fm d wa)
      ⟨.kid k, x, 1, none, .kid k⟩ (.load (.byte d) (BitVec.ofNat 16 a)) (loaded (.byte d))) ∧
    (∀ d, kidIssues s k (.ldw (.kid k) d wa) → a % 2 = 0 → Claims.deviceAccess k s (.ldw (.kid k) d wa)
      ⟨.kid k, x, 2, none, .kid k⟩ (.load (.pair d) (BitVec.ofNat 16 a)) (loaded (.pair d)))

/-- R112 to R114: the accesses of a fawn to its own data: loads get the bytes that memory gives, stores leave their bytes there; a pair
access at an odd address stops the fawn before it. -/
def Claims.fawnAccessesData : Prop :=
  ∀ (n : FawnId) (s : State) (wa : Fin 8),
    let a := pairNat (fregs s n) wa
    let x := fawnDataAddr n a
    let on (t : State) : Prop := (fawnOf t n).pc = (fawnOf s n).pc + 1 ∧ (fawnOf t n).st = .running ∧ t.kids = s.kids ∧
      ∀ j, j ≠ n.val → fawnOf t j = fawnOf s j
    let wrote (t : State) (bs : List Byte) : Prop := ∀ w rq, locOf x = some w → (decodeAt s w).bad = false → s.flip = none →
      s.merges = [] → (memRead t x bs.length rq).1 = some bs
    let stops (i : Instr) : Prop := ∃ t, exec i s = .next t ∧ (fawnOf t n).st = .stopped ∧ (fawnOf t n).pc = (fawnOf s n).pc ∧
      fregs t n = fregs s n ∧ sameMem s t
    (a < 0x100 →
      (∀ fm d bs rq, fawnIssues s n (.ld (.fawn n) fm d wa) → (memRead s x 1 rq).1 = some bs →
        ∃ t, exec (.ld (.fawn n) fm d wa) s = .next t ∧ fregs t n = withByte (fregs s n) d (ofBytesLE bs) ∧ on t ∧ sameMem s t) ∧
      (∀ d bs rq, fawnIssues s n (.ldw (.fawn n) d wa) → a % 2 = 0 → (memRead s x 2 rq).1 = some bs →
        ∃ t, exec (.ldw (.fawn n) d wa) s = .next t ∧ fregs t n = withPair (fregs s n) d (ofBytesLE bs) ∧ on t ∧ sameMem s t) ∧
      (∀ fm r, fawnIssues s n (.st (.fawn n) fm r wa) → ∃ t, exec (.st (.fawn n) fm r wa) s = .next t ∧ fregs t n = fregs s n ∧ on t ∧
        wrote t [(fregs s n)[r]]) ∧
      (∀ r, fawnIssues s n (.stw (.fawn n) r wa) → a % 2 = 0 → ∃ t, exec (.stw (.fawn n) r wa) s = .next t ∧ fregs t n = fregs s n ∧ on t ∧
        wrote t (bytesLE 2 (pairNat (fregs s n) r)))) ∧
    (a % 2 = 1 → (∀ d, fawnIssues s n (.ldw (.fawn n) d wa) → stops (.ldw (.fawn n) d wa)) ∧
      ∀ r, fawnIssues s n (.stw (.fawn n) r wa) → stops (.stw (.fawn n) r wa)) ∧
    (fawnPlace s n a = .none → (∀ fm d, fawnIssues s n (.ld (.fawn n) fm d wa) → stops (.ld (.fawn n) fm d wa)) ∧
      ∀ fm r, fawnIssues s n (.st (.fawn n) fm r wa) → stops (.st (.fawn n) fm r wa))

/-- R79, R102: a pair access at an odd address traps 0x04, and an access to a reserved range of the data map traps 0x03; KEPC holds
the instruction. -/
def Obligations.BadAccessTraps : Prop :=
  ∀ (k : KidId) (s : State) (wa : Fin 8),
    let a := pairNat (kregs s k) wa
    let pc := (kidOf s k).pc.toNat
    (∀ d, kidIssues s k (.ldw (.kid k) d wa) → a % 2 = 1 → kidTraps k (.ldw (.kid k) d wa) s 4 pc) ∧
    (∀ r, kidIssues s k (.stw (.kid k) r wa) → a % 2 = 1 → kidTraps k (.stw (.kid k) r wa) s 4 pc) ∧
    ((0x800 ≤ a ∧ a < 0x1000) ∨ (0x5000 ≤ a ∧ a < 0x8000) ∨ (0xF000 ≤ a ∧ a < 0xFE00) →
      (∀ fm d, kidIssues s k (.ld (.kid k) fm d wa) → kidTraps k (.ld (.kid k) fm d wa) s 3 pc) ∧
      (∀ fm r, kidIssues s k (.st (.kid k) fm r wa) → kidTraps k (.st (.kid k) fm r wa) s 3 pc) ∧
      (∀ d, kidIssues s k (.ldw (.kid k) d wa) → a % 2 = 0 → kidTraps k (.ldw (.kid k) d wa) s 3 pc) ∧
      (∀ r, kidIssues s k (.stw (.kid k) r wa) → a % 2 = 0 → kidTraps k (.stw (.kid k) r wa) s 3 pc))

/-- R107, R72, R75: MFS copies a byte of the special registers; MTS to KPRIO and to the bytes of KEPC writes them, to KMODE waits
for three more instructions, to KCAUSE does nothing, and to a reserved number sets KFAULT.RSVW where a bit is 1. -/
def Claims.SpecialRegisterMoves : Prop :=
  (∀ (k : KidId) (d : Fin 8) (sr : BitVec 6) (s : State), kidIssues s k (.mfs k d sr) →
    ∃ t, exec (.mfs k d sr) s = .next t ∧ kregs t k = withByte (kregs s k) ⟨d.val, by omega⟩ (regByte s .kidSr k sr.toNat) ∧
      ((kidOf s k).rep = false → (kidOf t k).pc = (kidOf s k).pc + 1)) ∧
  ∀ (k : KidId) (r : Fin 8) (sr : BitVec 6) (s : State), kidIssues s k (.mts k sr r) → kidQuiet (kidOf s k) →
    let v := (kregs s k)[r.val]
    ∃ t, exec (.mts k sr r) s = .next t ∧ kregs t k = kregs s k ∧ (kidOf t k).pc = (kidOf s k).pc + 1 ∧
      (sr = 0 → (kidOf t k).kpend = [(v, 3)] ∧ rd t kd_KMODE_DET k = rd s kd_KMODE_DET k ∧ rd t kd_KMODE_DBE k = rd s kd_KMODE_DBE k) ∧
      (sr = 1 → rd t kd_KPRIO_LEVEL k = v.toNat) ∧
      (sr = 2 → fetchFrame s t k) ∧
      (sr = 4 → rd s kd_KEPC_ADDR k < 65536 → rd t kd_KEPC_ADDR k = rd s kd_KEPC_ADDR k / 256 * 256 + v.toNat) ∧
      (sr = 5 → rd s kd_KEPC_ADDR k < 65536 → rd t kd_KEPC_ADDR k = rd s kd_KEPC_ADDR k % 256 + v.toNat * 256) ∧
      (0x28 ≤ sr.toNat → v ≠ 0 → rd t kd_KFAULT_RSVW k = 1) ∧
      (0x28 ≤ sr.toNat → v = 0 → fetchFrame s t k)

/-- R85, R108, R113, R140: NOP, FENCE, SYNCI and WAIT on a quiet kid, and NOP, FENCE and WAIT on a fawn. -/
def Obligations.SynchronisingInstructions : Prop :=
  computes (fun c => .nop c) (fun b => b) ∧
  (∀ n, fawnComputes n (.fence (.fawn n)) (fun b => b)) ∧
  (∀ (n : FawnId) (s : State), fawnIssues s n (.wait (.fawn n)) → ∃ t, exec (.wait (.fawn n)) s = .next t ∧
    (fawnOf t n).wait = some .event ∧ (fawnOf t n).pc = (fawnOf s n).pc ∧ fregs t n = fregs s n ∧ sameMem s t) ∧
  ∀ (k : KidId) (s : State), kidQuiet (kidOf s k) →
    (kidIssues s k (.fence (.kid k)) → ∃ t, exec (.fence (.kid k)) s = .next t ∧ kregs t k = kregs s k ∧
      (kidOf t k).pc = (kidOf s k).pc + 1 ∧ (s.merges.all (fun m => m.rq != ⟨2, k⟩) = true → fetchFrame s t k)) ∧
    (kidIssues s k (.synci k) → ∃ t, exec (.synci k) s = .next t ∧ kregs t k = kregs s k ∧
      (kidOf t k).pc = (kidOf s k).pc + 1 ∧ (kidOf t k).pq = [] ∧ (kidOf t k).tbuf = [] ∧ fetchFrame s t k) ∧
    (kidIssues s k (.wait (.kid k)) → ∃ t, exec (.wait (.kid k)) s = .next t ∧ kregs t k = kregs s k ∧
      (kidOf t k).pc = (kidOf s k).pc + 1 ∧ sameMem s t ∧
      (rdb s kd_KMODE_DBE k = true ∧ rdb s kd_KMODE_INDB k = false ∧ rdb s kd_KMODE_INTR k = false →
        kstate t k = 1 ∧ rd t kd_KFAULT_WAITNE k = rd s kd_KFAULT_WAITNE k) ∧
      (rdb s kd_KMODE_DBE k = false ∨ rdb s kd_KMODE_INDB k = true ∨ rdb s kd_KMODE_INTR k = true →
        kstate t k = kstate s k ∧ rd t kd_KFAULT_WAITNE k = 1))

/-- R109: REP before a word that it allows sets COUNT; with a count of 0 the following word is skipped. -/
def Obligations.RepeatSetsCount : Prop :=
  ∀ (k : KidId) (s : State) (w : PWord), kidQuiet (kidOf s k) → queueHolds s k 1 w → repForbidden (decodeInstr (.kid k) w 0) = false →
    (∀ c8, kidIssues s k (.rep k (.imm c8)) → ∃ t, exec (.rep k (.imm c8)) s = .next t ∧
      rd t kd_KRPT_COUNT k = c8.toNat + 1 ∧ (kidOf t k).rep = true ∧ (kidOf t k).pc = (kidOf s k).pc + 1 ∧
      kregs t k = kregs s k ∧ sameMem s t) ∧
    (∀ r, kidIssues s k (.rep k (.reg r)) → ∃ t, exec (.rep k (.reg r)) s = .next t ∧
      rd t kd_KRPT_COUNT k = byteNat (kregs s k) r ∧ (kidOf t k).rep = decide (byteNat (kregs s k) r ≠ 0) ∧
      (kidOf t k).pc = (kidOf s k).pc + (if byteNat (kregs s k) r = 0 then 2 else 1) ∧
      kregs t k = kregs s k ∧ sameMem s t)

/-- R102, R139: PML reads a word of local program memory into a pair, and PMW writes the low 14 bits of a pair to one, here
with the three words behind it in the queue and no flip-mask armed; at 0x8000 and above both trap 0x03. -/
def Claims.ProgramMemoryMoves : Prop :=
  ∀ (k : KidId) (s : State) (wa : Fin 8),
    let w := pairNat (kregs s k) wa
    let x := 0x11_0000_2000 + k.val * 0x1_0000 + w * 2
    (∀ d bs, kidIssues s k (.pml k d wa) → w < 0x1000 → (memRead s x 2 (agentRq (.kid k) false)).1 = some bs →
      ∃ t, exec (.pml k d wa) s = .next t ∧ kregs t k = withPair (kregs s k) d (ofBytesLE bs % 2 ^ 14) ∧
        ((kidOf s k).rep = false → (kidOf t k).pc = (kidOf s k).pc + 1)) ∧
    (∀ r, kidIssues s k (.pmw k r wa) → kidQuiet (kidOf s k) → w < 0x1000 → s.flip = none → s.memOk →
      (kidOf s k).atPc = kidOf s k → 4 ≤ (kidOf s k).pq.length →
      ∃ t, exec (.pmw k r wa) s = .next t ∧ (readProg t k x).1 = some (BitVec.ofNat 14 (pairNat (kregs s k) r)) ∧
        kregs t k = kregs s k ∧ (kidOf t k).pc = (kidOf s k).pc + 1) ∧
    (0x8000 ≤ w → ∀ r, (kidIssues s k (.pml k r wa) → kidTraps k (.pml k r wa) s 3 (kidOf s k).pc.toNat) ∧
      (kidIssues s k (.pmw k r wa) → kidTraps k (.pmw k r wa) s 3 (kidOf s k).pc.toNat))

/-- R78, R79, R97: TRAP traps 0x08 with KEPC behind it, and a reserved encoding 0x01 with KEPC at the word; on a fawn a reserved
encoding stops it with its cause before the word. -/
def Claims.TrapInstructionsTrap : Prop :=
  (∀ (k : KidId) (s : State), kidIssues s k (.trap k) → (kidOf s k).pc.toNat < 0x8000 →
    kidTraps k (.trap k) s 8 ((kidOf s k).pc.toNat + 1)) ∧
  (∀ (k : KidId) (s : State), kidIssues s k (.reservedEncoding (.kid k)) →
    kidTraps k (.reservedEncoding (.kid k)) s 1 (kidOf s k).pc.toNat) ∧
  (∀ (n : FawnId) (s : State), fawnIssues s n (.reservedEncoding (.fawn n)) → ∃ t, exec (.reservedEncoding (.fawn n)) s = .next t ∧
    (fawnOf t n).st = .stopped ∧ (fawnOf t n).pc = (fawnOf s n).pc ∧ fregs t n = fregs s n ∧ sameMem s t)

/-- R84: RETI from the trap handler, from the doorbell handler, and outside both. -/
def Claims.RetiReturns : Prop :=
  ∀ (k : KidId) (s : State), kidIssues s k (.reti k) →
    (rdb s kd_KMODE_INTR k = true → kidQuiet (kidOf s k) → rd s kd_KRPT_ECOUNT k ≤ 256 → rd s kd_KEPC_ADDR k < 65536 →
      ∃ t, exec (.reti k) s = .next t ∧ rd t kd_KMODE_INTR k = 0 ∧ rd t kd_KMODE_INDB k = rd s kd_KMODE_INDB k ∧
        rd t kd_KRPT_COUNT k = rd s kd_KRPT_ECOUNT k ∧ (kidOf t k).pc.toNat = rd s kd_KEPC_ADDR k ∧
        (kidOf t k).rep = decide (rd s kd_KRPT_ECOUNT k ≠ 0) ∧ kregs t k = kregs s k ∧ sameMem s t) ∧
    (rdb s kd_KMODE_INTR k = false → rdb s kd_KMODE_INDB k = true → kidQuiet (kidOf s k) → rd s kd_KRPT_ICOUNT k ≤ 256 →
      rd s kd_KIPC_ADDR k < 65536 →
      ∃ t, exec (.reti k) s = .next t ∧ rd t kd_KMODE_INDB k = 0 ∧
        rd t kd_KRPT_COUNT k = rd s kd_KRPT_ICOUNT k ∧ (kidOf t k).pc.toNat = rd s kd_KIPC_ADDR k ∧
        (kidOf t k).rep = decide (rd s kd_KRPT_ICOUNT k ≠ 0) ∧ kregs t k = kregs s k ∧ sameMem s t ∧
        (rd s kd_KSRC_SRC k < 256 → alGet (hdcOf s (herdOfKid k)).recd (rd s kd_KSRC_SRC k) = some k.val →
          srcBit t hd_ACTIVE (herdOfKid k) (rd s kd_KSRC_SRC k) = false)) ∧
    (rdb s kd_KMODE_INTR k = false → rdb s kd_KMODE_INDB k = false → kidTraps k (.reti k) s 1 (kidOf s k).pc.toNat)

/-- R78, R81: DEFERRED_TRAP enters the trap handler with DEFER set and KEPC at the first instruction not yet executed. -/
def Claims.deferredTrapEnters : Prop :=
  ∀ (k : KidId) (s : State) (code : Nat) (rest : List Nat), (kidOf s k).deferred = code :: rest → code < 64 →
    atBoundary s k = true → rdb s kd_KMODE_INTR k = false → rd s kd_KRPT_COUNT k ≤ 256 →
    ∃ t, exec (.deferredTrap k) s = .next t ∧ trapEntered s t k code (kidOf s k).pc.toNat true ∧
      (kidOf t k).deferred = rest ∧ sameMem s t

/-- R78, R86: DOORBELL_ENTRY at a boundary with no deferred trap due, or from WAIT, saves the return address and the repeat state
and goes to word 0x0004. -/
def Claims.doorbellEntryEnters : Prop :=
  ∀ (k : KidId) (s : State) (src : Byte) (x : Bool), (kidOf s k).deliv = some (src, x) → entryOk s k = true →
    ((atBoundary s k = true ∧ deferredDue s k = false) ∨ (kidLive s k = true ∧ kstate s k = 1)) → queueWait (kidOf s k) = false →
    rd s kd_KRPT_COUNT k ≤ 256 →
    ∃ t, exec (.doorbellEntry k) s = .next t ∧ rd t kd_KIPC_ADDR k = (kidOf s k).pc.toNat ∧
      rd t kd_KRPT_ICOUNT k = rd s kd_KRPT_COUNT k ∧ rd t kd_KRPT_COUNT k = 0 ∧
      rd t kd_KCAUSE_DB k = 1 ∧ rd t kd_KCAUSE_CODE k = 0 ∧ rd t kd_KCAUSE_DEFER k = 0 ∧ rd t kd_KSRC_SRC k = src.toNat ∧
      rd t kd_KMODE_INDB k = 1 ∧ rd t kd_KMODE_INTR k = rd s kd_KMODE_INTR k ∧ kstate t k = 0 ∧
      (kidOf t k).pc = 4 ∧ (kidOf t k).deliv = none ∧ kregs t k = kregs s k ∧ sameMem s t

/-- R72, R77: a KMODE write whose instructions have run takes effect: DET and DBE, and the capture before the clear. -/
def Claims.kmodeWriteTakesEffect : Prop :=
  ∀ (k : KidId) (s : State) (v : Byte) (rest : List (Byte × Nat)), (kidOf s k).kpend = (v, 0) :: rest → kidLive s k = true →
    kstate s k < 2 → (kidOf s k).between = true →
    ∃ t, exec (.kmodeWrite k) s = .next t ∧ rd t kd_KMODE_DET k = b2n (v.getLsbD 1) ∧ rd t kd_KMODE_DBE k = b2n (v.getLsbD 2) ∧
      (kidOf t k).kpend = rest ∧
      (v.getLsbD 5 = true → rd t kd_KSTEPC_COUNT k = (kidOf s k).stepc.toNat ∧ eventTime s (rd t kd_KTIME k)) ∧
      (v.getLsbD 5 = false → rd t kd_KSTEPC_COUNT k = rd s kd_KSTEPC_COUNT k ∧ rd t kd_KTIME k = rd s kd_KTIME k) ∧
      (kidOf t k).stepc = (if v.getLsbD 6 then 0 else (kidOf s k).stepc) ∧ kregs t k = kregs s k ∧ sameMem s t

/-- R88: TCAP and SCLR written by others act at once on a kid that is halted, in KID reset or between instructions; on a kid inside
an instruction they wait for its boundary. -/
def Claims.outsidePulsesAct : Prop :=
  ∀ (k : KidId) (s : State), blockOpen s (herdDom (herdOfKid k)) (herdShut s (herdOfKid k)) →
    (¬ (kstate s k = 0 ∧ (kidOf s k).between = false) →
      (∃ t, exec (.tcap k) s = .next t ∧ rd t kd_KSTEPC_COUNT k = (kidOf s k).stepc.toNat ∧ eventTime s (rd t kd_KTIME k) ∧
        t.kids = s.kids ∧ t.mem = s.mem) ∧
      (∃ t, exec (.sclr k) s = .next t ∧ (kidOf t k).stepc = 0 ∧ t.regs = s.regs ∧ t.mem = s.mem)) ∧
    (kstate s k = 0 ∧ (kidOf s k).between = false →
      (∃ t, exec (.tcap k) s = .next t ∧ (kidOf t k).pulse = (kidOf s k).pulse ||| 0x20 ∧ t.regs = s.regs) ∧
      (∃ t, exec (.sclr k) s = .next t ∧ (kidOf t k).pulse = (kidOf s k).pulse ||| 0x40 ∧ t.regs = s.regs))

/-- R134: STORE_BUFFER_DRAIN writes the oldest entry, here one for the kid's own data memory, and takes it out of the buffer: the
bytes then read as stored. -/
def Claims.storeBufferDrains : Prop :=
  ∀ (k : KidId) (s : State) (e : StoreEnt) (rest : List StoreEnt), (kidOf s k).sbuf = e :: rest → kidLive s k = true → e.tag = none →
    e.ga.here = true → (e.n = 1 ∨ e.n = 2 ∧ e.ga.a % 2 = 0) →
    0x11_0000_0000 + k.val * 0x1_0000 ≤ e.ga.a → e.ga.a < 0x11_0000_0000 + k.val * 0x1_0000 + 0x800 →
    rdb s pd_DSTAT_TRIMFAIL (herdDom (herdOfKid k)) = false →
    ∃ t, exec (.storeBufferDrain k) s = .next t ∧ (kidOf t k).sbuf = rest ∧ kregs t k = kregs s k ∧
      ∀ w rq, locOf e.ga.a = some w → (decodeAt s w).bad = false → s.flip = none → s.merges = [] →
        (memRead t e.ga.a e.n rq).1 = some (bytesLE e.n e.v)

/-- R425, R426, R56: the commands of kid-control, and the end of a KID reset. -/
def Obligations.KidControlActs : Prop :=
  ∀ (k : KidId) (s : State),
    (blockOpen s (herdDom (herdOfKid k)) (herdShut s (herdOfKid k)) →
      (∃ t, exec (.kctlRun k) s = .next t ∧ (kstate s k = 2 → kstate t k = 0 ∧ rd t kc_KSTAT_WHY k = 0 ∧ (kidOf t k).stepping = false) ∧
        (kstate s k ≠ 2 → rd t kc_KCFAULT_CTLREF k = 1 ∧ kstate t k = kstate s k) ∧ kregs t k = kregs s k ∧ t.mem = s.mem) ∧
      (∃ t, exec (.kctlStep k) s = .next t ∧ (kstate s k = 2 → kstate t k = 0 ∧ (kidOf t k).stepping = true) ∧
        (kstate s k ≠ 2 → rd t kc_KCFAULT_CTLREF k = 1 ∧ kstate t k = kstate s k) ∧ kregs t k = kregs s k ∧ t.mem = s.mem) ∧
      (∃ t, exec (.kctlHalt k) s = .next t ∧ (2 ≤ kstate s k → kstate t k = kstate s k) ∧
        (kstate s k = 1 → kstate t k = 2 ∧ rd t kc_KSTAT_WHY k = 1) ∧
        (kstate s k = 0 → (kidOf s k).between = true → (kidOf s k).sbuf = [] →
          kstate t k = 2 ∧ rd t kc_KSTAT_WHY k = 1 ∧ (kidOf t k).deliv = none ∧ rd t kd_KMODE_INDB k = rd s kd_KMODE_INDB k) ∧
        (queueWait (kidOf s k) = false → kregs t k = kregs s k ∧ (kidOf t k).pc = (kidOf s k).pc)) ∧
      (∃ t, exec (.kctlReset k) s = .next t ∧ kstate t k = 3 ∧ rd t kc_KSTAT_WHY k = 0 ∧ kregs t k = Vector.replicate 16 0 ∧
        (kidOf t k).pc = 0 ∧ rd t kd_KMODE_SUP k = rd s kd_KMODE_SUP k ∧
        ∀ F : Fld, F.blk = .kidSr → (F.off ≠ 0 ∨ F.lo ≠ 0) → rd t F k = F.reset 0) ∧
      (∀ v, ∃ t, exec (.kctlRsthold k v) s = .next t ∧ rd t kc_KCTL_RSTHOLD k = b2n v ∧
        (v = true → kstate t k = 3) ∧ (v = false → kstate t k = kstate s k ∧ t.kids = s.kids))) ∧
    (kstate s k = 3 → rdb s kc_KCTL_RSTHOLD k = false → herdHeld s (herdOfKid k) = false → 24 ≤ since s (.kid k) →
      ∃ t, exec (.kidResetEnds k) s = .next t ∧ kstate t k = 0 ∧ t.kids = s.kids ∧ t.mem = s.mem)

/-- R100: the byte instructions and the shifts. -/
def Obligations.ByteInstructionsCompute : Prop := Claims.byteInstructionsCompute ∧ Claims.shiftInstructionsCompute

/-- R103 to R106: branches and jumps. -/
def Obligations.BranchesAndJumpsTransfer : Prop := Claims.branchesTransfer ∧ Claims.jumpsTransfer

/-- R102, R138: what a load gets, from the store buffer, from the kid's own data memory and from a device; and the accesses of a
fawn to its data. -/
def Obligations.LoadsRead : Prop :=
  Claims.loadForwardsFromStoreBuffer ∧ Claims.loadReadsOwnMemory ∧ Claims.deviceLoads ∧ Claims.fawnAccessesData

/-- R134: a store enters the store buffer, and an entry leaves it. -/
def Obligations.StoresBufferAndDrain : Prop := Claims.storeEntersBuffer ∧ Claims.storesComplete ∧ Claims.storeBufferDrains

/-- R78, R81: the entries of the two handlers between instructions. -/
def Obligations.HandlersEntered : Prop := Claims.deferredTrapEnters ∧ Claims.doorbellEntryEnters

/-- R72, R77, R88: KMODE writes and the pulses of others. -/
def Obligations.KmodeAndPulses : Prop := Claims.kmodeWriteTakesEffect ∧ Claims.outsidePulsesAct

/-- R73, R78 to R84, R99, R145, R146: TRAP takes its trap, and RETI returns. -/
def Obligations.TrapsAndReturns : Prop := Claims.TrapInstructionsTrap ∧ Claims.RetiReturns

/-- Moves of special registers and of program memory. -/
def Obligations.RegisterAndProgramMoves : Prop := Claims.SpecialRegisterMoves ∧ Claims.ProgramMemoryMoves

/-! ### The block as a whole -/

/-- One step runs the command at the front of the queue on the state with the queue's rest; one that is not well formed is a fault;
on an empty queue the block idles (assumption 3). -/
def Obligations.StepRunsFrontCommand : Prop :=
  ∀ (c : Instr) (s : State) (rest : List Instr),
    (c.wf = true → step { s with pending := c :: rest } = exec c { s with pending := rest }) ∧
    (c.wf = false → step { s with pending := c :: rest } = .fault .illFormed) ∧
    (s.pending = [] → step s = .next (idle s))

/-- Every command of the table completes: no command is refused, and none is a fault. What it does is for the statements of its family to say. -/
def Obligations.EveryCommandCompletes : Prop :=
  ∀ (c : Instr) (s : State), ∃ t, exec c s = .next t

/-- No command changes the queue of waiting commands. -/
def Obligations.CommandsKeepQueue : Prop :=
  ∀ (c : Instr) (s t : State), exec c s = .next t → t.pending = s.pending

/-- Every step, the idle step too, keeps the canonical form of memory. -/
def Obligations.StepKeepsMemoryForm : Prop :=
  ∀ s t : State, s.memOk → step s = .next t → t.memOk

/-- What reset leaves: the values that the spec gives after POWER-ON reset. -/
def Obligations.ResetState : Prop :=
  State.reset.memOk ∧ State.reset.pending = [] ∧ rd State.reset hb_BOOTSTAT_PHASE = 1 ∧ rd State.reset pm_PMSTAT_STATE = 0 ∧
    rd State.reset rs_LASTRST = 1 ∧ rd State.reset lc_FAULTHERD = 0 ∧
    (∀ k : KidId, kstate State.reset k = 3 ∧ kregs State.reset k = Vector.replicate 16 0 ∧ (kidOf State.reset k).pc = 0 ∧
      rd State.reset kd_KMODE_DET k = 0 ∧ rd State.reset kd_KMODE_DBE k = 0) ∧
    (∀ n : FawnId, (fawnOf State.reset n).pc = 0) ∧
    (∀ e : EpId, role State.reset e = 0 ∧ (consOf State.reset e).cls = [] ∧ (prodOf State.reset e).cls = [] ∧
      (prodOf State.reset e).hdr = []) ∧
    (∀ (h : HerdId) (i : Fin 32), rd State.reset hd_PEND h i = 0 ∧ rd State.reset hd_ACTIVE h i = 0) ∧
    (∀ l : LinkId, rd State.reset lk_LSTATE l = 0)

/-- How the OTP may differ between two states: the security version rises only, keys and revocations stay, repairs are added, the
returns fall only with FIELD to OWNED, the lifecycle takes only the edges of R387, and a key that a pending record brings is written with
its edge. -/
def Claims.otpMoves (a b : Otp) : Prop :=
  a.svn ≤ b.svn ∧ (∀ x, x ∈ a.revoked → x ∈ b.revoked) ∧
    (∀ slot h, alGet a.keys slot = some h → alGet b.keys slot = some h ∨
      ((slot = 0 ∧ a.lcstate = 0 ∨ slot = 1 ∧ a.lcstate = 1) ∧ b.lcstate ≠ a.lcstate)) ∧
    (∃ l, b.repairs = a.repairs ++ l) ∧
    ((b.lcstate = a.lcstate ∧ b.returns = a.returns) ∨
      (a.lcstate = 3 ∧ b.lcstate = 2 ∧ 0 < a.returns ∧ b.returns + 1 = a.returns) ∨
      (b.returns = a.returns ∧ ((a.lcstate = 0 ∧ b.lcstate = 1) ∨ (a.lcstate = 1 ∧ (b.lcstate = 2 ∨ b.lcstate = 4)) ∨
        (a.lcstate = 2 ∧ (b.lcstate = 3 ∨ b.lcstate = 4)) ∨ (a.lcstate = 3 ∧ b.lcstate = 4))))

/-- A pending record of OTP is one that R387, R388 and R390 allow to begin: an edge of the lifecycle, with the key of slot 0 on leaving VIRGIN,
the key of slot 1 on leaving VENDOR for OWNED, and none on any other edge. -/
def Claims.pendOk (o : Otp) : Prop := ∀ st key, o.pend = some (st, key) →
  (o.lcstate = 0 ∧ st = 1 ∧ ∃ h, key = some (0, h)) ∨ (o.lcstate = 1 ∧ st = 2 ∧ ∃ h, key = some (1, h)) ∨
    (key = none ∧ ((o.lcstate = 1 ∧ st = 4) ∨ (o.lcstate = 2 ∧ (st = 3 ∨ st = 4)) ∨ (o.lcstate = 3 ∧ st = 4) ∨
      (o.lcstate = 3 ∧ st = 2 ∧ 0 < o.returns)))

/-- R383, R387, R388, R390, R392: every step from a state whose pending record is one that may begin changes OTP only as `otpMoves` says,
and leaves such a state; the state after reset is one. -/
def Obligations.OtpOnlyMovesOn : Prop :=
  Claims.pendOk State.reset.otp ∧
    ∀ s t : State, Claims.pendOk s.otp → step s = .next t → Claims.otpMoves s.otp t.otp ∧ Claims.pendOk t.otp

/-! ### Program words -/

/-- Who executes a kid or fawn instruction. -/
def Claims.execBy : Instr → Option Who
  | .nop c | .wait c | .fence c | .not c _ _ | .jr c _ | .jalr c _ | .addw c _ _ _ | .subw c _ _ _ | .movw c _ _ _
  | .addiB c _ _ _ | .addiW c _ _ _ | .jal c _ | .beqz c _ _ _ | .bnez c _ _ _ | .mov c _ _ _ | .movi c _ _ | .add c _ _ _
  | .sub c _ _ _ | .and c _ _ _ | .or c _ _ _ | .xor c _ _ _ | .cry c _ _ _ | .brw c _ _ _ | .shl c _ _ _ | .shr c _ _ _
  | .sar c _ _ _ | .rol c _ _ _ | .ld c _ _ _ | .st c _ _ _ | .ldw c _ _ | .stw c _ _ => some c
  | .jalTwoWord k _ _ | .beq k _ _ _ | .bne k _ _ _ | .blt k _ _ _ | .bge k _ _ _ | .bltu k _ _ _ | .bgeu k _ _ _ | .mfs k _ _
  | .mts k _ _ | .mul k _ _ | .div k _ _ | .rep k _ | .pml k _ _ | .pmw k _ _ | .synci k | .reti k | .trap k => some (.kid k)
  | _ => none

/-- R93 to R97: decode of encode is the instruction, for every well-formed instruction with every operand; and encode of decode is
the word, for every word that is no reserved encoding. -/
def Obligations.DecodeOfEncode : Prop :=
  (∀ (i : Instr) (c : Who) (w2 : PWord), Claims.execBy i = some c → i.wf = true →
    ∃ w ws, encodeInstr i = w :: ws ∧ decodeInstr c w (ws.headD w2) = i) ∧
  ∀ (c : Who) (w w2 : PWord), decodeInstr c w w2 = .reservedEncoding c ∨
    ((decodeInstr c w w2).wf = true ∧ encodeInstr (decodeInstr c w w2) = if twoWords w then [w, w2] else [w])

/-- Words that the spec's examples write out. -/
def Obligations.DecodeWords : Prop :=
  ∀ c : Who, decodeInstr c 0x0430 0 = .mov c .short 6 0 ∧ decodeInstr c 0x05B3 0 = .cry c .short 6 3 ∧
    decodeInstr c 0x0443 0 = .add c .short 0 3 ∧ decodeInstr c 0x0457 0 = .add c .short 2 7 ∧
    decodeInstr c 0x0808 0 = .movi c 0 8 ∧ decodeInstr c 0x07A6 0 = .ldw c 4 6 ∧ decodeInstr c 0x07E6 0 = .stw c 4 6 ∧
    ∀ k : KidId, decodeInstr (.kid k) 0x3FEE 0 = .addiW (.kid k) .long 6 (-2) ∧
      decodeInstr (.kid k) 0x3FE2 0 = .addiW (.kid k) .long 6 2

/-! ### Boundaries -/

/-- A row that writes a register of the block of domain d. In DEEP no write comes, and nothing changes; where TRIMFAIL holds the domain it completes as a
reserved address; where the domain is not on, or a reset shuts the block, it waits at the boundary and wakes a gated domain; nothing of it
happens before that. -/
def Claims.boundary (c : Instr) (d : Nat) (shut : State → Bool) : Prop :=
  ∀ s : State,
    (s.pow.deep = true → exec c s = .next s) ∧
    (s.pow.deep = false → rdb s pd_DSTAT_TRIMFAIL d = true → exec c s = .next { s with reply := .reserved }) ∧
    (s.pow.deep = false → rdb s pd_DSTAT_TRIMFAIL d = false → pstate s d ≠ 0 ∨ shut s = true →
      ∃ q, exec c s = .next { s with held := s.held ++ [q], reply := .waits, regs := (touch s d).regs,
                                       clk := (touch s d).clk } ∧ q.ag = .host ∧
        (pstate s d = 1 → pstate (touch s d) d = 2) ∧ (pstate s d ≠ 1 → touch s d = s))

/-- R401, R415, R420: the boundary of the rows that write a register of the caches, HDCs, consumer endpoints, memory integrity, kid-control and
boot blocks. -/
def Obligations.BoundariesHoldWrites : Prop :=
  (∀ (h : HerdId), let shut (s : State) := s.rst.herds.contains h.val
    Claims.boundary (.iccInvall h) (herdDom h) shut ∧ Claims.boundary (.iccClrcnt h) (herdDom h) shut ∧
    (∀ w, Claims.boundary (.icinv h w) (herdDom h) shut) ∧ (∀ src, Claims.boundary (.ring h src) (herdDom h) shut) ∧
    (∀ src, Claims.boundary (.cmpl h src) (herdDom h) shut) ∧ (∀ i v, Claims.boundary (.pend h i v) (herdDom h) shut) ∧
    (∀ i v, Claims.boundary (.mask h i v) (herdDom h) shut) ∧ Claims.boundary (.hdcctlCntclr h) (herdDom h) shut) ∧
  (∀ e : EpId, Claims.boundary (.qreset e) (herdDom (e.val / 64)) (fun s => s.rst.herds.contains (e.val / 64)) ∧
    Claims.boundary (.resync e) (herdDom (e.val / 64)) (fun s => s.rst.herds.contains (e.val / 64)) ∧
    Claims.boundary (.clrpeak e) (herdDom (e.val / 64)) (fun s => s.rst.herds.contains (e.val / 64))) ∧
  Claims.boundary .cipgo 149 (fun _ => false) ∧ Claims.boundary .fliparm 149 (fun _ => false) ∧
  Claims.boundary .flipcan 149 (fun _ => false) ∧ Claims.boundary .logpop 149 (fun _ => false) ∧
  Claims.boundary .cntclr 149 (fun _ => false) ∧ Claims.boundary .rprgo 149 (fun _ => false) ∧
  Claims.boundary .bootctlGo 147 (fun _ => false) ∧ Claims.boundary .provgo 148 (fun _ => false)

/-! ### Caches and memory integrity -/

/-- R152 to R156: the columns of the four codes, data bits first. -/
def Obligations.CodeColumns : Prop :=
  (List.range 26).map (fun i => (columns 7).getD i 0) =
      [0x07, 0x0B, 0x0D, 0x0E, 0x13, 0x15, 0x16, 0x19, 0x1A, 0x1C, 0x23, 0x25, 0x26, 0x29,
        0x2A, 0x2C, 0x31, 0x32, 0x34, 0x38, 0x43, 0x45, 0x46, 0x49, 0x4A, 0x4C] ∧
    (List.range 22).map (fun i => (columns 6).getD i 0) =
      [0x07, 0x0B, 0x0D, 0x0E, 0x13, 0x15, 0x16, 0x19, 0x1A, 0x1C, 0x23, 0x25,
        0x26, 0x29, 0x2A, 0x2C, 0x31, 0x32, 0x34, 0x38, 0x1F, 0x2F] ∧
    (List.range 48).map (fun i => (columns 7).getD i 0) =
      [0x07, 0x0B, 0x0D, 0x0E, 0x13, 0x15, 0x16, 0x19, 0x1A, 0x1C, 0x23, 0x25, 0x26, 0x29, 0x2A, 0x2C,
        0x31, 0x32, 0x34, 0x38, 0x43, 0x45, 0x46, 0x49, 0x4A, 0x4C, 0x51, 0x52, 0x54, 0x58, 0x61, 0x62,
        0x64, 0x68, 0x70, 0x1F, 0x2F, 0x37, 0x3B, 0x3D, 0x3E, 0x4F, 0x57, 0x5B, 0x5D, 0x5E, 0x67, 0x6B] ∧
    (List.range 100).map (fun i => (columns 8).getD i 0) =
      [0x07, 0x0B, 0x0D, 0x0E, 0x13, 0x15, 0x16, 0x19, 0x1A, 0x1C, 0x23, 0x25, 0x26, 0x29, 0x2A, 0x2C,
        0x31, 0x32, 0x34, 0x38, 0x43, 0x45, 0x46, 0x49, 0x4A, 0x4C, 0x51, 0x52, 0x54, 0x58, 0x61, 0x62,
        0x64, 0x68, 0x70, 0x83, 0x85, 0x86, 0x89, 0x8A, 0x8C, 0x91, 0x92, 0x94, 0x98, 0xA1, 0xA2, 0xA4,
        0xA8, 0xB0, 0xC1, 0xC2, 0xC4, 0xC8, 0xD0, 0xE0, 0x1F, 0x2F, 0x37, 0x3B, 0x3D, 0x3E, 0x4F, 0x57,
        0x5B, 0x5D, 0x5E, 0x67, 0x6B, 0x6D, 0x6E, 0x73, 0x75, 0x76, 0x79, 0x7A, 0x7C, 0x8F, 0x97, 0x9B,
        0x9D, 0x9E, 0xA7, 0xAB, 0xAD, 0xAE, 0xB3, 0xB5, 0xB6, 0xB9, 0xBA, 0xBC, 0xC7, 0xCB, 0xCD, 0xCE,
        0xD3, 0xD5, 0xD6, 0xD9] ∧
    ∀ c i j, dataCol c i = (columns c.checkBits).getD i 0 ∧ addrCol c j = (columns c.checkBits).getD (c.dataBits + j) 0

/-- R157, R158: a read computes the syndrome of what differs: one data bit is named, one address bit is an address fault, one check bit
is corrected, and two flipped bits are refused. -/
def Obligations.CodeCorrectsOneDetectsTwo : Prop :=
  ∀ (c : Code) (d a : Nat),
    let synd (d' k' a' : Nat) := (encodeCheck c d a ^^^ k') ^^^ encodeCheck c d' a'
    decodeSynd c (synd d 0 a) = .clean ∧
    (∀ i, i < c.dataBits → decodeSynd c (synd (d ^^^ 2 ^ i) 0 a) = .data i) ∧
    (∀ j, j < c.addrBits → decodeSynd c (synd d 0 (a ^^^ 2 ^ j)) = .addr j) ∧
    (∀ k, k < c.checkBits → decodeSynd c (synd d (2 ^ k) a) = .check) ∧
    (∀ i j, i < j → j < c.dataBits → decodeSynd c (synd (d ^^^ 2 ^ i ^^^ 2 ^ j) 0 a) = .uncorr) ∧
    (∀ i k, i < c.dataBits → k < c.checkBits → decodeSynd c (synd (d ^^^ 2 ^ i) (2 ^ k) a) = .uncorr) ∧
    (∀ k l, k < l → l < c.checkBits → decodeSynd c (synd d (2 ^ k + 2 ^ l) a) = .uncorr)

/-- R163, R161, R177: a full write with no flip-mask armed leaves its word clean, with both valid copies, and every other byte as it
was; it reads no old data and frees the repeat entry. -/
def Claims.FullWriteLeavesCleanWord : Prop :=
  ∀ (s : State) (a : Nat) (w : Loc) (v : Nat), locOf a = some w → s.memOk → s.flip = none →
    decodeAt (fullWrite s w v) w = .clean ∧ metaOf (fullWrite s w v) w = ⟨true, true, 0⟩ ∧
    rawData (fullWrite s w v) w = maskWord w.code w.base v ∧
    (rptOf (fullWrite s w v) w.bank).all (fun e => e.addr != w.fold) = true ∧
    (∀ b, b < w.base ∨ w.base + w.code.bytes ≤ b → memGet (fullWrite s w v).mem b = memGet s.mem b) ∧ (fullWrite s w v).memOk

/-- R158, R160, R166, R167: what a read of a word without a merge entry returns, by its decode; a read changes no byte of memory. -/
def Claims.ReadByDecode : Prop :=
  ∀ (s : State) (a : Nat) (w : Loc) (rq : Rq), locOf a = some w → s.merges.find? (fun m => m.word == w.base) = none →
    let r := readWord s w rq
    (decodeAt s w = .clean ∨ decodeAt s w = .check → r.1 = some (bytesLE w.code.bytes (rawData s w))) ∧
    (decodeAt s w = .unwritten → r.1 = some (bytesLE w.code.bytes 0)) ∧
    (∀ i, decodeAt s w = .data i → r.1 = some (bytesLE w.code.bytes (rawData s w ^^^ 2 ^ i))) ∧
    ((decodeAt s w).bad = true → r.1 = none ∧ rd r.2 mi_UECOUNT = (rd s mi_UECOUNT + 1) % 2 ^ 32) ∧
    ((decodeAt s w).correctable = true → rd r.2 mi_CECOUNT = (rd s mi_CECOUNT + 1) % 2 ^ 32 ∧ rd r.2 mi_UECOUNT = rd s mi_UECOUNT) ∧
    ((decodeAt s w).bad = true → s.milog.length < 64 → r.2.milog.length = s.milog.length + 1) ∧
    ((decodeAt s w).bad = true → 64 ≤ s.milog.length → r.2.milog = s.milog ∧ rd r.2 mi_MIFAULT_LOGOVF = 1) ∧
    sameMem s r.2

/-- R121, R125: LINE_FILL ends the fill; it installs the line where nothing spoiled the fill and its four words are readable. -/
def Claims.lineFillInstalls : Prop :=
  ∀ (h : HerdId) (line : Fin 4096) (s : State) (l : Nat) (ok : Bool),
    (icacheOf s h).fills.find? (fun f => f.1 == line.val) = some (l, ok) → herdHeld s h = false → 512 ≤ line.val →
    ∃ t, exec (.lineFill h line) s = .next t ∧ (icacheOf t h).fills.any (fun f => f.1 == line.val) = false ∧ sameMem s t ∧
      (ok = true → (lineRead s h line 4).1.all Option.isSome = true → lineValid t h line = true) ∧
      (ok = false → (icacheOf t h).lines = (icacheOf s h).lines) ∧
      (∀ (k : KidId) x y, herdOfKid k = h.val → (kidOf s k).fetching = some x → x / 8 = line.val → (kidOf t k).fetching = none ∧
        ((kidOf s k).wait = some (.fill y) → (kidOf t k).wait = none ∧ (kidOf t k).must = true)) ∧
      (∀ h', h' ≠ h.val → icacheOf t h' = icacheOf s h')

/-- R124, R125: the commands of the cache block. -/
def Claims.cacheCommands : Prop :=
  ∀ (h : HerdId) (s : State), blockOpen s (herdDom h) (s.rst.herds.contains h.val) →
    (∃ t, exec (.iccInvall h) s = .next t ∧ (icacheOf t h).lines = [] ∧
      (icacheOf t h).fills = (icacheOf s h).fills.map (fun f => (f.1, false)) ∧ t.regs = s.regs ∧ t.mem = s.mem) ∧
    (∃ t, exec (.iccClrcnt h) s = .next t ∧ rd t ic_ICHITS_COUNT h = 0 ∧ rd t ic_ICMISS_COUNT h = 0 ∧ rd t ic_ICSNOOP_COUNT h = 0 ∧
      rd t ic_ICERR_COUNT h = 0 ∧ onlyRegs s t (fun k => k.blk = .icache ∧ k.inst = h.val)) ∧
    (∀ w : BitVec 15, ∃ t, exec (.icinv h w) s = .next t ∧ (w.toNat < 0x1000 → icacheOf t h = icacheOf s h) ∧
      (0x1000 ≤ w.toNat → (icacheOf t h).lines = (icacheOf s h).lines.filter (fun l => l.line != w.toNat / 8)) ∧
      t.regs = s.regs ∧ t.mem = s.mem)

/-- R121 to R125: the instruction cache. -/
def Obligations.InstructionCache : Prop := Claims.lineFillInstalls ∧ Claims.cacheCommands

/-- R164, R165, R171: MERGE_COMMIT of a word that reads, with no flip-mask armed, writes the word with the gathered bytes over it; of a word
that is uncorrectable and not wholly gathered it writes nothing, counts, and reports to a requesting kid. -/
def Claims.MergeCommits : Prop :=
  ∀ (a : Nat) (w : Loc) (m : MergeEnt) (s : State), locOf a = some w → s.merges.find? (fun m => m.word == w.base) = some m →
    (∀ v, (decodeAt s w).value (rawData s w) = some v → s.flip = none → s.memOk →
      ∃ t, exec (.mergeCommit a) s = .next t ∧ t.merges = s.merges.filter (fun e => e.word != w.base) ∧ decodeAt t w = .clean ∧
        rawData t w = maskWord w.code w.base (ofBytesLE ((List.range w.code.bytes).map (fun i =>
          (m.got.lookup i).getD ((bytesLE w.code.bytes v).getD i 0)))) ∧
        ∀ b, b < w.base ∨ w.base + w.code.bytes ≤ b → memGet t.mem b = memGet s.mem b) ∧
    ((decodeAt s w).bad = true → (List.range w.code.bytes).any (fun i => (m.got.lookup i).isNone) = true →
      ∃ t, exec (.mergeCommit a) s = .next t ∧ t.merges = s.merges.filter (fun e => e.word != w.base) ∧ t.mem = s.mem ∧
        rd t mi_REJCOUNT = (rd s mi_REJCOUNT + 1) % 2 ^ 32 ∧ (s.milog.length < 64 → t.milog.length = s.milog.length + 1) ∧
        (m.rq.cls = 2 → m.off ≠ 1 → (kidOf t m.rq.id).deferred = (kidOf s m.rq.id).deferred ++ [6]))

/-- R170, R477, R478: CIPGO starts a request or refuses it, and CORRECT_IN_PLACE ends it as the decode says. -/
def Claims.CorrectInPlace : Prop :=
  (∀ s : State, blockOpen s 149 false → ∃ t, exec .cipgo s = .next t ∧ t.mem = s.mem ∧
    (rdb s mi_CIPBUSY = true → rd t mi_MIFAULT_BUSYGO = 1 ∧ t.cip = s.cip) ∧
    (rdb s mi_CIPBUSY = false → rd t mi_CIPBUSY = 1 ∧ t.cip = some (rd s mi_CIPBANK, rd s mi_CIPADDR))) ∧
  ∀ (s : State) (b f : Nat), s.cip = some (b, f) → (bankExists b = false ∨ pstate s (bankDom b) = 0) →
    (addrExists b f = false → ∃ t, exec .correctInPlace s = .next t ∧ rd t mi_CIPRES = 6 ∧ rd t mi_CIPBUSY = 0 ∧ t.cip = none ∧
      onlyRegs { s with cip := none } t (fun k => k.blk = .integrity)) ∧
    ∀ a w, addrExists b f = true → b / 2 ^ 28 ≠ 5 → baseOf b f = some a → locOf a = some w →
      s.merges.find? (fun m => m.word == w.base) = none → s.flip = none → s.memOk →
      ∃ t, exec .correctInPlace s = .next t ∧ rd t mi_CIPBUSY = 0 ∧ t.cip = none ∧
        (decodeAt s w = .clean → rd t mi_CIPRES = 1 ∧ t.mem = s.mem) ∧
        (decodeAt s w = .check → rd t mi_CIPRES = 2 ∧ decodeAt t w = .clean ∧
          rawData t w = maskWord w.code w.base (rawData s w)) ∧
        (∀ i, decodeAt s w = .data i → rd t mi_CIPRES = 2 ∧ decodeAt t w = .clean ∧
          rawData t w = maskWord w.code w.base (rawData s w ^^^ 2 ^ i)) ∧
        (decodeAt s w = .uncorr ∨ decodeAt s w = .valid → rd t mi_CIPRES = 3 ∧ t.mem = s.mem) ∧
        (decodeAt s w = .unwritten → rd t mi_CIPRES = 4 ∧ t.mem = s.mem) ∧
        (∀ j, decodeAt s w = .addr j → rd t mi_CIPRES = 5 ∧ t.mem = s.mem) ∧
        ∀ c, c < w.base ∨ w.base + w.code.bytes ≤ c → memGet t.mem c = memGet s.mem c

/-- R173, R177, R179, R181: the other commands of the memory integrity block. -/
def Claims.IntegrityCommands : Prop :=
  (∀ s : State, blockOpen s 149 false →
    exec .fliparm s = .next { s with reply := .done, flip := some ⟨rd s mi_FLIPBANK, rd s mi_FLIPADDR, rd s mi_FLIPD, rd s mi_FLIPC,
      rdb s mi_FLIPV⟩ } ∧
    exec .flipcan s = .next { s with reply := .done, flip := none } ∧
    exec .logpop s = .next { s with reply := .done, milog := s.milog.drop 1 } ∧
    (∃ t, exec .cntclr s = .next t ∧ rd t mi_CECOUNT = 0 ∧ rd t mi_UECOUNT = 0 ∧ rd t mi_AFCOUNT = 0 ∧ rd t mi_REJCOUNT = 0 ∧
      rd t mi_LOSTCOUNT = 0 ∧ onlyRegs s t (fun k => k.blk = .integrity)) ∧
    ∃ t, exec .rprgo s = .next t ∧
      let r : Repair := ⟨rd s mi_RPRBANK, rd s mi_RPRADDR, rd s mi_RPRBIT, rdb s mi_RPRCOL⟩
      (rdb s mi_RPRBUSY = true → rd t mi_MIFAULT_BUSYGO = 1 ∧ t.otp = s.otp ∧ t.hppr = s.hppr) ∧
      (rdb s mi_RPRBUSY = false → repairOk r = false → rd t mi_RPRRES = 6 ∧ t.otp = s.otp) ∧
      (rdb s mi_RPRBUSY = false → repairOk r = true → s.otp.lcstate = 0 ∨ s.otp.lcstate = 4 → rd t mi_RPRRES = 5 ∧ t.otp = s.otp) ∧
      (rdb s mi_RPRBUSY = false → repairOk r = true → ¬ (s.otp.lcstate = 0 ∨ s.otp.lcstate = 4) → s.otp.repairs.length < 512 →
        r.bank / 2 ^ 28 ≠ 8 → sparesLeft s r.bank r.col = true → rd t mi_RPRRES = 1 ∧ t.otp.repairs = s.otp.repairs ++ [r]) ∧
      (rdb s mi_RPRBUSY = false → repairOk r = true → ¬ (s.otp.lcstate = 0 ∨ s.otp.lcstate = 4) → r.bank / 2 ^ 28 = 8 →
        hbmFenced s r.bank = false → rd t mi_RPRRES = 7 ∧ t.otp = s.otp)) ∧
  ∀ (s : State) (r : Repair), s.hppr = some r → ∃ t, exec .hppr s = .next t ∧ t.hppr = none ∧ rd t mi_RPRRES = 2 ∧ rd t mi_RPRBUSY = 0 ∧
    t.otp.repairs = s.otp.repairs ++ [r] ∧ ∀ a, memGet t.mem a = if sameRow r a then memDefault else memGet s.mem a

/-! ### Doorbells and level bridges -/

/-- R216: which source is claimed, and for which kid; the rotation pointer after a claim and after a HERD reset. -/
def Obligations.NextClaimOrder : Prop :=
  ∀ (s : State) (h : HerdId),
    (∀ src k, nextClaim s h = some (src, k) →
      src < 256 ∧ claimable s h src = true ∧ (∀ x, x < src → claimable s h x = false) ∧ k / 64 = h.val ∧ eligible s k = true ∧
      ∀ j, j / 64 = h.val → eligible s j = true → rd s kd_KPRIO_LEVEL k < rd s kd_KPRIO_LEVEL j ∨
        (rd s kd_KPRIO_LEVEL k = rd s kd_KPRIO_LEVEL j ∧
          (k % 64 + 64 - (hdcOf s h).rot % 64) % 64 ≤ (j % 64 + 64 - (hdcOf s h).rot % 64) % 64)) ∧
    (nextClaim s h = none ↔ (∀ x, x < 256 → claimable s h x = false) ∨ ∀ k, k / 64 = h.val → eligible s k = false) ∧
    (∀ x, claimable s h x = true ↔ srcBit s hd_PEND h x = true ∧ srcBit s hd_MASK h x = false ∧ srcBit s hd_ACTIVE h x = false) ∧
    (∀ src k, herdHeld s h = false → nextClaim s h = some (src, k) → ∃ t, exec (.claimPoint h) s = .next t ∧
      (kidOf t k).deliv = some (BitVec.ofNat 8 src, false) ∧ (hdcOf t h).rot = (k % 64 + 1) % 64) ∧
    (s.pow.deep = false → rd s rs_RSTHERD = h.val → widerHerd s h = false → ∃ t, exec .herdgo s = .next t ∧ (hdcOf t h).rot = 0)

/-- R218: the claim point. -/
def Obligations.ClaimPointCommits : Prop :=
  ∀ (s : State) (h : HerdId) (src k : Nat), herdHeld s h = false → nextClaim s h = some (src, k) →
    ∃ t, exec (.claimPoint h) s = .next t ∧ srcBit t hd_PEND h src = false ∧ srcBit t hd_ACTIVE h src = true ∧
      (∀ x, x < 256 → x ≠ src → srcBit t hd_PEND h x = srcBit s hd_PEND h x ∧ srcBit t hd_ACTIVE h x = srcBit s hd_ACTIVE h x) ∧
      rd t hd_ARRC h (src / 8) = (rd s hd_ARRC h (src / 8) + 1) % 256 ∧ rd t hd_CLAIMS h = (rd s hd_CLAIMS h + 1) % 2 ^ 32 ∧
      rd t hd_LASTCLAIM_SRC h = src ∧ rd t hd_LASTCLAIM_KID h = k % 64 ∧ rd t hd_LASTCLAIM_V h = 1 ∧
      alGet (hdcOf t h).recd src = some k ∧ (hdcOf t h).rot = (k % 64 + 1) % 64 ∧
      kidOf t k = { kidOf s k with deliv := some (BitVec.ofNat 8 src, false) } ∧
      (∀ j, j ≠ k → kidOf t j = kidOf s j) ∧ t.mem = s.mem

/-- R213, R215, R220 to R224: the writes of the HDC's registers. -/
def Claims.DoorbellWrites : Prop :=
  ∀ (h : HerdId) (s : State), blockOpen s (herdDom h) (s.rst.herds.contains h.val) →
    (∀ src : Byte, ∃ t, exec (.ring h src) s = .next t ∧ onlyRegs s t (fun k => k.blk = .hdc ∧ k.inst = h.val) ∧
      (src.toNat < 64 → rd t hd_HDCFAULT_DEVRING h = 1 ∧ ∀ i, rd t hd_PEND h i = rd s hd_PEND h i) ∧
      (64 ≤ src.toNat → srcBit t hd_PEND h src.toNat = true ∧
        rd t hd_ARRC h (src.toNat / 8) = (rd s hd_ARRC h (src.toNat / 8) + 1) % 256 ∧
        rd t hd_HDCFAULT_DEVRING h = rd s hd_HDCFAULT_DEVRING h ∧
        ∀ x, x < 256 → x ≠ src.toNat → srcBit t hd_PEND h x = srcBit s hd_PEND h x)) ∧
    (∀ src : Byte, ∃ t, exec (.cmpl h src) s = .next t ∧ t.mem = s.mem ∧ t.kids = s.kids ∧
      (srcBit s hd_ACTIVE h src.toNat = false → rd t hd_SPURCMP h = (rd s hd_SPURCMP h + 1) % 2 ^ 32 ∧
        onlyRegs s t (fun k => k = hd_SPURCMP.key h 0)) ∧
      (srcBit s hd_ACTIVE h src.toNat = true → srcBit t hd_ACTIVE h src.toNat = false ∧
        alGet (hdcOf t h).recd src.toNat = none ∧ rd t hd_SPURCMP h = rd s hd_SPURCMP h)) ∧
    (∀ (i : Fin 32) (v : Byte), ∃ t, exec (.pend h i v) s = .next t ∧ onlyRegs s t (fun k => k = hd_PEND.key h i) ∧
      (8 ≤ i.val → rd t hd_PEND h i = v.toNat) ∧
      (i.val < 8 → rd t hd_PEND h i = (rd s hd_PEND h i &&& v.toNat))) ∧
    (∀ (i : Fin 32) (v : Byte), ∃ t, exec (.mask h i v) s = .next t ∧ rd t hd_MASK h i = v.toNat ∧
      rd t hd_LATEMASK h = (rd s hd_LATEMASK h +
        ((List.range 8).filter (fun b => v.getLsbD b && !bit (rd s hd_MASK h i) b && bit (rd s hd_ACTIVE h i) b)).length) % 2 ^ 32 ∧
      onlyRegs s t (fun k => k = hd_MASK.key h i ∨ k = hd_LATEMASK.key h 0)) ∧
    (∃ t, exec (.hdcctlCntclr h) s = .next t ∧ rd t hd_CLAIMS h = 0 ∧ rd t hd_SPURCMP h = 0 ∧ rd t hd_LATEMASK h = 0 ∧
      onlyRegs s t (fun k => k = hd_CLAIMS.key h 0 ∨ k = hd_SPURCMP.key h 0 ∨ k = hd_LATEMASK.key h 0))

/-- R225: the level bridges, towards a herd that takes messages. -/
def Claims.LevelBridges : Prop :=
  ∀ (i : Fin 16) (s : State), let h := rd s br_HERD 0 i
    let src := rd s br_SOURCE 0 i
    (rdb s br_MAPPED 0 i = false →
      (∃ t, exec (.levelAssert i) s = .next t ∧ t.regs = s.regs ∧ bit t.pins.dbin i = (true != rdb s br_POL 0 i)) ∧
      ∃ t, exec (.levelNegate i) s = .next t ∧ t.regs = s.regs ∧ bit t.pins.dbin i = (false != rdb s br_POL 0 i)) ∧
    (rdb s br_MAPPED 0 i = true → rdb s br_LEVEL 0 i = false → rdb s br_WAITING 0 i = true →
      ∃ t, exec (.levelAssert i) s = .next t ∧ rd t br_LEVEL 0 i = 1 ∧ ∀ h x, srcBit t hd_PEND h x = srcBit s hd_PEND h x) ∧
    (rdb s br_MAPPED 0 i = true → rdb s br_LEVEL 0 i = false → rdb s br_WAITING 0 i = false → herdHeld s h = false →
      rdb s pd_DSTAT_TRIMFAIL (herdDom h) = false →
      ∃ t, exec (.levelAssert i) s = .next t ∧ rd t br_LEVEL 0 i = 1 ∧ rd t br_WAITING 0 i = 1 ∧ srcBit t hd_PEND h src = true ∧
        rd t hd_ARRC h (src / 8) = (rd s hd_ARRC h (src / 8) + 1) % 256) ∧
    (rdb s br_MAPPED 0 i = true → rdb s br_LEVEL 0 i = true → ∃ t, exec (.levelNegate i) s = .next t ∧ rd t br_LEVEL 0 i = 0 ∧
      rd t br_WAITING 0 i = rd s br_WAITING 0 i ∧ ∀ h x, srcBit t hd_PEND h x = srcBit s hd_PEND h x) ∧
    (s.pow.deep = false → ∃ t, exec (.rearm i) s = .next t ∧ rd t br_LEVEL 0 i = rd s br_LEVEL 0 i ∧
      (rdb s br_LEVEL 0 i = false → rd t br_WAITING 0 i = 0 ∧ ∀ h x, srcBit t hd_PEND h x = srcBit s hd_PEND h x) ∧
      (rdb s br_LEVEL 0 i = true → herdHeld s h = false → rdb s pd_DSTAT_TRIMFAIL (herdDom h) = false →
        rd t br_WAITING 0 i = 1 ∧ srcBit t hd_PEND h src = true))

/-- What a full write leaves, and what a read gives by its decode. -/
def Obligations.WordsWrittenAndRead : Prop := Claims.FullWriteLeavesCleanWord ∧ Claims.ReadByDecode

/-- Merge buffers, corrections in place, and the memory-integrity commands. -/
def Obligations.MergesAndCorrections : Prop := Claims.MergeCommits ∧ Claims.CorrectInPlace ∧ Claims.IntegrityCommands

/-- Writes to the doorbell controller, and the level bridges. -/
def Obligations.DoorbellsAndBridges : Prop := Claims.DoorbellWrites ∧ Claims.LevelBridges

/-! ### Queues -/

/-- The buffer of endpoint e can be read and written: no flip-mask is armed, no merge entry waits, no word of it is uncorrectable. -/
def Claims.bufOk (s : State) (e : EpId) : Prop :=
  s.flip = none ∧ s.merges = [] ∧ s.memOk ∧ ∀ o, (decodeAt s (bufLoc e o)).bad = false

/-- The bytes at offsets o, o + 1, … of the buffer of endpoint e, which has 256, read as bs (R210). -/
def Claims.bufHas (s : State) (e : EpId) (o : Nat) (bs : List Byte) : Prop := ∀ i, i < bs.length →
  (memRead s (queueBufBase + e.val * 0x400 + (o + i) % 256) 1 (queueRq e)).1 = some [bs.getD i 0]

/-- No byte of memory outside the buffer of endpoint e differs. -/
def Claims.memBut (s t : State) (e : EpId) : Prop := ∀ a, a < queueBufBase + e.val * 0x400 ∨ queueBufBase + e.val * 0x400 + 0x400 ≤ a →
  memGet t.mem a = memGet s.mem a

/-- The tail buffer of p agrees with itself: no zero bytes wait, the clause in front has bytes there, and what is missing belongs to the
last clause. -/
def Claims.tailOk (p : Machine.Prod) : Prop :=
  p.padn = 0 ∧ (∀ c rest, p.cls = c :: rest → p.out < 4 + c.1) ∧ (0 < p.rem → ∃ c, p.cls.getLast? = some c ∧ p.rem ≤ c.1)

/-- R187, R191, R192, R202: a PUSH store of the owner to an open producer with nothing waiting. Payload bytes enter the tail buffer; a header
reserves its storage size, gets SEQ and opens a clause; one with a bad LEN puts the endpoint into the bad-length state; where storage is short the
store waits and asks. In the bad-length state the bytes are discarded; a shut herd keeps the store waiting; another agent's store is refused
as a reserved address, and a store to a port of the other role is ignored. -/
def Claims.pushStores : Prop :=
  ∀ (ag : Agent) (e : EpId) (off : Fin 8) (sz : Size) (v : BitVec 64) (s : State),
    let p := prodOf s e
    let x := v.toNat % 256 ^ sz.bytes
    let size := sizeOfLen (v.toNat % 2048)
    (portRight s e ag = .noQueue → exec (.push ag e off sz v) s = .next { s with reply := .reserved }) ∧
    (portRight s e ag = .notOwner → ∃ t, exec (.push ag e off sz v) s = .next t ∧ t.reply = .reserved ∧
      rd t qx_EPFAULT_NOTOWNER e = 1 ∧ prodOf t e = p ∧ t.mem = s.mem) ∧
    (portRight s e ag = .ok → role s e ≠ 1 → exec (.push ag e off sz v) s = .next { s with reply := .done }) ∧
    (portRight s e ag = .ok → role s e = 1 → epOpen s e = false → ∃ t q, exec (.push ag e off sz v) s = .next t ∧ t.reply = .waits ∧
      t.held = s.held ++ [q] ∧ q.ag = ag ∧ q.wr = some v.toNat ∧ prodOf t e = p ∧ t.mem = s.mem) ∧
    (portRight s e ag = .ok → role s e = 1 → epOpen s e = true → p.bad = true → ∃ t, exec (.push ag e off sz v) s = .next t ∧
      t.reply = .done ∧ prodOf t e = p ∧ t.mem = s.mem) ∧
    (portRight s e ag = .ok → role s e = 1 → epOpen s e = true → p.waitq = [] → p.bad = false → p.lockedOut ag = false →
      (sz.bytes ≤ p.rem → p.hdr = [] → p.used + sz.bytes ≤ 256 → Claims.tailOk p → ∃ t, exec (.push ag e off sz v) s = .next t ∧
        t.reply = .done ∧ (prodOf t e).rem = p.rem - sz.bytes ∧ (prodOf t e).pfree = p.pfree ∧ (prodOf t e).cls = p.cls ∧
        Claims.memBut s t e ∧ (Claims.bufOk s e → Claims.bufHas t e p.endPos (bytesLE sz.bytes x) ∧ t.kids = s.kids)) ∧
      (sz = .b4 → p.rem = 0 → p.hdr = [] → p.used + 4 ≤ 256 → Claims.tailOk p →
        (v.toNat % 2048 ≤ 1024 → size ≤ p.pfree → ∃ t, exec (.push ag e off sz v) s = .next t ∧ t.reply = .done ∧
          (prodOf t e).rem = v.toNat % 2048 ∧ (prodOf t e).pfree = p.pfree - size ∧
          (prodOf t e).cls = p.cls ++ [(v.toNat % 2048, false)] ∧
          (prodOf t e).seq = p.seq + 1 ∧ rd t qx_CLAUSES e = (rd s qx_CLAUSES e + 1) % 2 ^ 32 ∧ Claims.memBut s t e ∧
          (Claims.bufOk s e → Claims.bufHas t e p.endPos (bytesLE 3 x ++ [p.seq]) ∧ t.kids = s.kids)) ∧
        (v.toNat % 2048 ≤ 1024 → p.pfree < size → ∃ t, exec (.push ag e off sz v) s = .next t ∧ t.reply = .waits ∧
          prodOf t e = { p with waitq := [⟨ag, 4, x, .none, true⟩], asked := true } ∧ t.mem = s.mem) ∧
        (1024 < v.toNat % 2048 → ∃ t, exec (.push ag e off sz v) s = .next t ∧ t.reply = .done ∧ (prodOf t e).bad = true ∧
          rd t qx_EPFAULT_BADLEN e = 1 ∧ (prodOf t e).cls = p.cls ∧ (prodOf t e).pfree = p.pfree ∧ t.mem = s.mem)))

/-- The same stores wait, in the same order; one may have found storage short since. -/
def Claims.sameStores (l r : List PushReq) : Prop := l.map (fun q => (q.ag, q.n, q.v, q.ret)) = r.map (fun q => (q.ag, q.n, q.v, q.ret))

/-- R191, R192: RESERVATION completes the oldest store that waits once it can complete. -/
def Claims.reservationCompletes : Prop :=
  ∀ (e : EpId) (s : State) (r : PushReq) (rest : List PushReq) (p : Machine.Prod) (o : Nat) (bad : Bool) (puts : List (Nat × Byte)),
    role s e = 1 → epOpen s e = true → (prodOf s e).waitq = r :: rest → tryPush s e r.ag (bytesLE r.n r.v) = .done p o bad puts →
    let took (t : State) : Prop := Claims.sameStores (prodOf t e).waitq rest ∧ (prodOf t e).cls = p.cls ∧ (prodOf t e).rem = p.rem ∧
      (prodOf t e).pfree = p.pfree ∧ (prodOf t e).seq = p.seq
    (r.ret = .none → ∃ t, exec (.reservation e) s = .next t ∧ t.reply = .done ∧ took t ∧ (s.merges = [] → t.kids = s.kids)) ∧
    (∀ (k : KidId) v n a, r.ret = .kid k → (kidOf s k).wait = some (.store v n a) → kidQuiet (kidOf s k) →
      ∃ t, exec (.reservation e) s = .next t ∧ took t ∧ (kidOf t k).wait = none ∧ (kidOf t k).pc = (kidOf s k).pc + 1) ∧
    (∀ (f : FawnId) v n a, r.ret = .fawn f → (fawnOf s f).wait = some (.store v n a) → a ≠ 0x3800 →
      ∃ t, exec (.reservation e) s = .next t ∧ took t ∧ (fawnOf t f).wait = none ∧ (fawnOf t f).pc = (fawnOf s f).pc + 1)

/-- R187, R191, R192, R202: PUSH and RESERVATION. -/
def Obligations.PushStoresComplete : Prop := Claims.pushStores ∧ Claims.reservationCompletes

/-- R183, R195, R198, R210: ROUTE_BYTES takes the bytes out of the tail buffer, for another node as a CLAUSE message. Payload bytes that the
head buffer has a word for enter it, and the four bytes of a header open a clause at the consumer. -/
def Claims.routeMovesBytes : Prop :=
  ∀ (e d : EpId) (n : Nat) (s : State) (c : Nat × Bool) (rest : List (Nat × Bool)) (bs : List Byte), let p := prodOf s e
    let q := consOf s d
    role s e = 1 → herdHeld s (e.val / 64) = false → 0 < n → n ≤ p.count → Claims.tailOk p → p.cls = c :: rest → p.out + n ≤ 4 + c.1 →
    peerEp s e = d → d ≠ e →
    let left (t : State) : Prop := (prodOf t e).cls = (p.routed n).cls ∧ (prodOf t e).base = (p.routed n).base ∧
      (prodOf t e).out = (p.routed n).out ∧ (prodOf t e).pfree = p.pfree
    (peerHere s e = false → rd s hf_HSTAT_FENCE (e.val / 64) = 0 → ∃ t, exec (.routeBytes e n) s = .next t ∧ left t ∧ t.cons = s.cons) ∧
    (peerHere s e = true → epOpen s d = true → ∃ t, exec (.routeBytes e n) s = .next t ∧ left t ∧
      (Claims.bufOk s e → Claims.bufOk s d → Claims.bufHas s e (p.base + p.out) bs → bs.length = n → q.drop = 0 →
        (∀ l w, q.arriving = some l → l.arr + n < l.len → q.slotOf q.apos = some w → q.apos % 8 + n < 8 → p.out + n < 4 + c.1 →
          (consOf t d).apos = q.apos + n ∧ (consOf t d).hbEnd = q.apos + n ∧ (consOf t d).arriving = some { l with arr := l.arr + n } ∧
          Claims.bufHas t d (w.slot * 8 + q.apos % 8) bs) ∧
        (q.arriving = none → q.ahdr = [] → p.out = 0 → n = 4 → lenOf (ofBytesLE bs) ≤ 1024 → q.apos % 8 = 0 → q.hbEnd = q.apos →
          (∀ w, w ∈ q.slots → w.q8 * 8 < q.apos) → ∀ i, q.freeSlot = some i →
          (consOf t d).cls = q.cls ++ [⟨ofBytesLE bs, q.apos, 0, false, false, false, s.tb.count⟩] ∧ (consOf t d).ahdr = [] ∧
          (0 < lenOf (ofBytesLE bs) → Claims.bufHas t d (i * 8) bs))))

/-- R198: REFILL brings whole words of the ring back to the head buffer, in their order. -/
def Claims.refillMovesBytes : Prop :=
  ∀ (e : EpId) (s : State), let c := consOf s e
    let k := refillWords c
    role s e = 2 → epOpen s e = true → 0 < k → pstate s (hbmDom (ringAddr s e 0 / 0x4_0000_0000)) = 0 → 3 ≤ rd s qx_RINGLOG2 e →
    rd s qx_RINGBASE e * 0x1000 + 2 ^ rd s qx_RINGLOG2 e ≤ 0x10_0000_0000 → c.hbEnd % 8 = 0 →
    ∃ t, exec (.refill e) s = .next t ∧ (consOf t e).hbEnd = c.hbEnd + 8 * k ∧ (consOf t e).apos = c.apos ∧ Claims.memBut s t e ∧
      ((∀ i w, i < 8 * k → locOf (ringAddr s e (c.hbEnd + i)) = some w → decodeAt s w = .clean) → s.merges = [] → s.flip = none → s.memOk →
        (∀ w, w ∈ c.slots → w.q8 * 8 < c.hbEnd ∧ w.slot < 32) →
        ∀ i o, i < 8 * k → (consOf t e).bufOff (c.hbEnd + i) = some o →
          Claims.bufHas t e o [memGet s.mem (ringAddr s e (c.hbEnd + i))])

/-- R183, R195, R198, R210: the route and the refill. -/
def Obligations.RouteAndRefillMoveBytes : Prop := Claims.routeMovesBytes ∧ Claims.refillMovesBytes

/-- R193 to R195: what the words of a consumer port read as, with a deliverable head clause and without one. -/
def Claims.portWords : Prop :=
  ∀ (e : EpId) (s : State), role s e = 2 → let c := consOf s e
    let at_ (o : Nat) : Nat := queueBufBase + e.val * 0x400 + o
    (∀ h rest, c.cls = h :: rest → c.broken = false → deliverable s e = true →
      (∀ o bs, c.bufOff h.pos = some o → o % 4 = 0 → h.pos % 4 = 0 → o < 256 → (memRead s (at_ o) 4 (queueRq e)).1 = some bs →
        (portRead s e 0 4).1 = .data (ofBytesLE bs)) ∧
      (∀ x, x < 64 → h.len ≤ c.pos + x → (portRead s e (0x40 + x) 1).1 = .data 0) ∧
      ∀ x o b, x < 64 → c.pos + x < h.len → c.bufOff (h.pos + 4 + c.pos + x) = some o → o < 256 →
        (memRead s (at_ o) 1 (queueRq e)).1 = some [b] → (portRead s e (0x40 + x) 1).1 = .data b.toNat) ∧
    (c.broken = false → deliverable s e = false →
      (portRead s e 0 4).1 = .waits ∧ ∀ x, x < 64 → (portRead s e (0x40 + x) 1).1 = .waits) ∧
    (c.broken = true → (portRead s e 0 4).1 = .data 0xFFFF_FFFF ∧ ∀ x, x < 64 → (portRead s e (0x40 + x) 1).1 = .data 0)

/-- R195: HDR and WIN complete the read that a quiet kid or a fawn waits on, once it has its value. -/
def Claims.waitingReads : Prop :=
  (∀ (k : KidId) (s : State) d a e o n v, (kidOf s k).wait = some (.load d a) → waitingRead s (.kid k) = some (e, o, n) →
    (portRead s e o n).1 = .data v → role s e = 2 → herdHeld s (e / 64) = false → kidQuiet (kidOf s k) →
    ∀ c, (c = Instr.hdr (.kid k) ∧ o < 4) ∨ (c = Instr.win (.kid k) ∧ 0x40 ≤ o) →
      ∃ t, exec c s = .next t ∧ kregs t k = Regs.load (kregs s k) d v ∧ (kidOf t k).wait = none ∧
        (kidOf t k).pc = (kidOf s k).pc + 1 ∧ t.mem = s.mem ∧ ∀ j, j ≠ k.val → kidOf t j = kidOf s j) ∧
  ∀ (f : FawnId) (s : State) d a e o n v, (fawnOf s f).wait = some (.load d a) → waitingRead s (.fawn f) = some (e, o, n) →
    (portRead s e o n).1 = .data v → role s e = 2 → herdHeld s (e / 64) = false →
    ∀ c, (c = Instr.hdr (.fawn f) ∧ o < 4) ∨ (c = Instr.win (.fawn f) ∧ 0x40 ≤ o) →
      ∃ t, exec c s = .next t ∧ fregs t f = Regs.load (fregs s f) d v ∧ (fawnOf t f).wait = none ∧
        (fawnOf t f).pc = (fawnOf s f).pc + 1 ∧ t.mem = s.mem ∧ t.kids = s.kids

/-- R193 to R195: the reads of a consumer port. -/
def Claims.ConsumerPortReads : Prop := Claims.portWords ∧ Claims.waitingReads

/-- R193, R197, R201, R202: the commands of a consumer port; an endpoint of another role answers them as a reserved address. -/
def Claims.ConsumerCommands : Prop :=
  ∀ (e : EpId) (s : State), let c := consOf s e
    (role s e ≠ 2 → (∀ v, exec (.skip e v) s = .next { s with reply := .reserved }) ∧
      ∀ i ∈ [Instr.done e, .mark e, .markclr e, .rewind e], exec i s = .next { s with reply := .reserved }) ∧
    (role s e = 2 → blockOpen s (herdDom (e.val / 64)) (s.rst.herds.contains (e.val / 64)) →
      (∀ v : BitVec 11, ∃ t, exec (.skip e v) s = .next t ∧ t.mem = s.mem ∧ t.regs = s.regs ∧
        (∀ h rest, c.cls = h :: rest → deliverable s e = true → c.broken = false →
          (consOf t e).pos = min (c.pos + v.toNat) h.len ∧ (consOf t e).cls = c.cls) ∧
        (deliverable s e = false ∨ c.broken = true → consOf t e = c)) ∧
      (∃ t, exec (.done e) s = .next t ∧ t.mem = s.mem ∧
        (c.broken = true → consOf t e = c) ∧
        (c.broken = false → deliverable s e = false → rd t qx_EPFAULT_EMPTYDONE e = 1 ∧ (consOf t e).cls = c.cls) ∧
        (∀ h rest, c.cls = h :: rest → c.broken = false → deliverable s e = true →
          (consOf t e).cls = rest ∧ (consOf t e).pos = 0 ∧ rd t qx_CLAUSES e = (rd s qx_CLAUSES e + 1) % 2 ^ 32 ∧
          (c.mark = true → c.demand = none ∨ rdb s qx_MPOL e = false → (consOf t e).held = c.held ++ [h] ∧ (consOf t e).ret = c.ret ∧
            (consOf t e).mark = true) ∧
          (c.mark = true → c.demand.isSome = true → rdb s qx_MPOL e = true → (consOf t e).held = [] ∧ (consOf t e).mark = false ∧
            (consOf t e).lost = true ∧ (consOf t e).ret = c.ret ++ [c.heldSize + h.size] ∧ rd t qx_NOTE_LOSTM e = 1) ∧
          (c.mark = false → (consOf t e).held = c.held ∧ (consOf t e).ret = c.ret ++ [h.size] ∧ (consOf t e).demand = none))) ∧
      (∃ t, exec (.mark e) s = .next t ∧ (consOf t e).mark = true ∧ (consOf t e).lost = false ∧ (consOf t e).rwfail = false ∧
        (consOf t e).held = [] ∧ (consOf t e).cls.map (fun l => (l.hdr, l.pos, l.arr)) = c.cls.map (fun l => (l.hdr, l.pos, l.arr)) ∧
        (∀ w, w ∈ (consOf t e).slots → w.q8 * 8 + 8 ≤ (consOf t e).hbEnd → w.ring = true) ∧
        (consOf t e).ret = c.ret ++ (if c.heldSize = 0 then [] else [c.heldSize])) ∧
      (∃ t, exec (.markclr e) s = .next t ∧ (consOf t e).mark = false ∧ (consOf t e).held = [] ∧ (consOf t e).cls = c.cls ∧
        (consOf t e).ret = c.ret ++ (if c.heldSize = 0 then [] else [c.heldSize]) ∧ t.mem = s.mem) ∧
      (∃ t, exec (.rewind e) s = .next t ∧ t.mem = s.mem ∧ (c.broken = true → consOf t e = c) ∧
        (c.broken = false → c.mark = true → (consOf t e).cls = c.held ++ c.cls ∧ (consOf t e).rwfail = false ∧
          (∀ h l, c.held ++ c.cls = h :: l → (consOf t e).pos = 0 ∧ (consOf t e).held = [] ∧ (consOf t e).hbEnd = h.pos)) ∧
        (c.broken = false → c.mark = false → consOf t e = { c with rwfail := true })))

/-- R200, R202, R204, R207 to R209: demands and storage returns on this node, the control bits of an endpoint, and the stall notices. -/
def Obligations.QueueUpkeep : Prop :=
  ∀ (e : EpId) (s : State), let c := consOf s e
    (role s e = 2 → peerHere s e = true → epOpen s e = true → (prodOf s (peerEp s e)).asked = true →
      ∃ t, exec (.demand e) s = .next t ∧ (prodOf t (peerEp s e)).asked = false ∧
        (c.heldSize = 0 ∨ rdb s qx_MPOL e = false → (consOf t e).demand.isSome = true ∧ (consOf t e).held = c.held) ∧
        (0 < c.heldSize → rdb s qx_MPOL e = true → (consOf t e).held = [] ∧ (consOf t e).mark = false ∧ (consOf t e).lost = true ∧
          (consOf t e).ret = c.ret ++ [c.heldSize] ∧ rd t qx_NOTE_LOSTM e = 1)) ∧
    (∀ n rest, role s e = 1 → peerHere s e = true → epOpen s e = true → (consOf s (peerEp s e)).ret = n :: rest →
      ∃ t, exec (.storageReturn e) s = .next t ∧ (prodOf t e).pfree = (prodOf s e).pfree + n ∧ (consOf t (peerEp s e)).ret = rest ∧
        t.mem = s.mem ∧ ((prodOf s e).waitq = [] → t.regs = s.regs)) ∧
    (blockOpen s (herdDom (e.val / 64)) (s.rst.herds.contains (e.val / 64)) →
      (∃ t, exec (.qreset e) s = .next t ∧ t.mem = s.mem ∧ (role s e = 1 → rd t qx_EPFAULT_RSVW e = 1 ∧ consOf t e = c) ∧
        (role s e ≠ 1 → (consOf t e).cls = [] ∧ (consOf t e).held = [] ∧ (consOf t e).pos = 0 ∧ (consOf t e).mark = false ∧
          (consOf t e).broken = false ∧ t.regs = s.regs ∧
          (c.arriving = none → (consOf t e).ret = c.ret ++ (if c.level = 0 then [] else [c.level])))) ∧
      (∃ t, exec (.resync e) s = .next t ∧ t.mem = s.mem ∧ (role s e = 2 → rd t qx_EPFAULT_RSVW e = 1 ∧ prodOf t e = prodOf s e) ∧
        (role s e ≠ 2 → prodOf t e = { prodOf s e with bad := false } ∧ t.regs = s.regs)) ∧
      (∃ t, exec (.clrpeak e) s = .next t ∧ t.mem = s.mem ∧ t.cons = s.cons ∧ (role s e = 1 → rd t qx_EPFAULT_RSVW e = 1) ∧
        (role s e ≠ 1 → c.level < 2 ^ 27 → rd t qx_PEAK e = c.level))) ∧
    (∀ at_, role s e = 2 → rd s qx_STALLTO e ≠ 0 → c.demand = some at_ →
      (at_.toNat + rd s qx_STALLTO e * 8000 ≤ now s → ∃ t, exec (.stall e) s = .next t ∧ rd t qx_NOTE_STALL e = 1 ∧
        t.cons = s.cons ∧ t.prods = s.prods ∧ t.mem = s.mem) ∧
      (now s + 8000 < at_.toNat + rd s qx_STALLTO e * 8000 → exec (.stall e) s = .next s)) ∧
    (∀ l rest, role s e = 2 → c.cls = l :: rest → readStalls s e l.at_.toNat = true → ∃ t, exec (.openstall e) s = .next t ∧
      rd t qx_NOTE_OPENSTALL e = 1 ∧ t.cons = s.cons ∧ t.prods = s.prods ∧ t.mem = s.mem)

/-- What a consumer port gives, and what its commands do. -/
def Obligations.ConsumerPorts : Prop := Claims.ConsumerPortReads ∧ Claims.ConsumerCommands

/-! ### Oryx -/

/-- Command i is the row that a descriptor's OP, N1 and N2 name (R239). -/
def Claims.isRowOf (d : Desc) (h : HerdId) (i : Instr) : Prop := i =
  if d.op = 1 then .oryxNop h else if d.op = 2 then .seg h else if d.op = 3 then .xf2 h else if d.op = 4 then .xf3 h
  else if d.op = 5 then .ss h else if d.op = 6 then .pid h
  else if d.op = 7 then (if d.n1 = 1 then .cordicAtan2 h else .cordicCosSin h)
  else if d.op = 8 then .matmul h else if d.op = 9 then .interp h
  else if d.op = 0x0A then
    (if d.n2 = 1 then .vecSub h else if d.n2 = 2 then .vecMul h else if d.n2 = 3 then .axpy h else if d.n2 = 4 then .dot h else .vecAdd h)
  else if d.op = 0x0B then .put h else if d.op = 0x0C then .get h else .errorCompletion h

/-- The words of a slot's status after a completion. -/
def Claims.slotStatus (t : State) (h : HerdId) (d : Desc) (err tag : Nat) (fl : Flags) : Prop :=
  let i := h.val * 64 + d.slot
  rd t ox_STAT_ERR i = err ∧ rd t ox_STAT_TAG i = tag ∧ rd t ox_STAT_VALID i = 1 ∧ rd t ox_STAT_SATF i = b2n fl.satf ∧
    rd t ox_STAT_INV i = b2n fl.inv ∧ rd t ox_STAT_OVF i = b2n fl.ovf ∧ rd t ox_STAT_DOM i = b2n fl.dom ∧
    rd t ox_STAT_RNG i = b2n fl.rng ∧ rd t ox_STAT_AWU i = b2n fl.awu

/-- No read of WAIT waits for the slot of descriptor d, and it pushes no clause. -/
def Claims.plainEnd (s : State) (h : HerdId) (d : Desc) : Prop :=
  s.held.all (fun q => waitSlot q != some (h.val * 64 + d.slot)) = true ∧ d.dest ≠ 2

/-- R233, R235, R243, R246: the descriptor at the head of the FIFO completes by the row that its OP names: it leaves the FIFO, and its slot shows
TAG, VALID, one more completion, and the error of the start check or UECC where there is one. -/
def Claims.OryxDescriptorsEnd : Prop :=
  ∀ (h : HerdId) (s : State) (d : Desc) (rest : List Desc), (oryxOf s h).fifo = d :: rest → herdHeld s h = false → d.ueD = false →
    pushReady s h d (clauseLen s h d) = true →
    let i := h.val * 64 + d.slot
    ∀ c, Claims.isRowOf d h c → ∃ t, exec c s = .next t ∧ (oryxOf t h).fifo = rest ∧ rd t ox_DONES i = (rd s ox_DONES i + 1) % 2 ^ 16 ∧
      rd t ox_STAT_TAG i = d.tag ∧ rd t ox_STAT_VALID i = 1 ∧
      (startCheck s h d ≠ 0 → Claims.slotStatus t h d (startCheck s h d) d.tag {} ∧ (Claims.plainEnd s h d → t.mem = s.mem) ∧
        rd t ox_ERRS i = min 255 (rd s ox_ERRS i + 1)) ∧
      (startCheck s h d = 0 → d.ueO = true → Claims.slotStatus t h d 8 d.tag {} ∧ rd t ox_OXFAULT_UECC (h.val * 64) = 1 ∧
        (Claims.plainEnd s h d → t.mem = s.mem)) ∧
      (startCheck s h d = 0 → d.ueO = false → (compute s h d).1 = none → Claims.slotStatus t h d 8 d.tag {}) ∧
      (startCheck s h d = 0 → d.ueO = false → ∀ fl res back, (compute s h d).1 = some (fl, res, back) → Claims.slotStatus t h d 0 d.tag fl)

/-- R246: a captured DESC with an uncorrectable word completes with UECC and TAG 0. -/
def Claims.OryxUnreadableDescriptor : Prop :=
  ∀ (h : HerdId) (s : State) (d : Desc) (rest : List Desc), (oryxOf s h).fifo = d :: rest → herdHeld s h = false → d.ueD = true →
    ∃ t, exec (.errorCompletion h) s = .next t ∧ (oryxOf t h).fifo = rest ∧ Claims.slotStatus t h d 8 0 {} ∧
      rd t ox_OXFAULT_UECC (h.val * 64) = 1 ∧ (s.held.all (fun q => waitSlot q != some (h.val * 64 + d.slot)) = true → t.mem = s.mem)

/-- R242, R243: with DEST 0 the results stand in the slot's OPND, with DEST 1 in coefficient memory at DST, and no other byte changes. -/
def Obligations.OryxResultsStand : Prop :=
  ∀ (h : HerdId) (s s' : State) (d : Desc) (rest : List Desc) (fl : Flags) (res : List Byte),
    (oryxOf s h).fifo = d :: rest → herdHeld s h = false → d.ueD = false → startCheck s h d = 0 → d.ueO = false →
    compute s h d = (some (fl, res, []), s') → s'.flip = none → s'.memOk → s'.merges = [] → d.slot < 64 → res.length % 4 = 0 →
    s.held.all (fun q => waitSlot q != some (h.val * 64 + d.slot)) = true →
    (d.dest = 0 ∧ res.length ≤ 32 ∧ d.op ≠ 0x0B ∨ d.dest = 1 ∧ d.dst + res.length ≤ 0x1000) →
    let a := if d.dest = 0 then slotBase h d.slot + 0x10 else coefBase h + d.dst
    ∀ c, Claims.isRowOf d h c → ∃ t, exec c s = .next t ∧ memGetMany t.mem a res.length = res ∧
      ∀ b, b < a ∨ a + res.length ≤ b → memGet t.mem b = memGet s.mem b

/-- What a Q format returns for the exact scaled value r: the value, or its saturation or wrap with STAT.SATF (R237). -/
def Claims.qOut (fmt : Nat) (sat : Bool) (r : Int) : Nat × Flags :=
  let hi : Int := (2 ^ (fmtSize fmt * 8 - 1) : Nat)
  if -hi ≤ r ∧ r < hi then (twos (fmtSize fmt * 8) r, {})
  else (twos (fmtSize fmt * 8) (if sat then (if r < 0 then -hi else hi - 1) else r), { satf := true })

/-- R237, R240: in a Q format sums, products, multiply-adds, dot products and polynomials are exact and rounded once. -/
def Obligations.QFormatsRoundOnce : Prop :=
  ∀ (fmt rnd : Nat) (sat : Bool), fmt < 4 →
    let F := fmtFrac fmt
    let v := decodeVal fmt
    let n (a : Nat) : Int := sext (fmtSize fmt * 8) a
    let out := encodeVal fmt rnd sat
    (∀ a b, out (Val.add fmt rnd (v a) (v b)) = Claims.qOut fmt sat (n a + n b)) ∧
    (∀ a b, out (Val.sub fmt rnd (v a) (v b)) = Claims.qOut fmt sat (n a - n b)) ∧
    (∀ a b, out (Val.mul fmt rnd (v a) (v b)) = Claims.qOut fmt sat (roundInt rnd (n a * n b) F)) ∧
    (∀ a b c, out (Val.fma fmt rnd (v a) (v b) (v c)) = Claims.qOut fmt sat (roundInt rnd (n a * n b + n c * (2 ^ F : Nat)) F)) ∧
    (∀ (l : Nat) (xs ys : List Nat) (k : Val), out (el (vecCalc fmt rnd 4 l (xs.map v) (ys.map v) k) 0) =
      Claims.qOut fmt sat (roundInt rnd ((List.range l).map (fun i => n (xs.getD i 0) * n (ys.getD i 0))).sum F)) ∧
    (∀ (d : Nat) (cs : List Nat) (t : Nat), out (segVal fmt rnd (cs.map v) d 0 (v t)) =
      Claims.qOut fmt sat (roundInt rnd ((List.range (d + 1)).map
        (fun i => n (cs.getD i 0) * n t ^ i * ((2 ^ (F * (d - i)) : Nat) : Int))).sum (F * d)))

/-- R230 to R233: POST of an agent that reaches the slot is captured where an entry is free and waits where none is; CAPTURE takes the oldest
waiting post; SLOT_WAIT answers a quiet kid's read of WAIT; an agent without the slot is answered as at a reserved address. -/
def Obligations.SlotsPostAndWait : Prop :=
  (∀ (ag : Agent) (h : HerdId) (j : Fin 64) (off : Fin 16) (sz : Size) (v : BitVec 64) (s : State), off.val + sz.bytes = 16 →
    (slotRight s ag h j = false → exec (.post ag h j off sz v) s = .next { s with reply := .reserved }) ∧
    (slotRight s ag h j = true → blockOpen s (herdDom h) (s.rst.herds.contains h.val) →
      ((oryxOf s h).fifo.length < 16 → (oryxOf s h).posts = [] →
        ∃ t d, exec (.post ag h j off sz v) s = .next t ∧ t.reply = .done ∧ (oryxOf t h).fifo = (oryxOf s h).fifo ++ [d] ∧ d.slot = j.val ∧
          (sz = .b4 → s.flip = none → s.memOk → s.merges = [] →
            (∀ w, w < 4 → ∀ l, locOf (slotBase h j + 4 * w) = some l → decodeAt s l = .clean ∨ decodeAt s l = .check) →
            d.d = ofBytesLE (memGetMany s.mem (slotBase h j) 12) + 2 ^ 96 * (v.toNat % 2 ^ 32))) ∧
      (16 ≤ (oryxOf s h).fifo.length → ∃ t, exec (.post ag h j off sz v) s = .next t ∧ t.reply = .waits ∧ t.mem = s.mem ∧
        (oryxOf t h).fifo = (oryxOf s h).fifo ∧
        (oryxOf t h).posts = (oryxOf s h).posts ++ [⟨ag, j, off, sz.bytes, v.toNat % 256 ^ sz.bytes, .none⟩]))) ∧
  (∀ (h : HerdId) (s : State) (r : PostReq) (rest : List PostReq), (oryxOf s h).posts = r :: rest → (oryxOf s h).fifo.length < 16 →
    herdHeld s h = false → ∃ t d, exec (.capture h) s = .next t ∧ (oryxOf t h).posts = rest ∧
      (oryxOf t h).fifo = (oryxOf s h).fifo ++ [d] ∧ d.slot = r.slot) ∧
  (∀ (k : KidId) (s : State) d a n o, let q : BusReq := ⟨.kid k, slotBase (n / 64) (n % 64) + o, d.bytes.length, none, .kid k⟩
    (kidOf s k).wait = some (.load d a) → n < 32768 → o < 0x38 → 0x34 < o + q.n → (q.n = 1 ∨ q.n = 2) → o % q.n = 0 →
    s.held.filter (fun r => waitSlot r == some n) = [q] → s.held.filter (fun r => decide (r.ag = .kid k)) = [q] →
    slotPending s (n / 64) (n % 64) = 0 → slotRight s (.kid k) (n / 64) (n % 64) = true → trimHeld s q = false → mustWait s q = false →
    kidQuiet (kidOf s k) →
    ∃ t, exec (.slotWait (.kid k)) s = .next t ∧ kregs t k = Regs.load (kregs s k) d (regRead s .oryxSlot n o q.n) ∧
      (kidOf t k).wait = none ∧ (kidOf t k).pc = (kidOf s k).pc + 1 ∧
      fetchFrame { s with held := s.held.filter (fun r => waitSlot r != some n) } t k) ∧
  ∀ (f : FawnId) (s : State), (s.held.filter (fun r => decide (r.ag = .fawn f))).findSome? waitSlot = none →
    exec (.slotWait (.fawn f)) s = .next s

/-- How descriptors of the oryx engine end. -/
def Obligations.OryxDescriptors : Prop := Claims.OryxDescriptorsEnd ∧ Claims.OryxUnreadableDescriptor

/-! ### Axis ports -/

/-- R271 to R273, R278, R281, R300, R437: what moves a port from state to state; leaving RUN drops ENA_p. -/
def Obligations.PortStates : Prop :=
  ∀ (p : PortId) (s : State),
    (blockOpen s (edgeDom (p.val / 16)) false →
      (∃ t, exec (.pctlStart p) s = .next t ∧
        (portFenced s p = true → t = { s with reply := .done }) ∧
        (portFenced s p = false → portState s p = 0 ∨ portState s p = 5 → portState t p = 1) ∧
        (portFenced s p = false → portState s p ≠ 0 → portState s p ≠ 5 → portState t p = portState s p ∧ rd t ax_PFAULT_CTLREF p = 1)) ∧
      (∃ t, exec (.pctlStop p) s = .next t ∧ portState t p = 0 ∧ (portState s p = 4 → bit (rd t gg_ENAST) p = false) ∧
        (portOf t p).frame = none ∧ (portOf t p).svc = none) ∧
      (∃ t, exec (.pctlRun p) s = .next t ∧
        (portState s p = 3 → (portOf s p).seqDone = true → portState t p = 4) ∧
        (portState s p = 3 → (portOf s p).seqDone = false → portState t p = 3 ∧ (portOf t p).runHeld = true) ∧
        (portState s p ≠ 3 → portState t p = portState s p ∧ rd t ax_PFAULT_CTLREF p = 1)) ∧
      ∃ t, exec (.pctlFawnrun p) s = .next t ∧ portState t p = portState s p ∧
        ((fawnOf s (2 * p.val)).st = .stopped → (fawnOf t (2 * p.val)).st = .running ∧ (fawnOf t (2 * p.val)).pc = 0 ∧
          rd t ax_PFAWN_RXCAUSE p = 0) ∧
        ((fawnOf s (2 * p.val + 1)).st = .stopped → (fawnOf t (2 * p.val + 1)).st = .running ∧
          (fawnOf t (2 * p.val + 1)).pc = 0 ∧ rd t ax_PFAWN_TXCAUSE p = 0) ∧
        ((fawnOf s (2 * p.val)).st ≠ .stopped → fawnOf t (2 * p.val) = fawnOf s (2 * p.val))) ∧
    (portUp s p = true →
      (portState s p = 1 →
        (∀ line, (alignHeld line = true → ∃ t, exec (.align p line) s = .next t ∧ portState t p = 2 ∧ (portOf t p).out = enumFrame 0 ∧
            t.mem = s.mem) ∧
          (alignHeld line = false → exec (.align p line) s = .next s)) ∧
        ∃ t, exec (.alignTimeout p) s = .next t ∧ portState t p = 5 ∧ rd t ax_PFAULT_CHAINBRK p = 1 ∧ t.mem = s.mem) ∧
      (portState s p = 2 →
        (∀ (line : List (BitVec 10)) (rtt : BitVec 32) bs cut, receiveFrame line = some (bs, cut) →
          let good := crcGood bs cut = true ∧ bs.length = 4 ∧ frameType bs = 4
          let tail := bits (bs.headD 0).toNat 7 4
          ∃ t, exec (.enumr p line rtt) s = .next t ∧
            (good → rd t ax_CHIPS p = tail + 1 ∧ rd t ax_RTT p = rtt.toNat ∧
              (tail + 1 = rd s ax_PCFG_EXPCHIPS p → portState t p = 3 ∧ rd t ax_PSAMP p = twos 16 (rtt.toNat / 2 - 400)) ∧
              (tail + 1 ≠ rd s ax_PCFG_EXPCHIPS p → portState t p = 5 ∧ rd t ax_PFAULT_CHIPMIS p = 1)) ∧
            (¬ good → portState t p = 2 ∧ rd t ax_CRCERR p = (rd s ax_CRCERR p + 1) % 2 ^ 32 ∧ rd t ax_CHIPS p = rd s ax_CHIPS p)) ∧
        ∃ t, exec (.enumrTimeout p) s = .next t ∧ portState t p = 5 ∧ rd t ax_PFAULT_CHAINBRK p = 1) ∧
      (portState s p = 3 → (portOf s p).seqDone = false → ∀ ans : List ChipAns,
        ∃ t, exec (.configSequence p ans) s = .next t ∧
          let good := ans.length = rd s ax_CHIPS p ∧ ∀ k, k < ans.length → ansOk s p k (ans.getD k .timeout) = true
          (good → (portOf t p).seqDone = true ∧ portState t p = (if (portOf s p).runHeld then 4 else 3) ∧
            (portOf t p).conf = ((List.range ans.length).map (confWrites s p ans.length)).flatten) ∧
          (¬ good → portState t p = 5 ∧ rd t ax_PFAULT_CHIPMIS p = 1)) ∧
      (portLive s p = true → ∀ line, alignLost line = true → ∃ t, exec (.alignloss p line) s = .next t ∧ portState t p = 5 ∧ rd t ax_PFAULT_ALIGN p = 1 ∧
        rd t ax_ALIGNLOSS p = (rd s ax_ALIGNLOSS p + 1) % 2 ^ 32 ∧ (portState s p = 4 → bit (rd t gg_ENAST) p = false)))

/-- R255, R257, R265, R266, R271, R274, R281, R295: SYNC begins a cycle at the next t_n; CMD opens the frame of the cycle once it is due, with its
header; the line sends a complete position and ends the frame with ABORT where one is not; FETCH_POINT takes the substitute where no command
is released; FB takes a feedback frame as received; the symbols of a frame read as they were sent (assumption 74). -/
def Obligations.PortCycles : Prop :=
  ∀ (p : PortId) (s : State), portUp s p = true →
    (portLive s p = true →
      (BitVec.ofNat 64 (cycleStart s p) ≠ (portOf s p).cyct → ∃ t, exec (.sync p) s = .next t ∧
        rd t ax_CYCLES p = (rd s ax_CYCLES p + 1) % 2 ^ 32 ∧ (portOf t p).cyc = (portOf s p).cyc + 1 ∧ (portOf t p).opened = false ∧
        (portOf t p).cyct = BitVec.ofNat 64 (cycleStart s p) ∧ t.mem = s.mem ∧
        rd t ax_FBMISS p = (if fbMissing s p ((portOf s p).cyc + 1) then (rd s ax_FBMISS p + 1) % 2 ^ 32 else rd s ax_FBMISS p)) ∧
      (BitVec.ofNat 64 (cycleStart s p) = (portOf s p).cyct → exec (.sync p) s = .next s)) ∧
    (cmdDue s p = true → portState s p = 3 ∨ (portState s p = 4 ∧ (fawnOf s (2 * p.val + 1)).st = .running) →
      ∃ t f, exec (.cmd p) s = .next t ∧ (portOf t p).opened = true ∧ (portOf t p).frame = some f ∧ (portOf t p).gone = (portOf s p).pre ∧
        f.target = (portOf s p).cyc + rd s ax_PCFG_CMDLEAD p ∧ f.bytes = cmdHeader (rd s ax_PCFG_LEAD p) f.target ∧ f.sent = 0 ∧
        f.own = decide (portState s p = 3) ∧ f.st = .going ∧ t.mem = s.mem ∧ t.regs = s.regs) ∧
    (∀ f, (portOf s p).frame = some f → f.st = .going → f.own = false → let t := sendPosition s p f
      (posComplete (portOf s p) f.sent = false → (portOf t p).txUnder = true ∧ rd t ax_UNDERRUN p = (rd s ax_UNDERRUN p + 1) % 2 ^ 32 ∧
        (portOf t p).frame = some { f with st := .aborted } ∧ (portOf t p).out = f.bytes ∧ (portOf t p).cut = true) ∧
      ∀ bs, posComplete (portOf s p) f.sent = true → (memRead s (txAddr p f.sent) 8 ⟨10, p⟩).1 = some bs →
        ∃ g, (portOf t p).frame = some g ∧ g.bytes = f.bytes ++ bs ∧ g.sent = f.sent + 1 ∧ g.st = .going ∧ sameMem s t) ∧
    (∀ i : Fin 16, fetchDue s p i = true → let a := p.val * 16 + slotAt s p i
      (∀ c, (axisOf s a).rel = some c → ∃ t, exec (.fetchPoint p i) s = .next t ∧ axisOf t a = axisOf s a ∧
        rd t gg_SUBS = rd s gg_SUBS) ∧
      ((axisOf s a).rel = none → ∃ t v, exec (.fetchPoint p i) s = .next t ∧
        alGet (portOf t p).subs (slotAt s p i) = some (v, 0) ∧ slotSub v = true ∧ rd t gg_SUBS = (rd s gg_SUBS + 1) % 2 ^ 32)) ∧
    (∀ line bs cut, portLive s p = true → receiveFrame line = some (bs, cut) →
      (crcGood bs cut = true → frameType bs = 1 ∨ frameType bs = 3 ∨ frameType bs = 4 → exec (.fb p line) s = .next s) ∧
      (crcGood bs cut = false ∨ (frameType bs ≠ 1 ∧ frameType bs ≠ 3 ∧ frameType bs ≠ 4) → bs.length ≤ 0x8C → s.flip = none → s.memOk →
        s.merges = [] → ∃ t, exec (.fb p line) s = .next t ∧ (portOf t p).rxLen = bs.length ∧
          memGetMany t.mem (ioAddr (0x8000 + p.val * 4) 0) bs.length = bs ∧
          (fbGood s p bs cut = true → (portOf t p).rxStat = 3 ∧ rd t ax_CRCERR p = rd s ax_CRCERR p ∧
            (portOf t p).fbLast = max (portOf s p).fbLast ((portOf s p).cyc - fbBack s p true bs)) ∧
          (fbGood s p bs cut = false → (portOf t p).rxStat = 5 ∧ rd t ax_CRCERR p = (rd s ax_CRCERR p + 1) % 2 ^ 32 ∧
            (portOf t p).fbLast = (portOf s p).fbLast))) ∧
    ∀ pos : Bool, receiveFrame (frameSent pos (portOf s p)) = some ((portOf s p).out, (portOf s p).cut)

/-- R268 to R270, R276, R279: compare units and the service engine. -/
def Obligations.PortEdgesAndService : Prop :=
  ∀ (p : PortId) (s : State),
    (∀ (t : Fin 2) (e : Time), portUp s p = true → firstEdge (unitOf (portOf s p) t).edges = some e →
      (now s < e.toNat → exec (.triggerEdge p t) s = .next s) ∧ (e.toNat ≤ now s →
      ∃ u, exec (.triggerEdge p t) s = .next u ∧ (unitOf (portOf u p) t).edges = (unitOf (portOf s p) t).edges.erase e ∧
        rd u ax_TCNT p t = (rd s ax_TCNT p t + 1) % 2 ^ 32 ∧ rd u ax_TTIME p t = e.toNat ∧
        alGet u.pins.trig (2 * p.val + t) = some (e.toNat + 64 * max (rd s ax_TWIDTH p t) 1) ∧
        (rdb s ax_TLINK p t = true → (camOf s (rd s ax_TCAM p t)).edges.length < 4 →
          (camOf u (rd s ax_TCAM p t)).edges = (camOf s (rd s ax_TCAM p t)).edges ++ [e]))) ∧
    (blockOpen s (edgeDom (p.val / 16)) false →
      (∀ t : Fin 2, ∃ u, exec (.tarm p t) s = .next u ∧ rd u ax_TARMED p t = 1 ∧ (unitOf (portOf u p) t).p0 = none ∧
        (unitOf (portOf u p) t).edges = (unitOf (portOf s p) t).edges ∧ u.mem = s.mem) ∧
      ∃ u, exec (.svcgo p) s = .next u ∧ u.mem = s.mem ∧
        (rdb s ax_SVCBUSY p = true → rd u ax_PFAULT_BUSYGO p = 1 ∧ portOf u p = portOf s p) ∧
        (rdb s ax_SVCBUSY p = false → (portLive s p = false ∨ svcPosition s p = none ∨ rd s ax_SVCREQ_OP p = 0 ∨ rd s ax_SVCREQ_OP p = 3) →
          rd u ax_SVCRES p = 6 ∧ rd u ax_SVCBUSY p = 0) ∧
        (rdb s ax_SVCBUSY p = false → portLive s p = true → svcPosition s p ≠ none → rd s ax_SVCREQ_OP p ≠ 0 → rd s ax_SVCREQ_OP p ≠ 3 →
          rd u ax_SVCBUSY p = 1 ∧ rd u ax_SVCRES p = 0 ∧ (portOf u p).tag = (portOf s p).tag + 1 ∧
          (portOf u p).svc = some ⟨rd s ax_SVCREQ_CHIP p, rd s ax_SVCREQ_OP p, rd s ax_SVCREQ_REG p,
            if rd s ax_SVCREQ_OP p = 1 then 0 else rd s ax_SVCWDATA p, (portOf s p).tag + 1, 0, none⟩))

/-! ### Guard -/

/-- R287 and R291 word for word: command c of axis a passes every check under the limits L. -/
def Claims.withinLimits (s : State) (a : Nat) (c : Cmd) (L : Limits) : Prop :=
  let x := axisOf s a
  let p0 := if slotMode c.slot = 0 then x.p1 else slotPos c.slot
  let v := p0 - x.p1
  let v1 := x.p1 - x.p2
  let v2 := x.p2 - x.p3
  let acc := v - v1
  let jrk := acc - (v1 - v2)
  let dec : Int := max L.dec 1
  let q := iabs v / dec
  let d := q * iabs v - dec * q * (q + 1) / 2
  let stop := if v < 0 then p0 - d else p0 + d
  let out (y : Int) : Int := max (max (L.pmin - y) (y - L.pmax)) 0
  (bits (now s) 39 8 + 2 ^ 32 - c.basis) % 2 ^ 32 ≤ L.stale ∧ (2 ≤ slotMode c.slot → iabs (slotFf c.slot) ≤ L.ffmax) ∧
    iabs v ≤ L.vmax ∧ iabs acc ≤ L.amax ∧ iabs jrk ≤ L.jmax ∧
    (max (out p0) (out stop) ≤ 0 ∨ max (out p0) (out stop) ≤ max (out x.p1) (out x.stopp)) ∧
    ∀ jd ∈ L.dmin, jd.2 ≤ sumOf s jd.1 a p0 stop ∨ sumOf s jd.1 a x.pst x.stopp ≤ sumOf s jd.1 a p0 stop

/-- R284, R287, R288, R292, R294, R311: a check of a live command that meets no armed flip-mask: the command is released if and only if it passes
every check; a refused one counts, and is never released; one whose fetch point has passed is checked again. -/
def Obligations.GuardReleasesOnlyWithinLimits : Prop :=
  ∀ (a : AxisId) (s : State) (k : Chk), (axisOf s a).chk = some k → sliceUp s (axisTile a) = true → s.flip = none → k.dead = false →
    (Claims.withinLimits s a k.cmd k.lim → k.late = false → ∃ t, exec (.check a) s = .next t ∧ (axisOf t a).chk = none ∧
      (∃ c, (axisOf t a).rel = some c ∧ c.slot = k.cmd.slot ∧ c.p0 = cmdTarget s a k.cmd.slot ∧ (axisOf t a).pst = c.p0 ∧
        (axisOf t a).stopp = c.stop ∧ c.stop = stopPos c.p0 (c.p0 - (axisOf s a).p1) k.lim.dec) ∧
      rd t gs_ACCEPTS a = (rd s gs_ACCEPTS a + 1) % 2 ^ 32 ∧ rd t gs_MISSRUN a = 0 ∧
      (astate s a = 1 → astate t a = 2) ∧ (astate s a ≠ 1 → astate t a = astate s a)) ∧
    (k.late = true → ∃ t, exec (.check a) s = .next t ∧
      (axisOf t a).chk = some ⟨k.cmd, limitsOf s a, false, true, false⟩ ∧ (axisOf t a).rel = (axisOf s a).rel) ∧
    (¬ Claims.withinLimits s a k.cmd k.lim → k.late = false → ∃ t, exec (.check a) s = .next t ∧ (axisOf t a).chk = none ∧
      ((axisOf t a).rel = none ∨ (axisOf t a).rel = (axisOf s a).rel) ∧
      rd t gs_AREFUSED a = (rd s gs_AREFUSED a + 1) % 2 ^ 32 ∧ rd t gg_REFUSED = (rd s gg_REFUSED + 1) % 2 ^ 32)

/-- R299: a ramp step keeps the stop position, and where the next velocity would be 0 the axis stands at it: the distance travelled is that of
stop_pos. -/
def Obligations.RampEndsAtStopPosition : Prop :=
  ∀ (s : State) (a : AxisId), let x := axisOf s a
    let y := axisOf (rampSlot s a).2 a
    let dec := rd s ge_DEC a
    (max (dec : Int) 1 < iabs (x.p1 - x.p2) → y.p2 = x.p1 ∧
      iabs (y.p1 - y.p2) = iabs (x.p1 - x.p2) - max (dec : Int) 1 ∧ stopPos y.p1 (y.p1 - y.p2) dec = stopPos x.p1 (x.p1 - x.p2) dec ∧
      astate (rampSlot s a).2 a = astate s a) ∧
    (iabs (x.p1 - x.p2) ≤ max (dec : Int) 1 → y.p1 = x.p1 ∧ y.p1 = stopPos x.p1 (x.p1 - x.p2) dec ∧
      (rd s gs_STOPCLS a ≠ 2 → astate (rampSlot s a).2 a = 4))

/-- R283 to R285: a well-formed command clause of an axis that its endpoint commands and that can take it is taken into check; one that names no
axis of the endpoint is discarded, and so is one for an axis that is stopping. -/
def Claims.CommandClausesTaken : Prop :=
  ∀ (e : EpId) (s : State) (tile : Nat) (h : Clz) (rest : List Clz), guardTile s e = some tile → sliceUp s tile = true →
    (epAxes s e).isEmpty = false → (consOf s e).cls = h :: rest → (consOf s e).broken = false → h.whole = true →
    (consOf s e).hdrIn = true → h.poison = false → h.pad = false → h.pos + 20 ≤ (consOf s e).hbEnd → Claims.bufOk s e →
    headerBad (ofBytesLE (headWord s e h.pos).1) = false →
    let bs := (headPayload s e 16).1
    let a := ofBytesLE ((bs.drop 4).take 2)
    let slot := ofBytesLE (bs.drop 8)
    (a < 1024 → assigned s a = true → rd s ge_CMDEP a = e.val → (axisOf s a).chk = none → (axisOf s a).rel = none →
      slotMode slot < 4 → slotSub slot = false → (astate s a = 2 ∨ astate s a = 1 ∧ rdb s gs_SEEDED a = true) → checksOn s tile < 4 →
      ∃ t, exec (.commandClause e) s = .next t ∧ (consOf t e).cls = rest ∧
        (axisOf t a).chk = some ⟨⟨slot, ofBytesLE (bs.take 4), 0, 0⟩, limitsOf s a, false, false, false⟩) ∧
    (1024 ≤ a ∨ assigned s a = false ∨ rd s ge_CMDEP a ≠ e.val → ∃ t, exec (.commandClause e) s = .next t ∧ (consOf t e).cls = rest ∧
      rd t gg_DISCARDS = (rd s gg_DISCARDS + 1) % 2 ^ 32 ∧ t.axes = s.axes ∧
      (s.glog.length < 32 → t.glog.length = s.glog.length + 1)) ∧
    (a < 1024 → assigned s a = true → rd s ge_CMDEP a = e.val → (axisOf s a).chk = none → (axisOf s a).rel = none →
      slotMode slot < 4 → slotSub slot = false → 3 ≤ astate s a → ∃ t, exec (.commandClause e) s = .next t ∧ (consOf t e).cls = rest ∧
        rd t gg_DISCARDS = (rd s gg_DISCARDS + 1) % 2 ^ 32 ∧ t.axes = s.axes)

/-- R297, R298, R300, R301, R303: the stops of one axis without a group, of a group, of a port; enables; releases. -/
def Obligations.GuardStopsAndReleases : Prop :=
  (∀ (a : AxisId) (s : State), blockOpen s (edgeDom (axisTile a)) false →
    (assigned s a = false → exec (.stopr a) s = .next { s with reply := .done } ∧ exec (.stopd a) s = .next { s with reply := .done }) ∧
    (assigned s a = true → rd s ge_STOPGRP a = 0 →
      (∃ t, exec (.stopr a) s = .next t ∧ (s.glog.length < 32 → t.glog.length = s.glog.length + 1) ∧
        (astate s a = 1 ∨ astate s a = 2 → astate t a = 3 ∧ (axisOf t a).rel = none ∧
          (rd s gs_STOPCLS a = 0 → rd t gs_STOPKIND a = 11 ∧ rd t gs_STOPCLS a = 1)) ∧
        (3 ≤ astate s a → 1 ≤ rd s gs_STOPCLS a → astate t a = astate s a ∧ rd t gs_STOPCLS a = rd s gs_STOPCLS a)) ∧
      ∃ t, exec (.stopd a) s = .next t ∧ (astate s a < 3 ∨ rd s gs_STOPCLS a < 3 → bit (rd t gg_ENAST) (axisPort a) = false ∧
        ∀ b ∈ portAxes s (axisPort a), astate t b = 5 ∧ (axisOf t b).rel = none)) ∧
    ∃ t, exec (.release a) s = .next t ∧
      (rdb s gg_BRACTIVE = false → astate s a = 4 → astate t a = 1 ∧ rd t gs_STOPCLS a = 0 ∧ rd t gs_STOPKIND a = 0 ∧
        (axisOf t a).p2 = (axisOf s a).p1 ∧ (axisOf t a).p3 = (axisOf s a).p1) ∧
      (rdb s gg_BRACTIVE = false → astate s a = 5 → bit (rd s gg_ENAST) (axisPort a) = true → astate t a = 1 ∧ rd t gs_SEEDED a = 0) ∧
      (rdb s gg_BRACTIVE = true ∨ (astate s a ≠ 4 ∧ astate s a ≠ 5) ∨ (astate s a = 5 ∧ bit (rd s gg_ENAST) (axisPort a) = false) →
        astate t a = astate s a ∧ rd t gs_RELREF a = 1)) ∧
  (∀ (m : BitVec 64) (s : State), s.pow.deep = false →
    let may (p : Nat) := rd s ax_PSTATE p = 4 ∧ (∀ a ∈ portAxes s p, astate s a ≠ 3) ∧ rdb s gg_BRACTIVE = false ∧ s.lc.dbg < 2
    (∃ t, exec (.enarel m) s = .next t ∧ t.mem = s.mem ∧ ∀ p, p < 64 →
      (m.getLsbD p = true → may p → bit (rd t gg_ENAST) p = true) ∧
      (m.getLsbD p = true → ¬ may p → bit (rd t gg_ENAST) p = bit (rd s gg_ENAST) p ∧ rd t gg_GFAULT_ENAREF = 1) ∧
      (m.getLsbD p = false → bit (rd t gg_ENAST) p = bit (rd s gg_ENAST) p)) ∧
    ∃ t, exec (.enadrop m) s = .next t ∧ ∀ p, p < 64 → m.getLsbD p = true → bit (rd t gg_ENAST) p = false) ∧
  (∀ (p : PortId) (s : State) (a c : Nat), (portOf s p).ena = some a → (portOf s p).still = some c →
    c + rd s ge_ENADLY a ≤ (portOf s p).cyc →
    ∃ t, exec (.enadly p) s = .next t ∧ bit (rd t gg_ENAST) p = false ∧ (portOf t p).ena = none ∧
      ∀ b ∈ portAxes s p, astate t b = 5) ∧
  ∀ (tile : Fin 4) (s : State) (g : GStop), s.gstops.find? (fun g => g.tile == tile.val) = some g →
    ∃ t, exec (.groupStop tile) s = .next t ∧ t.gstops = s.gstops.erase g ∧
      (g.cls = 1 → ∀ b ∈ groupOn s g.grp g.tile, astate s b = 1 ∨ astate s b = 2 → astate t b = 3)

/-- R302, R304, R308: the guard's log and counters; a write of VMAX by an agent with SUP outside a herd narrows the field or is ignored
and counted. -/
def Claims.GuardLogAndLimits : Prop :=
  (∀ s : State, s.pow.deep = false →
    exec .gctlLogpop s = .next { s with glog := s.glog.drop 1, reply := .done } ∧
    ∃ t, exec .gctlCntclr s = .next t ∧ rd t gg_NRWREF = 0 ∧ rd t gg_REFUSED = 0 ∧ rd t gg_SUBS = 0 ∧ rd t gg_DISCARDS = 0 ∧
      rd t gg_LOSTCOUNT = 0 ∧ onlyRegs s t (fun k => k.blk = .guard)) ∧
  ∀ (a : AxisId) (v : BitVec 64) (s : State), blockOpen s (edgeDom (axisTile a)) false → s.held = [] → v.toNat < 2 ^ 24 →
    rd s ge_VMAX a < 2 ^ 24 → 7 ≤ rd s hb_BOOTSTAT_PHASE →
    ∃ t, exec (.nrwWrite .tap (BitVec.ofNat 40 (0x13_0101_0000 + a.val * 0x40 + 8)) .b4 v) s = .next t ∧
      (v.toNat ≤ rd s ge_VMAX a → rd t ge_VMAX a = v.toNat ∧ rd t gg_NRWREF = rd s gg_NRWREF) ∧
      (rd s ge_VMAX a < v.toNat → rd t ge_VMAX a = rd s ge_VMAX a ∧ rd t gg_NRWREF = (rd s gg_NRWREF + 1) % 2 ^ 32)

/-- The guard takes command clauses, logs, and narrows limits. -/
def Obligations.GuardTakesAndLogs : Prop := Claims.CommandClausesTaken ∧ Claims.GuardLogAndLimits

/-! ### Sighting -/

/-- R324, R325, R437: CCTL starts, stops and restarts a camera port; NOCLK and DESKEW take it to FAULT. -/
def Obligations.CameraPortStates : Prop :=
  ∀ (c : CamId) (s : State),
    (blockOpen s (edgeDom (c.val / 2)) false →
      (∃ t, exec (.cctlStart c) s = .next t ∧ t.mem = s.mem ∧ camOf t c = camOf s c ∧
        (bit (rd s ts_FENCEC) c = true → camState t c = camState s c) ∧ (bit (rd s ts_FENCEC) c = false → camState t c = 1)) ∧
      (∃ t, exec (.cctlStop c) s = .next t ∧ camState t c = 0 ∧ (camOf t c).fit = (camOf s c).fit ∧
        (∀ f, (camOf s c).frame = some f → f.ended = false → (camOf t c).frame = none)) ∧
      (∃ t, exec (.cctlFawnrun c) s = .next t ∧ camState t c = camState s c ∧
        ((fawnOf s (128 + 2 * c.val)).st = .stopped → (fawnOf t (128 + 2 * c.val)).st = .running ∧
          (fawnOf t (128 + 2 * c.val)).pc = 0 ∧ rd t cm_CFAWN_SUCAUSE c = 0) ∧
        ((fawnOf s (129 + 2 * c.val)).st = .stopped → (fawnOf t (129 + 2 * c.val)).st = .running ∧
          (fawnOf t (129 + 2 * c.val)).pc = 0 ∧ rd t cm_CFAWN_STCAUSE c = 0) ∧
        ((fawnOf s (128 + 2 * c.val)).st ≠ .stopped → fawnOf t (128 + 2 * c.val) = fawnOf s (128 + 2 * c.val))) ∧
      ∃ t, exec (.cctlCntclr c) s = .next t ∧ rd t cm_FRAMES c = 0 ∧ rd t cm_POSES c = 0 ∧ rd t cm_DROPPED c = 0 ∧
        rd t cm_PKTERR c = 0 ∧ rd t cm_OTHERPKT c = 0 ∧ rd t cm_EDGEOVF c = 0 ∧ rd t cm_EDGELATE c = 0 ∧
        onlyRegs s t (fun k => k.blk = .camera ∧ k.inst = c.val)) ∧
    (camUp s c = true → camState s c = 1 →
      (∃ t, exec (.noclk c) s = .next t ∧ camState t c = 2 ∧ rd t cm_CFAULT_NOCLK c = 1 ∧ (camOf t c).edges = [] ∧
        (∀ f, (camOf s c).frame = some f → f.ended = false → (camOf t c).frame = none) ∧ t.mem = s.mem) ∧
      ∃ t, exec (.deskew c) s = .next t ∧ camState t c = 2 ∧ rd t cm_CFAULT_DESKEW c = 1 ∧ (camOf t c).edges = [] ∧
        (∀ f, (camOf s c).frame = some f → f.ended = false → (camOf t c).frame = none) ∧ t.mem = s.mem)

/-- The centroid of a frame in MODE 1 (R320), to the 1/1,024 pixel below; its score. -/
def Claims.blobFits (s : State) (f : Frame) : Prop :=
  let ps := blobPixels f
  let m := blobSum ps (fun _ _ => 1)
  let v := (fitBlob s f).1
  (m ≠ 0 → v.x * m ≤ 1024 * blobSum ps (fun x _ => x) ∧ 1024 * blobSum ps (fun x _ => x) < (v.x + 1) * m ∧
    v.y * m ≤ 1024 * blobSum ps (fun _ y => y) ∧ 1024 * blobSum ps (fun _ y => y) < (v.y + 1) * m) ∧
  v.score = min ps.length 65535 ∧ v.nmatch = 0 ∧ v.found = decide (f.r.minscore ≤ v.score)

/-- R312 to R314, R317, R322: short packets at a running camera port. Frame Start takes the oldest edge that is not late and opens a frame, or
drops it; Frame End closes a short frame; a packet of another channel, and a bad header, count; other short packets have no effect. -/
def Claims.shortPackets (c : CamId) (s : State) : Prop :=
  ∀ pkt : BitVec 32,
    (csiHeader pkt.toNat = none → ∃ t, exec (.frameStart c pkt) s = .next t ∧ rd t cm_PKTERR c = (rd s cm_PKTERR c + 1) % 2 ^ 32 ∧
      t.cams = s.cams) ∧
    ∀ h, csiHeader pkt.toNat = some h →
      (h.vc ≠ rd s cm_CCFG_VC c → ∃ t, exec (if h.dt = 1 then .frameEnd c pkt else .frameStart c pkt) s = .next t ∧
        rd t cm_OTHERPKT c = (rd s cm_OTHERPKT c + 1) % 2 ^ 32 ∧ t.cams = s.cams) ∧
      (h.vc = rd s cm_CCFG_VC c → 1 < h.dt → exec (.frameStart c pkt) s = .next s) ∧
      (h.vc = rd s cm_CCFG_VC c → h.dt = 0 →
        let early := (camOf s c).edges.filter (fun e => decide (now s ≤ rd s cm_FSWIN c * 8000 + e.toNat))
        ∃ t, exec (.frameStart c pkt) s = .next t ∧ rd t cm_FRAMES c = (rd s cm_FRAMES c + 1) % 2 ^ 32 ∧
          (camOf t c).edges = early.drop 1 ∧
          ((camOf s c).frame = none → ∃ f, (camOf t c).frame = some f ∧ f.num = rd t cm_FRAMES c ∧ f.y = 0 ∧ f.lines = [] ∧
            f.r = camRegs s c ∧ f.ended = false ∧ (∀ e es, early = e :: es → f.time = e ∧ f.trig = true) ∧
            (early = [] → eventTime s f.time.toNat ∧ f.trig = false)) ∧
          ((camOf s c).frame ≠ none → (camOf s c).fit ≠ none → rd t cm_DROPPED c = (rd s cm_DROPPED c + 1) % 2 ^ 32 ∧
            (camOf t c).fit = (camOf s c).fit)) ∧
      (h.vc = rd s cm_CCFG_VC c → h.dt = 1 →
        ∃ t, exec (.frameEnd c pkt) s = .next t ∧ t.mem = s.mem ∧ (∀ f, (camOf s c).frame = some f → f.ended = false →
          f.lines.length < f.r.roih → (camOf s c).fit = none →
          (camOf t c).fit = some { f with ended := true, partl := true, pkt := true } ∧ (camOf t c).frame = none))

/-- A frame of the port in progress, short of its last line of the ROI, takes a line. -/
def Claims.lineTaken (s t : State) (c : CamId) (px : Option (List (BitVec 12))) : Prop :=
  ∀ f, (camOf s c).frame = some f → f.ended = false → f.r.roiy ≤ f.y → f.y + 1 < f.r.roiy + f.r.roih →
    (camOf t c).frame = some { f with
      lines := f.lines ++ [px.map (fun l => (l.drop f.r.roix).take f.r.roiw)], pkt := f.pkt || px.isNone, y := f.y + 1 }

/-- R312, R313, R315, R316: long packets at a running camera port: a bad header or a wrong CRC is a missing line; a packet of another channel or
type counts; any other is a line of pixels, cropped to the ROI. -/
def Claims.longPackets (c : CamId) (s : State) : Prop :=
  ∀ bs : List Byte,
    (csiHeader (ofBytesLE (bs.take 4)) = none → ∃ t, exec (.longPacket c bs) s = .next t ∧
      rd t cm_PKTERR c = (rd s cm_PKTERR c + 1) % 2 ^ 32 ∧ Claims.lineTaken s t c none) ∧
    ∀ h, csiHeader (ofBytesLE (bs.take 4)) = some h →
      (h.vc ≠ rd s cm_CCFG_VC c ∨ h.dt < 0x2A ∨ 0x2C < h.dt → ∃ t, exec (.longPacket c bs) s = .next t ∧
        rd t cm_OTHERPKT c = (rd s cm_OTHERPKT c + 1) % 2 ^ 32 ∧ t.cams = s.cams) ∧
      (h.vc = rd s cm_CCFG_VC c → 0x2A ≤ h.dt → h.dt ≤ 0x2C → ∃ t, exec (.longPacket c bs) s = .next t ∧
        (csiPayload h.wc bs = none → rd t cm_PKTERR c = (rd s cm_PKTERR c + 1) % 2 ^ 32 ∧ Claims.lineTaken s t c none) ∧
        ∀ d, csiPayload h.wc bs = some d → t.regs = s.regs ∧
          Claims.lineTaken s t c (some (if h.dt = 0x2A then raw8 d else if h.dt = 0x2B then raw10 d else raw12 d)))

/-- R312 to R320, R322: the packets of a running port; the fit frees its stage and counts a pose; the coarse search takes a placement of the
greatest matched weight; a template without features scores 0; the centroid of MODE 1. -/
def Obligations.FramesAndPoses : Prop :=
  (∀ (c : CamId) (s : State), camUp s c = true → camState s c = 1 → Claims.shortPackets c s ∧ Claims.longPackets c s) ∧
  (∀ (c : CamId) (s : State) (f : Frame), camUp s c = true → (camOf s c).fit = some f → poseEpOk s c = true →
    enginePushOk s (rd s cm_POSEEP c) 28 = true →
    ∃ t, exec (.fit c) s = .next t ∧ rd t cm_POSES c = (rd s cm_POSES c + 1) % 2 ^ 32 ∧
      ((camOf s c).frame = none → (camOf t c).fit = none) ∧
      (∀ g, (camOf s c).frame = some g → g.ended = true → (camOf t c).fit = some g ∧ (camOf t c).frame = none)) ∧
  (∀ (r : CamRegs) (fs : List Feat) (es : List Edge) (q : Int × Int × Int), q ∈ placements →
    let best := coarse r fs es
    best ∈ placements ∧ weightOf (matched r fs es (placement r q.1 q.2.1 q.2.2)) ≤
      weightOf (matched r fs es (placement r best.1 best.2.1 best.2.2))) ∧
  (∀ (s : State) (r : CamRegs) (es : List Edge), (fitTemplate s r [] es).1.score = 0 ∧ (fitTemplate s r [] es).1.found = false) ∧
  ∀ (s : State) (f : Frame), Claims.blobFits s f

/-! ### Timebase -/

/-- R327 to R330, R332, R335: capture, set, slew, alarms; the counter and an alarm's registers. A slew comes at most once in 1,024 periods, and
only while a port is in RUN; a period with no command adds 8. -/
def Claims.TimebaseCommands : Prop :=
  (∀ s : State, s.pow.deep = false →
    (∃ t, exec .tbctlCap s = .next t ∧ rd t tb_TBCAPT = s.tb.count.toNat ∧ onlyRegs s t (fun k => k = tb_TBCAPT.key 0 0)) ∧
    (∃ t, exec .tbctlSet s = .next t ∧ t.mem = s.mem ∧
      ((∃ p, p < 64 ∧ rd s ax_PSTATE p = 4) → rd t tb_TBFAULT_SETREF = 1 ∧ t.tb = s.tb) ∧
      ((∀ p, p < 64 → rd s ax_PSTATE p ≠ 4) → t.tb = { s.tb with count := BitVec.ofNat 64 (rd s tb_TBSETV) })) ∧
    (∀ (i : Fin 8) (v : BitVec 64),
      (∃ t, exec (.almt i v) s = .next t ∧ t.tb = s.tb ∧
        (rd s tb_ALM_EN 0 i ≠ 1 ∨ now s < v.toNat → rd t tb_ALMT 0 i = v.toNat ∧ rd t tb_ALM_FIRED 0 i = rd s tb_ALM_FIRED 0 i) ∧
        (rd s tb_ALM_EN 0 i = 1 → v.toNat ≤ now s → rd t tb_ALM_FIRED 0 i = 1)) ∧
      ∃ t, exec (.almEn i) s = .next t ∧ t.tb = s.tb ∧
        (now s < rd s tb_ALMT 0 i → rd t tb_ALM_EN 0 i = 1 ∧ rd t tb_ALM_FIRED 0 i = rd s tb_ALM_FIRED 0 i) ∧
        (rd s tb_ALM_EN 0 i ≠ 1 → rd s tb_ALMT 0 i ≤ now s → rd t tb_ALM_FIRED 0 i = 1))) ∧
  (∀ (s : State) (i : Fin 8), rd s tb_ALM_EN 0 i = 1 → rd s tb_ALMT 0 i ≤ now s → ∃ t, exec (.alarm i) s = .next t ∧
    rd t tb_ALM_FIRED 0 i = 1 ∧ t.tb = s.tb ∧
    (rd s tb_ALMPER 0 i = 0 → rd t tb_ALM_EN 0 i = 0 ∧ rd t tb_ALMT 0 i = rd s tb_ALMT 0 i) ∧
    (rd s tb_ALMPER 0 i ≠ 0 → rd t tb_ALM_EN 0 i = 1 ∧ ∃ n, 0 < n ∧
      rd t tb_ALMT 0 i = (rd s tb_ALMT 0 i + n * rd s tb_ALMPER 0 i) % 2 ^ 64 ∧
      now s < rd s tb_ALMT 0 i + n * rd s tb_ALMPER 0 i ∧ rd s tb_ALMT 0 i + n * rd s tb_ALMPER 0 i ≤ now s + rd s tb_ALMPER 0 i ∧
      rd t tb_ALM_MISSED 0 i = min 255 (rd s tb_ALM_MISSED 0 i + (n - 1)))) ∧
  (∀ s : State, s.tb.runs = true →
    let run := ∃ p, p < 64 ∧ rd s ax_PSTATE p = 4
    (run → s.tb.slewIn = 0 → s.tb.owed < 0 → ∃ t, exec (.slew true) s = .next t ∧ t = { s with tb := t.tb } ∧
      t.tb.count = s.tb.count + 9 ∧ t.tb.owed = s.tb.owed + 1 ∧ t.tb.slewIn = 1023) ∧
    (run → s.tb.slewIn = 0 → 0 < s.tb.owed → ∃ t, exec (.slew false) s = .next t ∧ t = { s with tb := t.tb } ∧
      t.tb.count = s.tb.count + 7 ∧ t.tb.owed = s.tb.owed - 1 ∧ t.tb.slewIn = 1023) ∧
    (¬ run ∨ s.tb.slewIn ≠ 0 → ∀ up, exec (.slew up) s = .next s) ∧
    (s.pending = [] → s.held = [] → s.pow.deep = false → s.pow.want = none → s.lc.writing = false → ∃ t, step s = .next t ∧
      t.tb.count = s.tb.count + 8 ∧ t.tb.owed = s.tb.owed ∧ t.tb.slewIn = s.tb.slewIn - 1 ∧ t.clk.ticks = s.clk.ticks + 1 ∧
      t.otp = s.otp ∧ t.pending = [])) ∧
  ∀ s : State, rd s tb_TBSTAT_LOCK = 1 → ∃ t, exec .unlock s = .next t ∧ rd t tb_TBSTAT_LOCK = 0 ∧ rd t tb_TBFAULT_UNLOCK = 1 ∧ t.tb = s.tb

/-- R328, R331 to R334, R346, R348: an exchange starts once in TXINT µs, and its t1 and the t3 of an answer are the codeword's time; the answer
sets OFFSET and DELAY from the four times and corrects the counter; one that is missing after 4 × TXINT enters holdover; a loop sets its fault. -/
def Claims.TimeExchanges : Prop :=
  (∀ s : State, s.tb.runs = true → ∀ l : LinkId, rd s tb_TBSRC = l.val →
    ((∀ a, s.tb.age = some a → exchangeEvery s ≤ a) → ∃ t, exec .exchange s = .next t ∧
      t.tb = { s.tb with outs := (none, 0) :: s.tb.outs, age := some 0 } ∧ t.regs = s.regs ∧
      (rd s lk_LSTATE l = 2 → ∃ h, (linkOf t l).outTime = (linkOf s l).outTime ++ [⟨h, bytesLE 8 0⟩] ∧ bits h 3 0 = 9 ∧ bits h 12 4 = 8)) ∧
    (∀ a, s.tb.age = some a → a < exchangeEvery s → exec .exchange s = .next s)) ∧
  (∀ (s : State) (l : LinkId) (m : Msg) (ms : List Msg), (linkOf s l).outTime = m :: ms → s.tb.runs = true →
    let ack := ((linkOf s l).rxSeq + 4095) % 4096
    ∃ x, eventTime s x ∧ (linkOf (firstFlit s l).2 l).outTime = ms ∧
      (m.tt = 9 → (firstFlit s l).1 = flitBytes 3 0 ack (linkOf s l).nak (linkOf s l).giveReq (linkOf s l).giveRsp
          (bytesLE 16 m.h ++ bytesLE 8 x) ∧
        ∀ a r, s.tb.outs = (none, a) :: r → (firstFlit s l).2.tb.outs = (some (BitVec.ofNat 64 x), a) :: r) ∧
      (m.tt = 0xA → (firstFlit s l).2.tb = s.tb ∧ (firstFlit s l).1 = flitBytes 3 0 ack (linkOf s l).nak (linkOf s l).giveReq
          (linkOf s l).giveRsp (bytesLE 16 m.h ++ (m.d.take 16 ++ bytesLE 8 x)))) ∧
  (∀ s : State,
    ((∃ o ∈ s.tb.outs, 4 * exchangeEvery s ≤ o.2) → ∃ t, exec .noresp s = .next t ∧ t.tb.outs = s.tb.outs.dropLast ∧
      t.tb.count = s.tb.count ∧ rd t tb_TBSTAT_HOLD = 1 ∧ rd t tb_TBSTAT_SYNC = 0 ∧ rd t tb_TBFAULT_NORESP = 1) ∧
    ((∀ o ∈ s.tb.outs, o.2 < 4 * exchangeEvery s) → exec .noresp s = .next s)) ∧
  (∀ (l : LinkId) (s : State) (m : TimeMsg) (rest : List TimeMsg), (linkOf s l).timeMsgs = m :: rest → bits m.m.h 3 0 = 9 →
    ∃ t h, exec (.timereq l) s = .next t ∧ (linkOf t l).timeMsgs = rest ∧ t.regs = s.regs ∧ t.tb = s.tb ∧ bits h 3 0 = 0xA ∧
      (linkOf t l).outTime = (linkOf s l).outTime ++
        (if rd s lk_LSTATE l = 2 then [⟨h, m.m.d.take 8 ++ bytesLE 8 m.t.toNat ++ bytesLE 8 0⟩] else [])) ∧
  ∀ (l : LinkId) (s : State) (m : TimeMsg) (rest : List TimeMsg), (linkOf s l).timeMsgs = m :: rest → bits m.m.h 3 0 = 0xA →
    ∃ t, exec (.timersp l) s = .next t ∧ (linkOf t l).timeMsgs = rest ∧
    (∀ t1 t2 t3 : Time, m.m.d = bytesLE 8 t1.toNat ++ bytesLE 8 t2.toNat ++ bytesLE 8 t3.toNat →
      let mine := rd s tb_TBSRC = l.val ∧ ∃ o ∈ s.tb.outs, o.1 = some t1 ∧ o.2 ≤ 4 * exchangeEvery s
      (¬ mine → t.regs = s.regs ∧ t.tb = s.tb) ∧
      (mine → bits m.m.h 115 112 = 15 → rd t tb_TBFAULT_LOOP = 1 ∧ t.tb.count = s.tb.count ∧ rd t tb_OFFSET = rd s tb_OFFSET) ∧
      (mine → bits m.m.h 115 112 < 15 →
        let a := (t2 - t1).toInt
        let b := (m.t - t3).toInt
        let offset := Int.fdiv (b - a + sext 16 (rd s tb_ASYM 0 l)) 2
        rd t tb_OFFSET = twos 32 offset ∧ rd t tb_DELAY = twos 32 (Int.fdiv (a + b) 2) ∧ rd t tb_TBSTAT_HOPS = bits m.m.h 115 112 + 1 ∧
          rd t tb_TBSTAT_HOLD = 0 ∧ rd t tb_EXCH = (rd s tb_EXCH + 1) % 2 ^ 32 ∧ (∀ o ∈ t.tb.outs, o.1 ≠ some t1) ∧
          ((∀ p, p < 64 → rd s ax_PSTATE p ≠ 4) → (rd s tb_LOCKTHR : Int) < iabs offset →
            t.tb.count = s.tb.count - BitVec.ofInt 64 offset) ∧
          ((∃ p, p < 64 ∧ rd s ax_PSTATE p = 4) → t.tb.count = s.tb.count ∧
            ((rd s tb_LOCKTHR : Int) < iabs offset → t.tb.owed = offset) ∧
            (2 ^ 20 < iabs offset → rd t tb_TBFAULT_OFFLIM = 1 ∧ rd t tb_TBSTAT_SYNC = 0)) ∧
          (iabs offset ≤ (rd s tb_LOCKTHR : Int) → t.tb.count = s.tb.count)))

/-- The timebase: its commands and its exchanges. -/
def Obligations.TimebaseKeepsTime : Prop := Claims.TimebaseCommands ∧ Claims.TimeExchanges

/-! ### Jalari links -/

/-- R339, R340, R353 to R355, R420, R437: what moves a link from state to state. -/
def Obligations.LinkStates : Prop :=
  ∀ (l : LinkId) (s : State),
    (blockOpen s (linkDom l) false →
      (∃ t, exec (.lctlStart l) s = .next t ∧ t.mem = s.mem ∧
        (linkFenced s l = true → t = { s with reply := .done }) ∧
        (linkFenced s l = false → linkState s l = 0 → linkState t l = 1 ∧ rd t lk_TPHASE l = 0 ∧ rd t lk_LANELOCK l = 0 ∧
          rd t lk_RETRAINS l = rd s lk_RETRAINS l) ∧
        (linkFenced s l = false → linkState s l = 3 → linkState t l = 1 ∧ rd t lk_RETRAINS l = (rd s lk_RETRAINS l + 1) % 2 ^ 32) ∧
        (linkState s l = 1 ∨ linkState s l = 2 → t = { s with reply := .done })) ∧
      (∃ t, exec (.lctlStop l) s = .next t ∧ linkState t l = 0 ∧ linkOf t l = { linkOf s l with outTime := [], age := 0 } ∧
        t.mem = s.mem) ∧
      (∃ t, exec (.lctlReset l) s = .next t ∧ linkState t l = 1 ∧ (linkOf t l).replay = (linkOf s l).replay ∧
        (linkOf t l).has = (linkOf s l).has ∧ (linkOf t l).rxSeq = (linkOf s l).rxSeq ∧ (linkOf t l).reseq = !(linkOf s l).has ∧
        (2 ≤ linkState s l → linkState s l ≤ 3 → rd t lk_RETRAINS l = (rd s lk_RETRAINS l + 1) % 2 ^ 32)) ∧
      (∃ t, exec (.lctlFawnrun l) s = .next t ∧ linkState t l = linkState s l ∧
        ((fawnOf s (144 + 2 * l.val)).st = .stopped → (fawnOf t (144 + 2 * l.val)).st = .running ∧
          (fawnOf t (144 + 2 * l.val)).pc = 0 ∧ rd t lk_LFAWN_RXCAUSE l = 0) ∧
        ((fawnOf s (145 + 2 * l.val)).st = .stopped → (fawnOf t (145 + 2 * l.val)).st = .running ∧
          (fawnOf t (145 + 2 * l.val)).pc = 0 ∧ rd t lk_LFAWN_TXCAUSE l = 0) ∧
        ((fawnOf s (144 + 2 * l.val)).st ≠ .stopped → fawnOf t (144 + 2 * l.val) = fawnOf s (144 + 2 * l.val))) ∧
      ∃ t, exec (.lctlCntclr l) s = .next t ∧ rd t lk_FLITSTX l = 0 ∧ rd t lk_FLITSRX l = 0 ∧ rd t lk_RETRIES l = 0 ∧
        rd t lk_FECCORR l = 0 ∧ rd t lk_FECUNC l = 0 ∧ rd t lk_CRCERR l = 0 ∧ rd t lk_RETRAINS l = 0 ∧
        onlyRegs s t (fun k => k.blk = .link ∧ k.inst = l.val)) ∧
    (linkOn s l = true →
      (linkState s l = 1 → 50_000_000 ≤ (linkOf s l).age → ∃ t, exec (.trainto l) s = .next t ∧ linkState t l = 3 ∧
        rd t lk_LFAULT_TRAINTO l = 1 ∧ linkOf t l = { linkOf s l with outTime := [], age := 0 }) ∧
      ((linkOf s l).age < 50_000_000 → exec (.trainto l) s = .next s) ∧
      (linkState s l = 3 → rd s lk_LCFG_AUTO l = 1 → linkFenced s l = false → 1_000_000 ≤ (linkOf s l).age →
        ∃ t, exec (.auto l) s = .next t ∧ linkState t l = 1 ∧ rd t lk_RETRAINS l = (rd s lk_RETRAINS l + 1) % 2 ^ 32) ∧
      ((linkOf s l).age < 1_000_000 → exec (.auto l) s = .next s)) ∧
    (rd s rt_LSTALLTO ≠ 0 → rd s rt_LSTALLTO * 1000 ≤ (linkOf s l).dry →
      ∃ t, exec (.linkStall l) s = .next t ∧ rd t lk_LFAULT_STALL l = 1 ∧ linkState t l = linkState s l ∧ linkOf t l = linkOf s l) ∧
    (rd s rt_LSTALLTO = 0 ∨ (linkOf s l).dry < rd s rt_LSTALLTO * 1000 → exec (.linkStall l) s = .next s)

/-- The fields of a training frame are of their widths. -/
def Claims.frameOk (f : TFrame) : Prop :=
  f.lane < 4 ∧ f.phase < 4 ∧ f.reqPre < 4 ∧ f.reqPost < 4 ∧ f.stPre < 4 ∧ f.stPost < 4

/-- R339, R340, R354: a training frame that passes its TCRC shows its partner and the lock of its lane; a lane swap and a wrong partner are faults;
eight READY frames on every lane bring the link UP, and sequence state is kept where both ends hold it; the frames sent say what the side is;
a frame is received as it was sent, with its polarity. -/
def Obligations.TrainingFramesTrain : Prop :=
  (∀ (l : LinkId) (s : State) (lane : Fin 4) (frame : BitVec 1360), linkOn s l = true → linkState s l = 1 →
    (trainFrame frame = none → exec (.trainingFrame l lane frame) s = .next s) ∧
    ∀ f inverted, trainFrame frame = some (f, inverted) → ∃ t, exec (.trainingFrame l lane frame) s = .next t ∧
      bit (rd t lk_LANELOCK l) lane = true ∧ bit (rd t lk_LANEINV l) lane = inverted ∧
      rd t lk_PEERNODE l = f.node.toNat ∧ rd t lk_PEERLINK l = f.linkNum.toNat ∧
      (rd s lk_TPHASE l = 0 → linkState t l = 1) ∧
      (rd s lk_TPHASE l = 1 → (f.lane ≠ lane.val → linkState t l = 3 ∧ rd t lk_LFAULT_LANESWAP l = 1) ∧
        (f.lane = lane.val → linkState t l = 1 ∧ ((linkOf s l).aligned ||| 2 ^ lane.val = 0xF → rd t lk_TPHASE l = 2))) ∧
      (rd s lk_TPHASE l = 2 →
        let wrong := rd s lk_LCFG_PEERCHK l = 1 ∧ (f.node.toNat ≠ rd s lk_EXPPEER l ∨ f.linkNum.toNat ≠ rd s lk_EXPLINK l)
        (wrong → linkState t l = 3 ∧ rd t lk_LFAULT_PEERMIS l = 1) ∧
        (¬ wrong → linkState t l = 1 ∧
          (linkOf t l).ready = (linkOf s l).ready.set lane (if f.phase = 2 then (linkOf s l).ready.getD lane 0 + 1 else 0)))) ∧
  (∀ (l : LinkId) (s : State), linkState s l = 1 →
    let up := rd s lk_TPHASE l = 2 ∧ (linkOf s l).sentReady = true ∧ ∀ n ∈ (linkOf s l).ready, 8 ≤ n
    (up → linkState (sendTraining s l) l = 2 ∧
      ((linkOf s l).has = true → (linkOf s l).peerReseq = false → (linkOf (sendTraining s l) l).rxSeq = (linkOf s l).rxSeq ∧
        rd (sendTraining s l) lk_LFAULT_RESEQ l = rd s lk_LFAULT_RESEQ l) ∧
      ((linkOf s l).has = false ∨ (linkOf s l).peerReseq = true → rd (sendTraining s l) lk_LFAULT_RESEQ l = 1)) ∧
    (¬ up → linkState (sendTraining s l) l = 1 ∧ ∀ lane, lane < 4 → ∃ f, (linkOf (sendTraining s l) l).frames[lane]? = some f ∧
      f.lane = lane ∧ f.phase = rd s lk_TPHASE l ∧ f.reseq = (linkOf s l).reseq ∧ f.node.toNat = rd s rt_NODEID % 2 ^ 16 ∧
      f.linkNum.toNat = l.val ∧ f.stPre = ((linkOf s l).stat.getD lane (0, 0)).1 ∧
      f.stPost = ((linkOf s l).stat.getD lane (0, 0)).2)) ∧
  ∀ (f : TFrame) (prbs : Nat), Claims.frameOk f → prbs < 2 ^ 13 →
    trainFrame (f.bits prbs) = some (f, false) ∧ trainFrame (~~~ f.bits prbs) = some (f, true)

/-- A flit that passes its CRC, carries no NAK and has FTYPE ty and FSEQ seq (R343, R344). -/
def Claims.flitIs (bs : List Byte) (ty seq : Nat) : Prop :=
  bs.length = 64 ∧ crc32 (bs.take 60) = ofBytesLE (bs.drop 60) ∧ bits (ofBytesLE (bs.take 2)) 3 0 = ty ∧
    bits (ofBytesLE (bs.take 2)) 15 4 = seq ∧ bit (ofBytesLE ((bs.drop 2).take 2)) 12 = false ∧ (bs.getD 6 0).toNat % 64 ≤ 52

/-- A discard asks for a NAK, at once or when the 512 ns after the last NAK are over. -/
def Claims.nakAsked (s t : State) (l : LinkId) : Prop :=
  ((linkOf s l).nakAge = none → (linkOf t l).nak = true) ∧ ((linkOf t l).nak = true ∨ (linkOf t l).again = true)

/-- R341 to R344, R354: a codeword that is not taken counts in FECUNC and asks for a resend, and the fourth bad marker of 16 is a fault; in one that
is taken, a flit with a wrong CRC counts, and a REQ flit is taken in its sequence alone. -/
def Claims.codewords (l : LinkId) (s : State) (lanes : List (List (BitVec 2))) : Prop :=
  let r := decodeLanes (rd s lk_LANEINV l) lanes
  let marks := (r.any (fun c => decide (c.1.marker ≠ 0x2E5)) :: (linkOf s l).marks).take 16
  let good (c : CwData) : Prop := c.marker = 0x2E5 ∧ c.seq = (linkOf s l).cwseq
  ∃ t, exec (.codeword l lanes) s = .next t ∧ (linkOf t l).cwseq = ((linkOf s l).cwseq + 1) % 256 ∧ (linkOf t l).marks = marks ∧
    (∀ c, r = some (c, true) → rd t lk_FECCORR l = (rd s lk_FECCORR l + 1) % 2 ^ 32) ∧
    ((∀ c corr, r = some (c, corr) → ¬ good c) →
      rd t lk_FECUNC l = (rd s lk_FECUNC l + 1) % 2 ^ 32 ∧ Claims.nakAsked s t l ∧ (linkOf t l).rxSeq = (linkOf s l).rxSeq ∧
      ((marks.filter id).length < 4 → linkState t l = 2) ∧
      (r ≠ none → 4 ≤ (marks.filter id).length → linkState t l = 3 ∧ rd t lk_LFAULT_MKLOST l = 1)) ∧
    (∀ c corr, r = some (c, corr) → good c → rd t lk_FECUNC l = rd s lk_FECUNC l ∧
      ((∀ bs ∈ c.flits, crc32 (bs.take 60) ≠ ofBytesLE (bs.drop 60)) →
        rd t lk_CRCERR l = (rd s lk_CRCERR l + 10) % 2 ^ 32 ∧ Claims.nakAsked s t l ∧
          (linkOf t l).reqBytes = (linkOf s l).reqBytes ∧ linkState t l = 2) ∧
      (∀ bs idles n, c.flits = bs :: idles → Claims.flitIs bs 1 n → (∀ b ∈ idles, ∃ m, Claims.flitIs b 0 m) → s.flip = none →
        ((linkOf s l).has = true → n = (linkOf s l).rxSeq → rd t lk_FLITSRX l = (rd s lk_FLITSRX l + 1) % 2 ^ 32) ∧
        ((linkOf s l).has = false ∨ n ≠ (linkOf s l).rxSeq → rd t lk_FLITSRX l = rd s lk_FLITSRX l ∧ Claims.nakAsked s t l ∧
          (linkOf t l).reqBytes = (linkOf s l).reqBytes ∧ (linkOf t l).rxSeq = (linkOf s l).rxSeq)))

/-- R341 to R344: codewords at a link that is UP; what a codeword carries is read from its symbols and lanes as it was laid there; a flit is
received as it was sent. -/
def Obligations.CodewordsTaken : Prop :=
  (∀ (l : LinkId) (s : State) (lanes : List (List (BitVec 2))), linkOn s l = true → linkState s l = 2 → Claims.codewords l s lanes) ∧
  (∀ c : CwData, c.marker < 2 ^ 10 → c.seq < 2 ^ 8 → c.flits.length = 10 → (∀ f ∈ c.flits, f.length = 64) →
    cwData c.symbols = c ∧ c.symbols.length = 514) ∧
  (∀ cw : List Nat, cw.length = 544 → (∀ x ∈ cw, x < 1024) → fromLanes (toLanes cw) = cw ∧
    (toLanes cw).map (fun k => k.length) = [680, 680, 680, 680] ∧ fromLanes ((toLanes cw).map (fun k => invertLane (invertLane k))) = cw) ∧
  ∀ (ty seq ack crReq crRsp : Nat) (nak : Bool) (body : List Byte), ty < 16 → seq < 2 ^ 12 → ack < 2 ^ 12 → body.length ≤ 52 →
    let f := flitBytes ty seq ack nak crReq crRsp body
    f.length = 64 ∧ flitGood f = true ∧ bits (ofBytesLE (f.take 2)) 3 0 = ty ∧ bits (ofBytesLE (f.take 2)) 15 4 = seq ∧
      bits (ofBytesLE ((f.drop 2).take 2)) 11 0 = ack ∧ bit (ofBytesLE ((f.drop 2).take 2)) 12 = nak ∧
      (f.getD 4 0).toNat = crReq % 256 ∧ (f.getD 5 0).toNat = crRsp % 256 ∧ (f.drop 8).take (f.getD 6 0).toNat = body

/-- The row i serves the oldest message of its stream, where that has type tt; for another node it goes on with one hop less over the link of
the region table, and one with no hop left counts in HOPDROP (R351). -/
def Claims.servesMsg (i : Option LinkId → Instr) (req : Bool) (tt : Nat) : Prop :=
  ∀ (l : Option LinkId) (s : State) (m : Msg), headMsg s l req = some m → bits m.h 3 0 = tt →
    ∃ t, exec (i l) s = .next t ∧
      (l ≠ none → bits m.h 63 48 ≠ rd s rt_NODEID →
        (bits m.h 19 14 = 0 → rd t rt_HOPDROP = (rd s rt_HOPDROP + 1) % 2 ^ 32 ∧ t.mem = s.mem ∧ t.kids = s.kids) ∧
        (∀ j : LinkId, 0 < bits m.h 19 14 → s.flip = none → tableLink s (bits m.h 63 48) = some j.val →
          (linkOf t j).outReq = (linkOf s j).outReq ++ (if req then chunks 8 true (bytesLE 16 (m.h - 2 ^ 14) ++ m.d) else []) ∧
          (linkOf t j).outRsp = (linkOf s j).outRsp ++ (if req then [] else chunks 8 true (bytesLE 16 (m.h - 2 ^ 14) ++ m.d)) ∧
          t.mem = s.mem ∧ t.regs = s.regs))

/-- R33, R345, R347 to R352, R359: the rows that serve messages; a request without SUP reaches nothing above shared memory; a QRET gives its
producer the bytes; completions and timeouts of requests. -/
def Obligations.LinkMessages : Prop :=
  Claims.servesMsg .read true 1 ∧ Claims.servesMsg .write true 2 ∧ Claims.servesMsg .atomic true 3 ∧ Claims.servesMsg .doorbell true 4 ∧
  Claims.servesMsg .clause true 5 ∧ Claims.servesMsg .qret false 6 ∧ Claims.servesMsg .rdcmp false 7 ∧ Claims.servesMsg .wrcmp false 8 ∧
  (∀ (l : Option LinkId) (s : State) (m : Msg), headMsg s l true = some m → bits m.h 63 48 = rd s rt_NODEID → bit m.h 13 = false →
    0x11_0000_0000 ≤ bits m.h 103 64 →
    (bits m.h 3 0 = 1 → ∃ t, exec (.read l) s = .next t ∧ t.mem = s.mem ∧ t.kids = s.kids ∧ t.prods = s.prods) ∧
    (bits m.h 3 0 = 2 → ∃ t, exec (.write l) s = .next t ∧ t.mem = s.mem ∧ t.kids = s.kids ∧ t.prods = s.prods) ∧
    (bits m.h 3 0 = 3 → ∃ t, exec (.atomic l) s = .next t ∧ t.mem = s.mem ∧ t.kids = s.kids ∧ t.prods = s.prods)) ∧
  (∀ (l : Option LinkId) (s : State) (m : Msg), headMsg s l true = some m → bits m.h 63 48 = rd s rt_NODEID → bits m.h 3 0 = 5 →
    (role s (bits m.h 78 64) ≠ 2 ∨ rd s qx_PEERNODE (bits m.h 78 64) ≠ bits m.h 47 32) →
    ∃ t, exec (.clause l) s = .next t ∧ rd t rt_BADQ = (rd s rt_BADQ + 1) % 2 ^ 32 ∧ t.cons = s.cons) ∧
  (∀ (l : Option LinkId) (s : State) (m : Msg) (e : EpId), headMsg s l false = some m → bits m.h 63 48 = rd s rt_NODEID →
    bits m.h 3 0 = 6 → bits m.h 78 64 = e.val → role s e = 1 → rd s qx_PEERNODE e = bits m.h 47 32 → epOpen s e = true →
    bit (ofBytesLE m.d) 31 = false →
    ∃ t, exec (.qret l) s = .next t ∧ prodOf t e = { prodOf s e with pfree := (prodOf s e).pfree + bits (ofBytesLE m.d) 26 0 } ∧
      t.regs = s.regs) ∧
  (∀ (l : Option LinkId) (s : State) (m : Msg), headMsg s l false = some m → bits m.h 63 48 = rd s rt_NODEID →
    alGet s.reqs (bits m.h 31 20) = none → bits m.h 107 104 ≠ 8 →
    (bits m.h 3 0 = 7 → ∃ t, exec (.rdcmp l) s = .next t ∧ rd t rt_LATECMP = (rd s rt_LATECMP + 1) % 2 ^ 32 ∧ t.rlog = s.rlog) ∧
    (bits m.h 3 0 = 8 → ∃ t, exec (.wrcmp l) s = .next t ∧ rd t rt_LATECMP = (rd s rt_LATECMP + 1) % 2 ^ 32 ∧ t.rlog = s.rlog)) ∧
  (∀ (tag : BitVec 12) (s : State) (r : Req), alGet s.reqs tag.toNat = some r → r.timed = false →
    (r.ttl ≠ 0 → exec (.timeout tag) s = .next s) ∧
    (r.ttl = 0 → ∃ t, exec (.timeout tag) s = .next t ∧
      (r.dead = false → rd t rt_TIMEOUTS = (rd s rt_TIMEOUTS + 1) % 2 ^ 32 ∧
        ∃ u, alGet t.reqs tag.toNat = some u ∧ u.dead = true ∧ u.timed = true) ∧
      (r.dead = true → t.regs = s.regs ∧ (r.came = false → alGet t.reqs tag.toNat = some { r with timed := true })))) ∧
  ∀ s : State, s.pow.deep = false → exec .rctlLogpop s = .next { s with rlog := s.rlog.drop 1, reply := .done } ∧
    ∃ t, exec .rctlCntclr s = .next t ∧ rd t rt_NOROUTE = 0 ∧ rd t rt_HOPDROP = 0 ∧ rd t rt_TIMEOUTS = 0 ∧ rd t rt_LATECMP = 0 ∧
      rd t rt_BADQ = 0 ∧ rd t rt_RLOST = 0 ∧ onlyRegs s t (fun k => k.blk = .routing)

/-! ### Host and boot -/

/-- R363 to R368, R371, R404: HOSTRING, PERST_N, configuration, the read timeout, and BAR accesses to the host and boot block and through an
aperture that is not valid. -/
def Claims.HostAndPins : Prop :=
  ∀ s : State,
    (blockOpen s 147 false → ∀ v : BitVec 6,
      (v.toNat < 4 → ∃ t, exec (.hostring v) s = .next t ∧ rd t hb_HFAULT_RSVV = 1 ∧ t.mem = s.mem) ∧
      (4 ≤ v.toNat → pcieUp s = false → exec (.hostring v) s = .next { s with reply := .done }) ∧
      (4 ≤ v.toNat → pcieUp s = true → rd s hb_MSIXMASK 0 v.toNat ≠ 1 →
        exec (.hostring v) s = .next { s with host := { s.host with msgs := s.host.msgs ++ [v.toNat] }, reply := .done }) ∧
      (4 ≤ v.toNat → pcieUp s = true → rd s hb_MSIXMASK 0 v.toNat = 1 → ∃ t, exec (.hostring v) s = .next t ∧
        rd t hb_MSIXPBA 0 v.toNat = 1 ∧ t.host = s.host)) ∧
    (∃ t, exec (.perstN false) s = .next t ∧ t.mem = s.mem ∧
      t.host = { s.host with perst := false, cfgOk := false, reads := [], ends := [], failed := none, aerCa := false, aerUr := false,
                             d3hot := false } ∧
      ∀ v : Fin 64, rd t hb_MSIXMASK 0 v = 1 ∧ rd t hb_MSIXPBA 0 v = 0 ∧ rd t hb_MSIXADDR 0 v = 0 ∧ rd t hb_MSIXDATA 0 v = 0) ∧
    (s.pow.deep = false → ∃ t, exec (.perstN true) s = .next t ∧ t = { s with host := { s.host with perst := true }, clk := t.clk } ∧
      (s.host.perst = false → since t .perst = 0)) ∧
    (s.pow.deep = true → rd s pm_PMSTAT_STATE ≠ 4 → s.host.perst = false → ∃ t, exec (.perstN true) s = .next t ∧ rd t rs_LASTRST = 5 ∧
      rd t hb_BOOTSTAT_PHASE = 1 ∧ t.pow.deep = false ∧ t.host.perst = true) ∧
    (s.host.perst = true → s.host.cfgOk = false → 2 ≤ rd s hb_BOOTSTAT_PHASE → s.pow.deep = false →
      (20_000_000 ≤ since s .perst → exec .pcieConfigReady s = .next { s with host := { s.host with cfgOk := true } }) ∧
      (since s .perst < 20_000_000 → exec .pcieConfigReady s = .next s)) ∧
    (∀ r rest, s.host.reads = r :: rest → r.age < hrdtoPeriods s → exec .hrdto s = .next s) ∧
    (∀ r rest, s.host.reads = r :: rest → hrdtoPeriods s ≤ r.age → ∃ t, exec .hrdto s = .next t ∧ t.reply = .ca ∧ t.host.reads = rest ∧
      t.host.aerCa = true ∧
      rd t hb_HTOCNT = (rd s hb_HTOCNT + 1) % 2 ^ 32 ∧ rd t hb_HERRCNT = (rd s hb_HERRCNT + 1) % 2 ^ 32 ∧
      rd t hb_HERRLAST = (r.off + 2 ^ 63 * b2n r.bar2) % 2 ^ 64) ∧
    (pcieUp s = true → s.held = [] → s.pow.deep = false →
      (blockOpen s 147 false →
        (∀ (off : BitVec 32) (n : BitVec 13), n ∈ [1#13, 2#13, 4#13, 8#13] → off.toNat < 0x1_0000 → off.toNat % n.toNat = 0 →
          ∃ t, exec (.barRead false off n) s = .next t ∧ t.reply = .data (regRead s .hostBoot 0 off.toNat n.toNat) ∧ t.regs = s.regs ∧
            t.mem = s.mem ∧ t.host.reads = s.host.reads) ∧
        ∀ v : BitVec 32, v.toNat < 2 ^ 29 → ∃ t, exec (.barWrite false 8 (bytesLE 4 v.toNat)) s = .next t ∧ t.reply = .done ∧
          rd t hb_HIMGLEN = v.toNat ∧ t.mem = s.mem) ∧
      ∀ off : BitVec 32, rd s hb_APVALID 0 (off.toNat / 2 ^ 28) ≠ 1 →
        (∀ n ∈ [1#13, 2#13, 4#13, 8#13], ∃ t, exec (.barRead true off n) s = .next t ∧ t.reply = .ur ∧ rd t hb_HFAULT_APINV = 1 ∧
          rd t hb_HERRCNT = (rd s hb_HERRCNT + 1) % 2 ^ 32 ∧ t.host.aerUr = true ∧ t.host.reads = s.host.reads ∧ t.mem = s.mem) ∧
        ∀ data : List Byte, data.length ∈ [1, 2, 4, 8] → ∃ t, exec (.barWrite true off data) s = .next t ∧ t.reply = .done ∧
          rd t hb_HFAULT_APINV = 1 ∧ rd t hb_HERRCNT = (rd s hb_HERRCNT + 1) % 2 ^ 32 ∧ t.mem = s.mem)

/-- What flash boot does with a code when it is over: host boot where BOOTSEL is 2, else FAILED (R371). -/
def Claims.flashOver (s t : State) (code : Nat) : Prop :=
  rd t hb_BOOTSTAT_CODE = code ∧
  (rd s hb_BOOTSTAT_SEL = 2 → rd t hb_BOOTSTAT_PHASE = 4 ∧ t.host.hostBoot = true ∧ rd t hb_BOOTSTAT_SRC = 1) ∧
  (rd s hb_BOOTSTAT_SEL ≠ 2 → rd t hb_BOOTSTAT_PHASE = 8)

/-- R43 to R48, R326, R327, R406, R420: POWER-ON and COLD resets, the end of INIT, the PLL. -/
def Claims.deviceResets : Prop :=
  ∀ s : State,
    (∃ t, exec .powerOnReset s = .next t ∧ t.otp = s.otp ∧ t.pending = s.pending ∧ rd t hb_BOOTSTAT_PHASE = 1 ∧ rd t rs_LASTRST = 1 ∧
      rd t rs_COLDS = 0 ∧ t.kids = [] ∧ t.axes = [] ∧ t.ports = [] ∧ t.links = [] ∧ t.held = [] ∧ t.tb = {} ∧ t.tap = {}) ∧
    exec (.resetN true) s = .next { s with pins := { s.pins with rstLow := 0 } } ∧
    (s.pins.rstLow ≠ 4 → ∃ t, exec (.resetN false) s = .next t ∧ t = { s with pins := { s.pins with rstLow := min 5 (s.pins.rstLow + 1) } }) ∧
    (s.pins.rstLow = 4 → ∃ t, exec (.resetN false) s = .next t ∧ t.pins.rstLow = 5 ∧ t.otp = s.otp ∧ rd t hb_BOOTSTAT_PHASE = 1 ∧
      rd t rs_LASTRST = 2 ∧ rd t rs_COLDS = satInc 65535 (rd s rs_COLDS) ∧ t.kids = [] ∧ t.axes = [] ∧ t.ports = [] ∧ t.links = [] ∧
      t.held = [] ∧ (s.pow.deep = false → t.tb.count = s.tb.count) ∧
      (∀ i : Fin 16, rd t lc_WBASE 0 i = rd s lc_WBASE 0 i ∧ rd t lc_WLEN 0 i = rd s lc_WLEN 0 i)) ∧
    (s.pins.pg ≠ 0x3FF ∨ s.pins.rstLow ≠ 0 → ∀ sel : BitVec 2, exec (.init sel) s = .next s) ∧
    (∀ sel : BitVec 2, s.pow.deep = false → rd s hb_BOOTSTAT_PHASE = 1 → s.pins.pg = 0x3FF → s.pins.rstLow = 0 →
      rd s pm_PMSTAT_STATE ≠ 4 → ∃ t, exec (.init sel) s = .next t ∧ t.otp.pend = none ∧ (s.otp.pend = none → t.otp = s.otp) ∧ rd t hb_BOOTSTAT_SEL = sel.toNat ∧
        (sel = 3 → rd t hb_BOOTSTAT_PHASE = 8 ∧ rd t hb_BOOTSTAT_CODE = 0x10) ∧ (sel ≠ 3 → rd t hb_BOOTSTAT_PHASE = 2) ∧
        t.host.hostBoot = decide (sel = 1) ∧ t.lc.dbg = defaultDebug t.otp.lcstate) ∧
    (s.pow.deep = false → rd s tb_TBSTAT_LOCK ≠ 1 → s.tb.runs = true ∨ rd s hb_BOOTSTAT_PHASE = 2 → rd s pm_PMSTAT_STATE ≠ 4 →
      ∃ t, exec .pllLock s = .next t ∧ rd t tb_TBSTAT_LOCK = 1 ∧ t.tb.runs = true ∧
        t.tb.count = (if s.tb.runs then s.tb.count else 0) ∧
        rd t hb_BOOTSTAT_PHASE = if rd s hb_BOOTSTAT_PHASE = 2 then 3 else rd s hb_BOOTSTAT_PHASE) ∧
    (since s .clock < 1_000_000 → exec .pllLockFail s = .next s) ∧
    (s.pow.deep = false → rd s hb_BOOTSTAT_PHASE = 2 → rd s pm_PMSTAT_STATE ≠ 4 → 1_000_000 ≤ since s .clock →
      ∃ t, exec .pllLockFail s = .next t ∧ rd t pm_PMSTAT_STATE = 4 ∧ rd t pm_PMSTAT_LASTFAIL = 11 ∧ rd t hb_BOOTSTAT_PHASE = 2)

/-- R371, R372, R378, R384, R385, R393, R421: WIPE, FETCH, BOOTCTL.GO, VERIFY, APPLY. -/
def Claims.bootPhases : Prop :=
  ∀ s : State, rd s pm_PMSTAT_STATE ≠ 4 →
    (rd s hb_BOOTSTAT_PHASE = 3 → ∃ t, exec .wipe s = .next t ∧
      (rd t hb_BOOTSTAT_PHASE = if 6 ≤ rd s rs_LASTRST then 5 else 4) ∧
      ∀ a, (0x10_0000_0000 ≤ a ∨ s.host.wipeFull = true → memGet t.mem a = 0) ∧
        (a < 0x10_0000_0000 → s.host.wipeFull = false →
          let listed := ∃ i, i < 16 ∧ rd s lc_WBASE 0 i * 4096 ≤ a ∧ a < (rd s lc_WBASE 0 i + rd s lc_WLEN 0 i) * 4096
          (listed → rd s rs_LASTRST < 6 ∨ 0x1000_0000 ≤ a → memGet t.mem a = 0) ∧
          (¬ listed ∨ (6 ≤ rd s rs_LASTRST ∧ a < 0x1000_0000) → memGet t.mem a = memGet s.mem a))) ∧
    (rd s hb_BOOTSTAT_PHASE = 4 → s.host.hostBoot = false →
      (∃ t, exec .dataStrobeTimeout s = .next t ∧ Claims.flashOver s t 0x11 ∧ t.mem = s.mem) ∧
      ∀ (slotB : Bool) (loc img : List Byte), rdb s hb_BOOTSTAT_SLOT = slotB → ∃ t, exec (.fetch slotB loc img) s = .next t ∧
        (slotB = false → locatorOk loc = false → Claims.flashOver s t 0x12 ∧ t.mem = s.mem) ∧
        (slotB = true ∨ locatorOk loc = true → img.length ≤ 2 ^ 28 → rd t hb_BOOTSTAT_PHASE = 5 ∧ t.host.flashTry = true)) ∧
    (blockOpen s 147 false →
      let ready := (rd s hb_BOOTSTAT_PHASE = 4 ∧ s.host.hostBoot = true) ∨ (rd s hb_BOOTSTAT_PHASE = 8 ∧ rd s hb_BOOTSTAT_SEL ≠ 3)
      ∃ t, exec .bootctlGo s = .next t ∧ t.mem = s.mem ∧
        (ready → rd s hb_HIMGLEN = 0 → rd t hb_BOOTSTAT_PHASE = 8 ∧ rd t hb_BOOTSTAT_CODE = 0x14) ∧
        (ready → rd s hb_HIMGLEN ≠ 0 → rd t hb_BOOTSTAT_PHASE = 5 ∧ rd t hb_BOOTSTAT_SRC = 1) ∧
        (¬ ready → rd t hb_BOOTSTAT_PHASE = rd s hb_BOOTSTAT_PHASE ∧ rd t hb_HFAULT_BUSYGO = 1)) ∧
    (rd s hb_BOOTSTAT_PHASE = 5 → ∃ t, exec .verify s = .next t ∧ t.otp = s.otp ∧
      (∀ img, (stagedImage s).1 = some img →
        ((verdict (stagedImage s).2 img).1 = 0 → rd t hb_BOOTSTAT_PHASE = 6 ∧ rd t lc_VDETAIL_REASON = 0) ∧
        ((verdict (stagedImage s).2 img).1 ≠ 0 → s.host.flashTry = false →
          rd t hb_BOOTSTAT_PHASE = 8 ∧ rd t hb_BOOTSTAT_CODE = (verdict (stagedImage s).2 img).1) ∧
        ((verdict (stagedImage s).2 img).1 ≠ 0 → s.host.flashTry = true → rd s hb_BOOTSTAT_SLOT = 0 → leAt s.host.loc 12 4 ≠ 0 →
          rd t hb_BOOTSTAT_PHASE = 4 ∧ rd t hb_BOOTSTAT_SLOT = 1)) ∧
      ((stagedImage s).1 = none → s.host.flashTry = false →
        rd t hb_BOOTSTAT_PHASE = 8 ∧ rd t hb_BOOTSTAT_CODE = 0x30 ∧ rd t lc_VDETAIL_REASON = 15)) ∧
    (rd s hb_BOOTSTAT_PHASE = 6 → ∃ t, exec .apply s = .next t ∧ (s.held = [] →
      (∀ img, (stagedImage s).1 = some img → rd t hb_BOOTSTAT_PHASE = 7 ∧ rd t hb_BOOTTIME = now s ∧ rd t gg_ENAST = 0 ∧
        rd t lc_IMGSLOT = keySlot img % 8 ∧
        t.otp = (if bit (imgFlags img) 0 then { s.otp with svn := max s.otp.svn (imgSvn img) } else s.otp)) ∧
      ((stagedImage s).1 = none → rd t hb_BOOTSTAT_PHASE = 8 ∧ rd t hb_BOOTSTAT_CODE = 0x30 ∧ rd t lc_VDETAIL_REASON = 15)))

/-- Resets of the device and the phases of its boot. -/
def Obligations.ResetsAndBootPhases : Prop := Claims.deviceResets ∧ Claims.bootPhases

/-! ### Lifecycle -/

/-- A request of kind k has ended with an LCRES code and OTP as it was. -/
def Claims.ended (s t : State) (code : Nat) : Prop :=
  rd t lc_LCRES = code ∧ rd t lc_LCBUSY = 0 ∧ t.lc.busy = none ∧ t.otp = s.otp

/-- A change of the lifecycle state to st begins: FAULT-HOLD, with the record of the write in OTP (R392, R394). -/
def Claims.moves (s t : State) (st : Nat) (key : Option (Nat × Nat)) : Prop :=
  t.otp = { s.otp with pend := some (st, key) } ∧ rd t pm_PMSTAT_STATE = 4 ∧ t.lc.writing = true ∧ t.lc.busy = none ∧
    rd t lc_LCBUSY = rd s lc_LCBUSY

/-- The OTP write of a change to st has ended: a COLD reset of cause 4, with the next wipe full (R392). -/
def Claims.moved (s t : State) (st : Nat) (key : Option (Nat × Nat)) : Prop :=
  t.otp.lcstate = st ∧ t.otp.pend = none ∧ rd t rs_LASTRST = 4 ∧ rd t hb_BOOTSTAT_PHASE = 1 ∧ rd t pm_PMSTAT_STATE = 0 ∧
    t.host.wipeFull = true ∧ t.lc.dbg = defaultDebug st ∧ t.lc.writing = false ∧
    (∀ slot hash, key = some (slot, hash) → alGet t.otp.keys slot = some hash) ∧
    (st = 4 → t.otp.devKey = none) ∧ (st = 1 → t.otp.devKey ≠ none) ∧
    t.otp.returns + (if s.otp.lcstate = 3 ∧ st = 2 then min 1 s.otp.returns else 0) = s.otp.returns

/-- R387 to R392, R394, R395: how lifecycle requests end; a change of the lifecycle state is complete within 5 ms, or 2 s for provisioning. -/
def Obligations.LifecycleRequests : Prop :=
  (∀ (s : State) (b : List Byte), s.pow.want = none → s.otp.pend = none →
    let p := payload b
    (s.lc.busy = some (.claim, b) → ∃ t, exec .claim s = .next t ∧
      let slot := leAt p 32 1
      (reqCheck s .claim b ≠ 0 → Claims.ended s t (reqCheck s .claim b)) ∧
      (reqCheck s .claim b = 0 → slot = 0 ∨ 4 < slot → Claims.ended s t 4) ∧
      (reqCheck s .claim b = 0 → s.otp.lcstate = 1 → slot = 1 → Claims.moves s t 2 (some (1, leAt p 0 32))) ∧
      (reqCheck s .claim b = 0 → s.otp.lcstate ≠ 1 → 1 ≤ slot → slot ≤ 4 → alGet s.otp.keys slot = none →
        rd t lc_LCRES = 1 ∧ t.otp = { s.otp with keys := alSet s.otp.keys slot (leAt p 0 32) })) ∧
    (s.lc.busy = some (.advance, b) → ∃ t, exec .advance s = .next t ∧
      let dest := leAt p 0 1
      let st := s.otp.lcstate
      let allowed := (st = 1 ∧ dest = 4) ∨ (st = 2 ∧ (dest = 3 ∨ dest = 4)) ∨ (st = 3 ∧ dest = 4)
      (reqCheck s .advance b ≠ 0 → Claims.ended s t (reqCheck s .advance b)) ∧
      (reqCheck s .advance b = 0 → allowed → Claims.moves s t dest none) ∧
      (reqCheck s .advance b = 0 → st = 3 → dest = 2 → s.otp.returns = 0 → Claims.ended s t 7) ∧
      (reqCheck s .advance b = 0 → st = 3 → dest = 2 → 0 < s.otp.returns → Claims.moves s t 2 none) ∧
      (reqCheck s .advance b = 0 → ¬ allowed → ¬ (st = 3 ∧ dest = 2) → Claims.ended s t 3)) ∧
    (s.lc.busy = some (.revoke, b) → ∃ t, exec .revoke s = .next t ∧
      let slot := leAt p 0 1
      (reqCheck s .revoke b ≠ 0 → Claims.ended s t (reqCheck s .revoke b)) ∧
      (reqCheck s .revoke b = 0 → slot = 0 ∨ 4 < slot → Claims.ended s t 4) ∧
      (reqCheck s .revoke b = 0 → 1 ≤ slot → slot ≤ 4 → slot = keySlot b → Claims.ended s t 3) ∧
      (reqCheck s .revoke b = 0 → 1 ≤ slot → slot ≤ 4 → s.otp.lcstate = 2 ∨ s.otp.lcstate = 3 → slot ≠ keySlot b →
        alGet s.otp.keys slot ≠ none → rd t lc_LCRES = 1 ∧ slot ∈ t.otp.revoked ∧ t.otp.keys = s.otp.keys)) ∧
    (s.lc.busy = some (.debug, b) → ∃ t, exec .debug s = .next t ∧
      let lvl := leAt p 0 1
      (reqCheck s .debug b ≠ 0 → Claims.ended s t (reqCheck s .debug b) ∧ t.lc.dbg = s.lc.dbg) ∧
      (reqCheck s .debug b = 0 → tokenLevel s.otp.lcstate < lvl → Claims.ended s t 3 ∧ t.lc.dbg = s.lc.dbg) ∧
      (reqCheck s .debug b = 0 → lvl ≤ tokenLevel s.otp.lcstate → leAt p 8 32 ≠ Config.random256 s.lc.nonce % 2 ^ 256 →
        Claims.ended s t 6 ∧ t.lc.dbg = s.lc.dbg) ∧
      (reqCheck s .debug b = 0 → lvl ≤ tokenLevel s.otp.lcstate → leAt p 8 32 = Config.random256 s.lc.nonce % 2 ^ 256 →
        rd t lc_LCRES = 1 ∧ t.lc.dbg = lvl ∧ t.otp = s.otp)) ∧
    (s.lc.busy = some (.attest, b) → ∃ t, exec .attest s = .next t ∧ t.otp = s.otp ∧
      (s.otp.devKey = none → rd t lc_LCRES = 3) ∧
      (s.otp.devKey ≠ none → rd t lc_LCRES = 1 ∧ rd t lc_REPORT 0 0 % 2 ^ 32 = 0x5441_4C4E)) ∧
    (blockOpen s 148 false → ∃ t, exec .provgo s = .next t ∧
      (s.otp.lcstate ≠ 0 → rd t lc_LCFAULT_RSVW = 1 ∧ t.otp = s.otp) ∧
      (s.otp.lcstate = 0 → rd s lc_VKEYHASH = 0 → rd t lc_LCFAULT_BUSYGO = 1 ∧ t.otp = s.otp) ∧
      (s.otp.lcstate = 0 → rd s lc_VKEYHASH ≠ 0 → s.lc.writing = false → Claims.moves s t 1 (some (0, rd s lc_VKEYHASH))))) ∧
  ∀ (s : State) (st : Nat) (key : Option (Nat × Nat)), s.lc.writing = true → s.otp.pend = some (st, key) →
    (∃ n, (lcTick s = { s with fresh := n } ∧ since s .otp < otpLimit st) ∨ lcTick s = otpDone { s with fresh := n }) ∧
    ∀ n, Claims.moved s (otpDone { s with fresh := n }) st key

/-! ### Resets -/

/-- A herd in reset: its kids are in KID reset with registers of zero, no source is pending, and its shared memory reads as zero below 0x3_2000. -/
def Claims.herdReset (t : State) (h : Nat) : Prop :=
  t.rst.herds.contains h = true ∧
    (∀ k : KidId, k.val / 64 = h → kstate t k = 3 ∧ kregs t k = Vector.replicate 16 0 ∧ (kidOf t k).pc = 0 ∧ (kidOf t k).sbuf = []) ∧
    (∀ i : Fin 32, rd t hd_PEND h i = 0 ∧ rd t hd_ACTIVE h i = 0) ∧
    ∀ a, 0x10_0000_0000 + h * 0x4_0000 ≤ a → a < 0x10_0000_0000 + h * 0x4_0000 + 0x3_2000 → memGet t.mem a = 0

/-- R420 to R422, R426 to R428: WARM, HERD and DOMAIN resets and their ends. -/
def Obligations.ResetsOfHerdsAndDomains : Prop :=
  (∀ (s : State) (byKid : Bool), s.pow.deep = false → ∃ t, exec (.warm byKid) s = .next t ∧
    let may := (rd s hb_BOOTSTAT_PHASE = 7 ∨ rd s hb_BOOTSTAT_PHASE = 8) ∧ s.otp.pend = none
    (may → rd t rs_LASTRST = (if byKid then 7 else 6) ∧ rd t rs_WARMS = satInc 65535 (rd s rs_WARMS) ∧ rd t hb_BOOTSTAT_PHASE = 3 ∧
      t.kids = [] ∧ t.ports = [] ∧ t.links = [] ∧ t.axes = [] ∧ t.otp = s.otp ∧ t.tb.count = s.tb.count) ∧
    (¬ may → rd t rs_RSTFAULT_BUSYGO = 1 ∧ onlyRegs s t (fun k => k = rs_RSTFAULT_BUSYGO.key 0 0))) ∧
  (∀ (s : State) (h : HerdId), s.pow.deep = false → rd s rs_RSTHERD = h.val → ∃ t, exec .herdgo s = .next t ∧
    (widerHerd s h = true → rd t rs_RSTFAULT_BUSYGO = 1 ∧ t.kids = s.kids ∧ t.mem = s.mem) ∧
    (widerHerd s h = false → Claims.herdReset t h)) ∧
  (∀ (s : State) (h : HerdId), since s (.herd h) < 8000 → exec (.herdResetEnds h) s = .next s) ∧
  (∀ (s : State) (d : DomId), since s (.domReset d) < 2000 → exec (.domainResetEnds d) s = .next s) ∧
  (∀ (s : State) (h : HerdId), h.val ∈ s.rst.herds → 8000 ≤ since s (.herd h) → pstate s (herdDom h) = 0 → herdDom h ∉ s.rst.doms → s.rst.inReset = false →
    ∃ t, exec (.herdResetEnds h) s = .next t ∧ (s.held = [] → t.rst.herds.contains h.val = false ∧
      (∀ k : KidId, k.val / 64 = h.val → kstate t k = if rd s kc_KCTL_RSTHOLD k = 1 then kstate s k else 0) ∧
      (∀ m ∈ (hdcOf s h).msgs, srcBit t hd_PEND h m.toNat = true) ∧ (hdcOf t h).msgs = [])) ∧
  (∀ (s : State) (d : DomId), s.pow.deep = false → rd s rs_RSTDOM = d.val → ∃ t, exec .domgo s = .next t ∧
    (domGoOk d = false → rd t rs_RSTFAULT_REFUSED = 1 ∧ t.kids = s.kids ∧ t.mem = s.mem) ∧
    (domGoOk d = true → s.rst.inReset = true → rd t rs_RSTFAULT_BUSYGO = 1 ∧ t.kids = s.kids ∧ t.mem = s.mem) ∧
    (domGoOk d = true → s.rst.inReset = false → d.val ∈ t.rst.doms ∧ (pstate s d = 0 → pstate t d = 3) ∧ (pstate s d = 1 → pstate t d = 2) ∧
      ∀ h ∈ domHerds d, Claims.herdReset t h)) ∧
  ∀ (s : State) (d : DomId), d.val ∈ s.rst.doms → pstate s d = 3 → 2000 ≤ since s (.domReset d) → ∃ t, exec (.domainResetEnds d) s = .next t ∧ (s.held = [] →
    t.rst.doms.contains d.val = false ∧
    (rd s pd_DSTAT_TRIMFAIL d = 1 ∨ s.pow.trip = true → pstate t d = 3) ∧
    (rd s pd_DSTAT_TRIMFAIL d ≠ 1 → s.pow.trip = false → pstate t d = 0 ∧
      ∀ k : KidId, herdDom (k.val / 64) = d.val → rd s kc_KCTL_RSTHOLD k ≠ 1 → kstate t k = 0))

/-! ### Power and margins -/

/-- R402 to R405, R419: the device states that software asks for. WATCH is left 100 µs after the request, once every power-good input is
asserted. -/
def Obligations.DeviceStatesAsked : Prop :=
  (∀ (s : State) (st : Nat) (asked : Bool), s.pow.want = some (st, asked) → st < 2 → rd s pm_PMSTAT_STATE = 2 →
    (s.pins.pg ≠ 0x3FF ∨ since s .rise < 100_000 → watchTick s = s) ∧
    (s.pins.pg = 0x3FF → 100_000 ≤ since s .rise → rd (watchTick s) pm_PMSTAT_STATE = st ∧ rd (watchTick s) pm_PMSTAT_BUSY = 0 ∧
      (watchTick s).pow.want = none ∧ (asked = true → rd (watchTick s) pm_PMSTAT_RES = 1))) ∧
  ∀ s : State, s.pow.deep = false →
    (rd s pm_PMSTAT_BUSY = 1 → ∀ i ∈ [Instr.reqRun, .reqDoze, .reqWatch, .reqDeep], ∃ t, exec i s = .next t ∧ rd t pm_PMFAULT_BUSYGO = 1 ∧
      rd t pm_PMSTAT_STATE = rd s pm_PMSTAT_STATE ∧ t.pow = s.pow) ∧
    (rd s pm_PMSTAT_BUSY ≠ 1 →
      (rd s pm_PMSTAT_STATE = 4 → ∀ i ∈ [Instr.reqRun, .reqDoze, .reqWatch, .reqDeep], ∃ t, exec i s = .next t ∧ rd t pm_PMSTAT_RES = 3 ∧
        rd t pm_PMSTAT_STATE = 4 ∧ t.pow = s.pow) ∧
      (rd s pm_PMSTAT_STATE = 1 → ∃ t, exec .reqRun s = .next t ∧ rd t pm_PMSTAT_STATE = 0 ∧ rd t pm_PMSTAT_RES = 1 ∧ t.pow = s.pow) ∧
      (rd s pm_PMSTAT_STATE = 0 →
        (∃ t, exec .reqRun s = .next t ∧ rd t pm_PMSTAT_STATE = 0 ∧ rd t pm_PMSTAT_RES = 3) ∧
        ∃ t, exec .reqDoze s = .next t ∧ rd t pm_PMSTAT_STATE = 1 ∧ rd t pm_PMSTAT_RES = 1 ∧ t.pow = s.pow) ∧
      (rd s pm_PMSTAT_STATE = 2 →
        (∃ t, exec .reqRun s = .next t ∧ rd t pm_PMSTAT_STATE = 2 ∧ rd t pm_PMSTAT_BUSY = 1 ∧ t.pow.want = some (0, true) ∧
          since t .rise = 0) ∧
        ∃ t, exec .reqDoze s = .next t ∧ rd t pm_PMSTAT_STATE = 2 ∧ rd t pm_PMSTAT_BUSY = 1 ∧ t.pow.want = some (1, true) ∧
          since t .rise = 0) ∧
      (rd s pm_PMSTAT_STATE < 2 → allQuiet s = false → ∀ i ∈ [Instr.reqWatch, .reqDeep], ∃ t, exec i s = .next t ∧ rd t pm_PMSTAT_RES = 2 ∧
        rd t pm_PMSTAT_STATE = rd s pm_PMSTAT_STATE ∧ t.pow = s.pow) ∧
      (rd s pm_PMSTAT_STATE < 2 → allQuiet s = true → ∃ t, exec .reqWatch s = .next t ∧ rd t pm_PMSTAT_STATE = 2 ∧ rd t pm_PMSTAT_RES = 1 ∧
        (∀ d, d < 144 → pstate s d = 0 → pstate t d = 1) ∧
        (∀ r, r < 5 → rd s pm_AVSERR 0 r ≠ 1 → rd t pm_VSET 0 r = rd s pm_VMIN 0 r % 2 ^ 12)) ∧
      (rd s pm_PMSTAT_STATE < 3 → allQuiet s = true →
        (s.lc.busy = none → ∃ t, exec .reqDeep s = .next t ∧ t.pow.deep = true ∧ t.kids = [] ∧ t.ports = [] ∧ t.otp = s.otp) ∧
        (s.lc.busy ≠ none → ∃ t, exec .reqDeep s = .next t ∧ t.pow.deep = false ∧ rd t pm_PMSTAT_BUSY = 1 ∧ t.kids = s.kids)))

/-- R400, R401, R404 to R409: gating and waking of domains, WATCH, DEEP, the wait for power. -/
def Claims.gatesAndWakes : Prop :=
  (∀ (s : State) (d : DomId), canGate s d = true → ∃ t, exec (.gate d) s = .next t ∧ pstate t d = 1 ∧
    rd t pd_GATES d = (rd s pd_GATES d + 1) % 2 ^ 32 ∧ t = { s with regs := t.regs }) ∧
  (∀ (s : State) (d : DomId) (bad : List BankId) (m : Meas), pstate s d = 2 → s.pow.deep = false → wakeBanksOk d bad = true → m.dom = d →
    (since s (.wake d) < wakeDelay d → exec (.wakeUp d bad m) s = .next s) ∧
    (wakeDelay d ≤ since s (.wake d) → ∃ t, exec (.wakeUp d bad m) s = .next t ∧ (s.held = [] → rd t pd_WAKES d = (rd s pd_WAKES d + 1) % 2 ^ 32 ∧
      (bad ≠ [] → rd t pm_MNOTE_RETLOST = 1) ∧
      ((rd s pm_SLACKMIN : Int) ≤ leastSlack m → pstate t d = if d.val ∈ s.rst.doms then 3 else 0)))) ∧
  (∀ (s : State) (temps : List (BitVec 16)) (pins : BitVec 16) (ports : List WatchSample), rd s pm_PMSTAT_STATE = 2 →
    rd s pm_PMSTAT_BUSY ≠ 1 → s.pow.deep = false → max 1 (rd s pm_WPERIOD) * 1_000_000 ≤ since s .pass →
    ∃ t, exec (.samplePass temps pins ports) s = .next t ∧ t.pow.first = false ∧ since t .pass = 0 ∧
      (∀ i : Fin 5, rd t pm_TEMP 0 i = (temps.getD i 0).toNat) ∧
      ((∀ i, i < 16 → rd s pm_WSEL 0 i = 0) → rd t pm_PMSTAT_STATE = 2 ∧ t.kids = s.kids) ∧
      (∀ i : Fin 16, rd s pm_WSEL 0 i = 2 → rd s pm_WREL 0 i ≠ 1 → rd s pm_WIDX 0 i < 5 →
        (temps.getD (rd s pm_WIDX 0 i) 0).toInt < sext 32 (rd s pm_WLO 0 i) ∨
          sext 32 (rd s pm_WHI 0 i) < (temps.getD (rd s pm_WIDX 0 i) 0).toInt →
        rd t pm_WHIT 0 i = 1 ∧ rd t pm_PMSTAT_BUSY = 1 ∧ t.pow.want = some (0, false))) ∧
  (∀ s : State, s.pow.deep = true → rd s pm_PMSTAT_STATE ≠ 4 →
    (s.host.perst = false → ∃ t, exec (.deepwake none) s = .next t ∧ rd t rs_LASTRST = 5 ∧ rd t hb_BOOTSTAT_PHASE = 1 ∧ t.pow.deep = false) ∧
    ∀ i : Fin 16, bit (rd s pm_DEEPWAKE) i = true → ∃ t, exec (.deepwake (some i)) s = .next t ∧ rd t rs_LASTRST = 5 ∧
      rd t hb_BOOTSTAT_PHASE = 1 ∧ t.pow.deep = false) ∧
  ∀ (s : State) (i : Fin 10),
    (i.val ∉ s.pow.rising ∨ since s .rise < max 1 (rd s pm_WAKETO) * 1_000_000 → exec (.waketo i) s = .next s) ∧
    (i.val ∈ s.pow.rising → s.pow.deep = false → rd s pm_PMSTAT_STATE ≠ 4 → max 1 (rd s pm_WAKETO) * 1_000_000 ≤ since s .rise →
    ∃ t, exec (.waketo i) s = .next t ∧ rd t pm_PMSTAT_STATE = 4 ∧ rd t pm_PMSTAT_LASTFAIL = i.val + 1 ∧ t.pow.want = none)

/-- R45, R303, R406, R410, R411, R413 to R416, R471: power-good inputs, supply warnings, brown stops, temperature, the margin loop, AVSBus, RETRY. -/
def Claims.supplyAndMargins : Prop :=
  (∀ (s : State) (i : Fin 10) (up : Bool), ∃ t, exec (.powerGood i up) s = .next t ∧ bit t.pins.pg i = up ∧
    (∀ j : Fin 10, j ≠ i → bit t.pins.pg j = bit s.pins.pg j) ∧
    (up = false → i.val < 9 → s.pow.deep = false → rd s pm_PMSTAT_STATE ≠ 4 → 1 < rd s hb_BOOTSTAT_PHASE → warns t i = true)) ∧
  (∀ (s : State) (m : Fin 9), s.pow.deep = false →
    (warns s m = false → ∃ t, exec (.supplyWarning m) s = .next t ∧ warns t m = true ∧ bit (rd t pm_SUPSTAT) m = true ∧
      ∀ d, d < 152 → onRail m d = true → rd t pd_DSTAT_TAP d = 15) ∧
    ∃ t, exec (.vrst m) s = .next t ∧ rd t rs_LASTRST = 3 ∧ rd t hb_BOOTSTAT_PHASE = 1 ∧ t.otp = s.otp) ∧
  (∀ (s : State) (m : Fin 9), warns s m = true →
    (∀ (low : Byte) (dur : BitVec 24), ∃ t, exec (.warningEnds m low dur) s = .next t ∧ warns t m = false ∧
      bit (rd t pm_SUPSTAT) m = false ∧ rd t pm_WARNCNT 0 m = (rd s pm_WARNCNT 0 m + 1) % 2 ^ 32 ∧ bits (rd t pm_SUPLAST) 7 0 = m.val ∧
      bits (rd t pm_SUPLAST) 15 8 = low.toNat ∧ (s.pow.brown = [m.val] → rd t gg_BRACTIVE = 0)) ∧
    (m.val ∉ s.pow.brown → max 1 (rd s pm_VWDUR) * 1000 ≤ since s (.warn m) → ∃ t, exec (.brownStop m) s = .next t ∧ m.val ∈ t.pow.brown ∧ rd t gg_BRACTIVE = 1 ∧ rd t gg_BRSEEN = 1 ∧
      rd t pm_BROWNCNT = (rd s pm_BROWNCNT + 1) % 2 ^ 32) ∧
    (since s (.warn m) < max 1 (rd s pm_VWDUR) * 1000 → exec (.brownStop m) s = .next s)) ∧
  (∀ (s : State) (m : Fin 9) (ms : List Meas), m.val ∈ s.pow.back → 10_000 ≤ since s (.warn m) → ∃ t, exec (.tapsReturn m ms) s = .next t ∧ m.val ∉ t.pow.back ∧
    (ms = [] → ∀ d, d < 152 → onRail m d = true → warned t d = false → rd t pd_DSTAT_TAP d = trimOf s d % 16)) ∧
  (∀ (s : State) (k : Fin 4) (temp : BitVec 16),
    (s.pow.deep = false → k.val ∉ s.pow.hot → (rd s pm_TWARN * 4 : Nat) < temp.toInt → ∃ t, exec (.twarn k temp) s = .next t ∧
      k.val ∈ t.pow.hot ∧ rd t pm_MNOTE_THERM = 1 ∧ rd t pm_TEMP 0 k = temp.toNat) ∧
    (k.val ∈ s.pow.hot → temp.toInt ≤ (rd s pm_TWARN : Int) * 4 - 12 → ∃ t, exec (.thermalWarningEnd k temp) s = .next t ∧
      k.val ∉ t.pow.hot ∧ rd t pm_TEMP 0 k = temp.toNat)) ∧
  (∀ s : State, s.pow.trip = false → ∃ t, exec .thermtripN s = .next t ∧ rd t pm_PMSTAT_STATE = 4 ∧ t.pow.trip = true ∧
    ∀ d, d < 144 → pstate t d = 3) ∧
  (∀ (s : State) (ms : List Meas), rd s pm_PMSTAT_STATE ≤ 1 → s.pow.deep = false →
    (∀ d, d < 152 → pstate s d = 0 → ∃ m ∈ ms, m.dom.val = d) → max 1 (rd s pm_MPERIOD) * 1_000_000 ≤ since s .loop →
    ∃ t, exec (.marginLoop ms) s = .next t ∧ t.otp = s.otp ∧ since t .loop = 0 ∧
      ∀ r, r < 6 → (rd s pm_AVSERR 0 r = 1 → rd t pm_VSET 0 r = rd s pm_VSET 0 r) ∧
        (rd s pm_VMAX 0 r < 4096 → rd s pm_VMIN 0 r ≤ rd s pm_VSET 0 r → rd s pm_VSET 0 r ≤ rd s pm_VMAX 0 r →
          rd s pm_VMIN 0 r ≤ rd t pm_VSET 0 r ∧ rd t pm_VSET 0 r ≤ rd s pm_VMAX 0 r)) ∧
  (∀ (s : State) (port : Fin 4) (ok : Bool), (alGet s.pow.tries port.val).getD 0 = 0 ∨ 10_000 ≤ since s (.avs port) →
    ∃ t, exec (.avsRetry port ok) s = .next t ∧
    let rails := if port.val = 0 then [0, 1] else if port.val = 1 then [2, 3] else if port.val = 2 then [4] else [5]
    (ok = true → (∀ r ∈ rails, rd t pm_AVSERR 0 r = 0) ∧ alGet t.pow.tries port.val = some 0) ∧
    (ok = false → (alGet s.pow.tries port.val).getD 0 < 2 → alGet t.pow.tries port.val = some ((alGet s.pow.tries port.val).getD 0 + 1) ∧
      t.regs = s.regs) ∧
    (ok = false → 2 ≤ (alGet s.pow.tries port.val).getD 0 → (∀ r ∈ rails, rd t pm_AVSERR 0 r = 1) ∧ rd t pm_MNOTE_AVSERR = 1)) ∧
  ∀ (s : State) (d : DomId) (m : Meas), s.pow.deep = false → ∃ t, exec (.retry d m) s = .next t ∧ (s.held = [] →
    (rd s pd_DSTAT_TRIMFAIL d ≠ 1 → t = { s with reply := .done }) ∧
    (rd s pd_DSTAT_TRIMFAIL d = 1 → leastSlack m < rd s pm_SLACKMIN → rd t pd_DSTAT_TRIMFAIL d = 1 ∧ pstate t d = pstate s d) ∧
    (rd s pd_DSTAT_TRIMFAIL d = 1 → (rd s pm_SLACKMIN : Int) ≤ leastSlack m → rd t pd_DSTAT_TRIMFAIL d = 0 ∧
      (s.pow.trip = false → pstate t d = 0)))

/-- Power domains, supplies, temperature and margins. -/
def Obligations.PowerAndMargins : Prop := Claims.gatesAndWakes ∧ Claims.supplyAndMargins

/-! ### Test and service -/

/-- R429 to R436: herd fences, self-test, substitution. -/
def Obligations.HerdService : Prop :=
  (∀ (s : State) (h : HerdId), blockOpen s (herdDom h) (s.rst.herds.contains h.val) →
    (∃ t, exec (.hctlFence h) s = .next t ∧
      (rd s hf_HSTAT_FENCE h = 0 → rd t hf_HSTAT_FENCE h = 1 ∧ ∀ k : KidId, k.val / 64 = h.val → kstate s k = 1 → kstate t k = 2) ∧
      (rd s hf_HSTAT_FENCE h ≠ 0 → t = { s with reply := .done })) ∧
    (∃ t, exec (.hctlLift h) s = .next t ∧
      (s.held = [] → rd t hf_HSTAT_FENCE h = 0 ∧ onlyRegs s t (fun k => k = hf_HSTAT_FENCE.key h 0))) ∧
    ∃ t, exec (.hctlBistgo h) s = .next t ∧ t.kids = s.kids ∧ t.mem = s.mem ∧
      (rd s hf_HSTAT_BISTRUN h = 1 → rd t hf_HFFAULT_BUSYGO h = 1) ∧
      (rd s hf_HSTAT_BISTRUN h ≠ 1 → rd s hf_HSTAT_FENCE h = 2 → rd t hf_HSTAT_BISTRUN h = 1) ∧
      (rd s hf_HSTAT_BISTRUN h ≠ 1 → rd s hf_HSTAT_FENCE h ≠ 2 → rd t hf_BISTRES h = 3 ∧ rd t hf_HSTAT_BISTRUN h = rd s hf_HSTAT_BISTRUN h)) ∧
  (∀ (s : State) (h : HerdId), rd s hf_HSTAT_FENCE h = 1 → (∀ k : KidId, k.val / 64 = h.val → 2 ≤ kstate s k) →
    (oryxOf s h).fifo = [] → s.reqs = [] → ∃ t, exec (.fenced h) s = .next t ∧ rd t hf_HSTAT_FENCE h = 2 ∧
      onlyRegs s t (fun k => k = hf_HSTAT_FENCE.key h 0)) ∧
  (∀ (s : State) (h : HerdId) (kidf : BitVec 64) (memf : BitVec 20) (row : BitVec 24) (spareFail : BitVec 2),
    rd s hf_HSTAT_BISTRUN h = 1 → ∃ t, exec (.selfTest h kidf memf row spareFail) s = .next t ∧ rd t hf_HSTAT_BISTRUN h = 0 ∧
      rd t hf_BISTKIDF h = kidf.toNat ∧ rd t hf_BISTMEMF_SHARED h = memf.toNat % 2 ^ 16 ∧
      (rd t hf_BISTRES h = if kidf = 0 ∧ memf = 0 ∧ spareFail = 0 then 1 else 2) ∧
      (∀ k : KidId, k.val / 64 = h.val → kstate t k = 3 ∧ rd t kc_KCTL_RSTHOLD k = 1) ∧
      ∀ a w, locOf a = some w → ownerHerd w.bank = some h.val → memGet t.mem a = 0) ∧
  (∀ s : State, blockOpen s 149 false → ∃ t, exec .subgo s = .next t ∧
    (rd s ts_SUBBUSY = 1 → rd t ts_TSTFAULT_BUSYGO = 1 ∧ t.sub = s.sub) ∧
    (rd s ts_SUBBUSY ≠ 1 → rd t ts_SUBBUSY = 1 ∧ t.sub = some (rd s ts_SUBKID, rd s ts_SUBSPARE, rd s ts_SUBCOPY))) ∧
  ∀ (s : State) (k : KidId) (spare : Fin 2) (copy : Fin 8), s.sub = some (k.val, spare.val, copy.val) →
    (since s .sub < subTime copy → exec .substitution s = .next s) ∧
    (subTime copy ≤ since s .sub → ∃ t, exec .substitution s = .next t ∧ t.sub = none ∧ rd t ts_SUBBUSY = 0 ∧
      (subRes s k spare ≠ 0 → rd t ts_SUBRES = subRes s k spare ∧ t.kids = s.kids ∧ t.mem = s.mem) ∧
      (subRes s k spare = 0 → copy.val % 4 = 0 → rd t ts_SUBRES = 1 ∧ (kidOf t k).pos = some (64 + spare.val) ∧
        (copy.val = 4 → kregs t k = kregs s k)))

/-- R437 to R440: fences of ports, cameras, links and pseudo-channels, and their service registers. -/
def Claims.unitFences : Prop :=
  (∀ s : State, blockOpen s 149 false →
    (∀ m : BitVec 64, ∃ t, exec (.fencep m) s = .next t ∧ rd t ts_FENCEP = m.toNat ∧ t.mem = s.mem ∧
      ∀ p : PortId, bit m.toNat p = true → bit (rd s ts_FENCEP) p = false → portState t p = 0 ∧
        ((fawnOf s (2 * p.val)).st ≠ .off → (fawnOf t (2 * p.val)).st = .fenced) ∧
        ((fawnOf s (2 * p.val + 1)).st ≠ .off → (fawnOf t (2 * p.val + 1)).st = .fenced)) ∧
    (∀ m : BitVec 8, ∃ t, exec (.fencec m) s = .next t ∧ rd t ts_FENCEC = m.toNat ∧ t.mem = s.mem ∧
      ∀ c : CamId, bit m.toNat c = true → bit (rd s ts_FENCEC) c = false → camState t c = 0 ∧
        ((fawnOf s (128 + 2 * c.val)).st ≠ .off → (fawnOf t (128 + 2 * c.val)).st = .fenced)) ∧
    (∀ m : BitVec 12, ∃ t, exec (.fencel m) s = .next t ∧ rd t ts_FENCEL = m.toNat ∧ t.mem = s.mem ∧
      ∀ l : LinkId, bit m.toNat l = true → bit (rd s ts_FENCEL) l = false → linkState t l = 0 ∧
        ((fawnOf s (144 + 2 * l.val)).st ≠ .off → (fawnOf t (144 + 2 * l.val)).st = .fenced)) ∧
    (∃ t, exec .fpgo s = .next t ∧
      (168 ≤ rd s ts_FPSEL ∨ fawnFenced s (rd s ts_FPSEL) = false → rd t ts_TSTFAULT_NOTFENCED = 1 ∧ t.mem = s.mem) ∧
      (rd s ts_FPSEL < 168 → fawnFenced s (rd s ts_FPSEL) = true → rd s ts_FPADDR < 1024 → rd s ts_FPDATA < 4096 → s.flip = none →
        s.memOk → s.merges = [] → memGetMany t.mem (fawnProgAddr (rd s ts_FPSEL) (rd s ts_FPADDR)) 2 = bytesLE 2 (rd s ts_FPDATA) ∧
          rd t ts_TSTFAULT_NOTFENCED = rd s ts_TSTFAULT_NOTFENCED)) ∧
    (∀ m : BitVec 32, ∃ t, exec (.hbmfmask m) s = .next t ∧ (s.held = [] → rd t ts_HBMFMASK = m.toNat ∧
      rd t ts_HBMFST = (rd s ts_HBMFST &&& m.toNat) ∧ t.mem = s.mem)) ∧
    ∀ a : BitVec 37, ∃ t, exec (.hbmxaddr a) s = .next t ∧ rd t ts_HBMXADDR = a.toNat ∧ rd t ts_HBMXBANK = hbmBank (a.toNat * 8) ∧
      onlyRegs s t (fun k => k = ts_HBMXADDR.key 0 0 ∨ k = ts_HBMXBANK.key 0 0)) ∧
  ∀ (s : State) (stack : Fin 4) (pc : Fin 32), rd s ts_HBMFSTK = stack.val → bit (rd s ts_HBMFMASK) pc = true →
    bit (rd s ts_HBMFST) pc = false → s.merges = [] →
    ∃ t, exec (.hbmDrain stack pc) s = .next t ∧ bit (rd t ts_HBMFST) pc = true ∧ onlyRegs s t (fun k => k = ts_HBMFST.key 0 0)

/-- The TAP has refused an instruction: it loads as BYPASS (R442). -/
def Claims.tapRefused (s t : State) : Prop :=
  t.tap = { s.tap with ir := 0xFF, ext := false, dr := 0 } ∧ rd t ts_TSTFAULT_TAPREF = 1

/-- A boundary register captures the levels of the lands that the model holds (R443), and takes `cells`. -/
def Claims.boundaryTaken (s t : State) (ir : Nat) (ext : Bool) (cells : List Bool) : Prop :=
  t.tap = { s.tap with ir := ir, ext := ext, cells := cells, dr := t.tap.dr } ∧ (∀ i : Fin 10, bit t.tap.dr (508 + i.val) = bit s.pins.pg i) ∧
    (∀ p : PortId, bit t.tap.dr (portCell p + 2) = enaLand s p) ∧ bit t.tap.dr 480 = !faultLow s

/-- R441 to R444: the TAP. -/
def Claims.tapRows : Prop :=
  ∀ s : State,
    exec .trstN s = .next { s with tap := {} } ∧
    (s.pow.deep = false →
      (∀ cells : List Bool,
        let ok := 2 ≤ s.lc.dbg ∧ allDown s = true
        (ok → (∃ t, exec (.extest cells) s = .next t ∧ Claims.boundaryTaken s t 0 true cells ∧ faultLow t = true) ∧
          (∃ t, exec (.extestPulse cells) s = .next t ∧ Claims.boundaryTaken s t 3 true cells ∧ faultLow t = true) ∧
          ∃ t, exec (.extestTrain cells) s = .next t ∧ Claims.boundaryTaken s t 4 true cells ∧ faultLow t = true) ∧
        (¬ ok → (∃ t, exec (.extest cells) s = .next t ∧ Claims.tapRefused s t) ∧
          (∃ t, exec (.extestPulse cells) s = .next t ∧ Claims.tapRefused s t) ∧
          ∃ t, exec (.extestTrain cells) s = .next t ∧ Claims.tapRefused s t) ∧
        ∃ t, exec (.samplePreload cells) s = .next t ∧ Claims.boundaryTaken s t 2 false cells ∧ t.regs = s.regs) ∧
      exec .idcode s = .next { s with tap := { s.tap with ir := 1, ext := false, dr := 0xA4D3_296B } } ∧
      (2 ≤ s.lc.dbg → rd s ts_HBMFST = 0xFFFF_FFFF → ∃ t, exec .hbm1500 s = .next t ∧
        t = { s with tap := { s.tap with ir := 0x11, ext := false, dr := t.tap.dr }, fresh := t.fresh }) ∧
      (s.lc.dbg < 2 ∨ rd s ts_HBMFST ≠ 0xFFFF_FFFF → ∃ t, exec .hbm1500 s = .next t ∧ Claims.tapRefused s t) ∧
      (∀ opcode : Byte,
        (opcode = 0xFF → exec (.bypass opcode) s = .next { s with tap := { s.tap with ir := 0xFF, ext := false, dr := 0 } }) ∧
        (opcode ≠ 0xFF → opcode ∉ [0x00#8, 0x01#8, 0x02#8, 0x03#8, 0x04#8, 0x10#8, 0x11#8] ∨
            (s.lc.dbg < 2 ∧ opcode ∈ [0x00#8, 0x03#8, 0x04#8, 0x11#8]) ∨ (s.lc.dbg = 0 ∧ opcode = 0x10) →
          ∃ t, exec (.bypass opcode) s = .next t ∧ Claims.tapRefused s t)) ∧
      ∀ v : BitVec 108,
        (s.lc.dbg = 0 → ∃ t, exec (.testreg v) s = .next t ∧ Claims.tapRefused s t) ∧
        (s.lc.dbg ≠ 0 → ∃ t, exec (.testreg v) s = .next t ∧ (s.held = [] → t.tap.dr = s.tap.cap ∧
          (v.getLsbD 0 = true → s.lc.dbg = 1 →
            haltOrStep s (bits v.toNat 43 4) (2 ^ bits v.toNat 3 1) (bits v.toNat 107 44 % 256) = false →
            t.tap.cap = 5 ∧ t.regs = s.regs ∧ t.mem = s.mem) ∧
          (v.getLsbD 0 = false → bits v.toNat 3 1 = 2 → blockOpen s 149 false →
            ∀ o, o < 0x1000 → o % 4 = 0 → bits v.toNat 43 4 = 0x14_0050_0000 + o →
              t.tap.cap = 1 + 2 ^ 44 * regRead s .devfeat 0 o 4 ∧ t.regs = s.regs ∧ t.mem = s.mem))))

/-- Fences of units, and the TAP. -/
def Obligations.UnitFencesAndTap : Prop := Claims.unitFences ∧ Claims.tapRows

/-! ### Register writes -/

/-- R12, R13, R15, R32: a register write completes for every agent; a kid without SUP reaches no register, a reserved address takes nothing, and in the
memory-integrity block an RW field takes its value, an RO field keeps its own, a 1 clears a W1C bit, and a 1 in a reserved bit sets RSVW. -/
def Claims.RegisterWrites : Prop :=
  (∀ (ag : Agent) (a : Addr) (sz : Size) (v : BitVec 64) (s : State), s.pow.deep = false → wayOf s ag a.toNat ≠ none →
    ∃ t, exec (.registerWrite ag a sz v) s = .next t ∧
      (kidRefused s ag a.toNat = true → t = { s with reply := .refused }) ∧
      (kidRefused s ag a.toNat = false → s.held = [] → placeOf a.toNat = .hole → t.mem = s.mem ∧ t.kids = s.kids ∧
        (t.reply = .reserved ∨ t.reply = .refused ∨ t.reply = .done))) ∧
  ∀ (s : State) (v : BitVec 32), blockOpen s 149 false → s.held = [] →
    (∃ t, exec (.registerWrite .tap 0x14_0048_0004 .b4 (v.setWidth 64)) s = .next t ∧ t.mem = s.mem ∧
      rd t mi_MICTRL_RPTTHR = v.toNat % 16 ∧
      rd t mi_MIFAULT_RSVW = if 16 ≤ v.toNat then 1 else rd s mi_MIFAULT_RSVW) ∧
    (∃ t, exec (.registerWrite .tap 0x14_0048_0008 .b4 (v.setWidth 64)) s = .next t ∧ rd t mi_CECOUNT = rd s mi_CECOUNT ∧
      rd t mi_MIFAULT_RSVW = rd s mi_MIFAULT_RSVW ∧ t.reply = .done) ∧
    ∃ t, exec (.registerWrite .tap 0x14_0048_0000 .b4 (v.setWidth 64)) s = .next t ∧ (v.toNat < 16 →
      rdb t mi_MIFAULT_RSVW = (rdb s mi_MIFAULT_RSVW && !bit v.toNat 0) ∧ rdb t mi_MIFAULT_IMGW = (rdb s mi_MIFAULT_IMGW && !bit v.toNat 1) ∧
      rdb t mi_MIFAULT_LOGOVF = (rdb s mi_MIFAULT_LOGOVF && !bit v.toNat 2) ∧
      rdb t mi_MIFAULT_BUSYGO = (rdb s mi_MIFAULT_BUSYGO && !bit v.toNat 3))

/-- The host's pins and BARs, and register writes of every agent. -/
def Obligations.HostAndRegisterAccesses : Prop := Claims.HostAndPins ∧ Claims.RegisterWrites
end

