-- ==== Sys2Proof/Laws/State.lean ====
section
/-!
SUPPORT. What each update of one part of State leaves of every other field: one lemma for each field and update, and reading
a part after an update of it.
-/

namespace Sys2Proof.Machine

/-! ### Sparse maps -/

theorem alGet_alDel_same {κ α : Type} [DecidableEq κ] (m : List (κ × α)) (k : κ) : alGet (alDel m k) k = none := by
  induction m with
  | nil => rfl
  | cons e m ih =>
    simp only [alDel, ne_eq, decide_not] at ih
    by_cases h : e.1 = k <;> simp [alDel, alGet, h, ih]

theorem alGet_alDel_other {κ α : Type} [DecidableEq κ] (m : List (κ × α)) {k j : κ} (h : j ≠ k) :
    alGet (alDel m k) j = alGet m j := by
  induction m with
  | nil => rfl
  | cons e m ih =>
    simp only [alDel, ne_eq, decide_not] at ih
    by_cases hk : e.1 = k
    · simp [alDel, alGet, hk, ih, Ne.symm h]
    · by_cases hj : e.1 = j
      · simp [alDel, alGet, hj, h]
      · simp [alDel, alGet, hk, hj, ih]

@[simp] theorem alGet_alSet_same {κ α : Type} [DecidableEq κ] (m : List (κ × α)) (k : κ) (v : α) :
    alGet (alSet m k v) k = some v := by simp [alSet, alGet]

theorem alGet_alSet_other {κ α : Type} [DecidableEq κ] (m : List (κ × α)) {k j : κ} (v : α) (h : j ≠ k) :
    alGet (alSet m k v) j = alGet m j := by
  simp [alSet, alGet, Ne.symm h, alGet_alDel_other m h]

/-! ### Parts -/

@[simp] theorem kidOf_setKid (s : State) (n : Nat) (v : Kid) : kidOf (setKid s n v) n = v := by
  simp [kidOf, setKid]
theorem kidOf_setKid_other (s : State) {n m : Nat} (v : Kid) (h : m ≠ n) : kidOf (setKid s n v) m = kidOf s m := by
  simp [kidOf, setKid, alGet_alSet_other s.kids v h]

@[simp] theorem fawnOf_setFawn (s : State) (n : Nat) (v : Fawn) : fawnOf (setFawn s n v) n = v := by
  simp [fawnOf, setFawn]
theorem fawnOf_setFawn_other (s : State) {n m : Nat} (v : Fawn) (h : m ≠ n) : fawnOf (setFawn s n v) m = fawnOf s m := by
  simp [fawnOf, setFawn, alGet_alSet_other s.fawns v h]

@[simp] theorem icacheOf_setIcache (s : State) (n : Nat) (v : ICache) : icacheOf (setIcache s n v) n = v := by
  simp [icacheOf, setIcache]
theorem icacheOf_setIcache_other (s : State) {n m : Nat} (v : ICache) (h : m ≠ n) : icacheOf (setIcache s n v) m = icacheOf s m := by
  simp [icacheOf, setIcache, alGet_alSet_other s.icaches v h]

@[simp] theorem prodOf_setProd (s : State) (n : Nat) (v : Prod) : prodOf (setProd s n v) n = v := by
  simp [prodOf, setProd]
theorem prodOf_setProd_other (s : State) {n m : Nat} (v : Prod) (h : m ≠ n) : prodOf (setProd s n v) m = prodOf s m := by
  simp [prodOf, setProd, alGet_alSet_other s.prods v h]

@[simp] theorem consOf_setCons (s : State) (n : Nat) (v : Cons) : consOf (setCons s n v) n = v := by
  simp [consOf, setCons]
theorem consOf_setCons_other (s : State) {n m : Nat} (v : Cons) (h : m ≠ n) : consOf (setCons s n v) m = consOf s m := by
  simp [consOf, setCons, alGet_alSet_other s.cons v h]

@[simp] theorem hdcOf_setHdc (s : State) (n : Nat) (v : Hdc) : hdcOf (setHdc s n v) n = v := by
  simp [hdcOf, setHdc]
theorem hdcOf_setHdc_other (s : State) {n m : Nat} (v : Hdc) (h : m ≠ n) : hdcOf (setHdc s n v) m = hdcOf s m := by
  simp [hdcOf, setHdc, alGet_alSet_other s.hdcs v h]

@[simp] theorem oryxOf_setOryx (s : State) (n : Nat) (v : Oryx) : oryxOf (setOryx s n v) n = v := by
  simp [oryxOf, setOryx]
theorem oryxOf_setOryx_other (s : State) {n m : Nat} (v : Oryx) (h : m ≠ n) : oryxOf (setOryx s n v) m = oryxOf s m := by
  simp [oryxOf, setOryx, alGet_alSet_other s.oryxes v h]

@[simp] theorem portOf_setPort (s : State) (n : Nat) (v : Port) : portOf (setPort s n v) n = v := by
  simp [portOf, setPort]
theorem portOf_setPort_other (s : State) {n m : Nat} (v : Port) (h : m ≠ n) : portOf (setPort s n v) m = portOf s m := by
  simp [portOf, setPort, alGet_alSet_other s.ports v h]

@[simp] theorem axisOf_setAxis (s : State) (n : Nat) (v : Axis) : axisOf (setAxis s n v) n = v := by
  simp [axisOf, setAxis]
theorem axisOf_setAxis_other (s : State) {n m : Nat} (v : Axis) (h : m ≠ n) : axisOf (setAxis s n v) m = axisOf s m := by
  simp [axisOf, setAxis, alGet_alSet_other s.axes v h]

@[simp] theorem camOf_setCam (s : State) (n : Nat) (v : Cam) : camOf (setCam s n v) n = v := by
  simp [camOf, setCam]
theorem camOf_setCam_other (s : State) {n m : Nat} (v : Cam) (h : m ≠ n) : camOf (setCam s n v) m = camOf s m := by
  simp [camOf, setCam, alGet_alSet_other s.cams v h]

@[simp] theorem linkOf_setLink (s : State) (n : Nat) (v : Link) : linkOf (setLink s n v) n = v := by
  simp [linkOf, setLink]
theorem linkOf_setLink_other (s : State) {n m : Nat} (v : Link) (h : m ≠ n) : linkOf (setLink s n v) m = linkOf s m := by
  simp [linkOf, setLink, alGet_alSet_other s.links v h]

/-! ### Register fields -/

theorem rd_wr_same (s : State) (F : Fld) (n v i : Nat) : rd (wr s F n v i) F n i = v % 2 ^ F.w := by simp [rd, wr]

theorem rd_wr_other (s : State) {F G : Fld} {n m i j : Nat} (v : Nat) (h : G.key m j ≠ F.key n i) :
    rd (wr s F n v i) G m j = rd s G m j := by simp [rd, wr, alGet_alSet_other s.regs (v % 2 ^ F.w) h]

theorem rd_congr {s t : State} (h : t.regs = s.regs) (F : Fld) (n i : Nat) : rd t F n i = rd s F n i := by simp [rd, h]

/-! ### The other fields -/

@[simp] theorem wr_pending (s : State) (F : Fld) (n v i : Nat) : (wr s F n v i).pending = s.pending := rfl
@[simp] theorem wr_mem (s : State) (F : Fld) (n v i : Nat) : (wr s F n v i).mem = s.mem := rfl
@[simp] theorem wr_words (s : State) (F : Fld) (n v i : Nat) : (wr s F n v i).words = s.words := rfl
@[simp] theorem wr_merges (s : State) (F : Fld) (n v i : Nat) : (wr s F n v i).merges = s.merges := rfl
@[simp] theorem wr_rpts (s : State) (F : Fld) (n v i : Nat) : (wr s F n v i).rpts = s.rpts := rfl
@[simp] theorem wr_milog (s : State) (F : Fld) (n v i : Nat) : (wr s F n v i).milog = s.milog := rfl
@[simp] theorem wr_flip (s : State) (F : Fld) (n v i : Nat) : (wr s F n v i).flip = s.flip := rfl
@[simp] theorem wr_hppr (s : State) (F : Fld) (n v i : Nat) : (wr s F n v i).hppr = s.hppr := rfl
@[simp] theorem wr_cip (s : State) (F : Fld) (n v i : Nat) : (wr s F n v i).cip = s.cip := rfl
@[simp] theorem wr_kids (s : State) (F : Fld) (n v i : Nat) : (wr s F n v i).kids = s.kids := rfl
@[simp] theorem wr_fawns (s : State) (F : Fld) (n v i : Nat) : (wr s F n v i).fawns = s.fawns := rfl
@[simp] theorem wr_icaches (s : State) (F : Fld) (n v i : Nat) : (wr s F n v i).icaches = s.icaches := rfl
@[simp] theorem wr_prods (s : State) (F : Fld) (n v i : Nat) : (wr s F n v i).prods = s.prods := rfl
@[simp] theorem wr_cons (s : State) (F : Fld) (n v i : Nat) : (wr s F n v i).cons = s.cons := rfl
@[simp] theorem wr_hdcs (s : State) (F : Fld) (n v i : Nat) : (wr s F n v i).hdcs = s.hdcs := rfl
@[simp] theorem wr_oryxes (s : State) (F : Fld) (n v i : Nat) : (wr s F n v i).oryxes = s.oryxes := rfl
@[simp] theorem wr_ports (s : State) (F : Fld) (n v i : Nat) : (wr s F n v i).ports = s.ports := rfl
@[simp] theorem wr_axes (s : State) (F : Fld) (n v i : Nat) : (wr s F n v i).axes = s.axes := rfl
@[simp] theorem wr_glog (s : State) (F : Fld) (n v i : Nat) : (wr s F n v i).glog = s.glog := rfl
@[simp] theorem wr_gstops (s : State) (F : Fld) (n v i : Nat) : (wr s F n v i).gstops = s.gstops := rfl
@[simp] theorem wr_broken (s : State) (F : Fld) (n v i : Nat) : (wr s F n v i).broken = s.broken := rfl
@[simp] theorem wr_cams (s : State) (F : Fld) (n v i : Nat) : (wr s F n v i).cams = s.cams := rfl
@[simp] theorem wr_links (s : State) (F : Fld) (n v i : Nat) : (wr s F n v i).links = s.links := rfl
@[simp] theorem wr_localMsgs (s : State) (F : Fld) (n v i : Nat) : (wr s F n v i).localMsgs = s.localMsgs := rfl
@[simp] theorem wr_localRsp (s : State) (F : Fld) (n v i : Nat) : (wr s F n v i).localRsp = s.localRsp := rfl
@[simp] theorem wr_reqs (s : State) (F : Fld) (n v i : Nat) : (wr s F n v i).reqs = s.reqs := rfl
@[simp] theorem wr_rlog (s : State) (F : Fld) (n v i : Nat) : (wr s F n v i).rlog = s.rlog := rfl
@[simp] theorem wr_tb (s : State) (F : Fld) (n v i : Nat) : (wr s F n v i).tb = s.tb := rfl
@[simp] theorem wr_host (s : State) (F : Fld) (n v i : Nat) : (wr s F n v i).host = s.host := rfl
@[simp] theorem wr_otp (s : State) (F : Fld) (n v i : Nat) : (wr s F n v i).otp = s.otp := rfl
@[simp] theorem wr_lc (s : State) (F : Fld) (n v i : Nat) : (wr s F n v i).lc = s.lc := rfl
@[simp] theorem wr_pow (s : State) (F : Fld) (n v i : Nat) : (wr s F n v i).pow = s.pow := rfl
@[simp] theorem wr_clk (s : State) (F : Fld) (n v i : Nat) : (wr s F n v i).clk = s.clk := rfl
@[simp] theorem wr_rst (s : State) (F : Fld) (n v i : Nat) : (wr s F n v i).rst = s.rst := rfl
@[simp] theorem wr_pins (s : State) (F : Fld) (n v i : Nat) : (wr s F n v i).pins = s.pins := rfl
@[simp] theorem wr_tap (s : State) (F : Fld) (n v i : Nat) : (wr s F n v i).tap = s.tap := rfl
@[simp] theorem wr_spares (s : State) (F : Fld) (n v i : Nat) : (wr s F n v i).spares = s.spares := rfl
@[simp] theorem wr_sbist (s : State) (F : Fld) (n v i : Nat) : (wr s F n v i).sbist = s.sbist := rfl
@[simp] theorem wr_sub (s : State) (F : Fld) (n v i : Nat) : (wr s F n v i).sub = s.sub := rfl
@[simp] theorem wr_held (s : State) (F : Fld) (n v i : Nat) : (wr s F n v i).held = s.held := rfl
@[simp] theorem wr_reply (s : State) (F : Fld) (n v i : Nat) : (wr s F n v i).reply = s.reply := rfl
@[simp] theorem wr_fresh (s : State) (F : Fld) (n v i : Nat) : (wr s F n v i).fresh = s.fresh := rfl
@[simp] theorem dropRegs_pending (s : State) (p : RegKey → Bool) : (dropRegs s p).pending = s.pending := rfl
@[simp] theorem dropRegs_mem (s : State) (p : RegKey → Bool) : (dropRegs s p).mem = s.mem := rfl
@[simp] theorem dropRegs_words (s : State) (p : RegKey → Bool) : (dropRegs s p).words = s.words := rfl
@[simp] theorem dropRegs_merges (s : State) (p : RegKey → Bool) : (dropRegs s p).merges = s.merges := rfl
@[simp] theorem dropRegs_rpts (s : State) (p : RegKey → Bool) : (dropRegs s p).rpts = s.rpts := rfl
@[simp] theorem dropRegs_milog (s : State) (p : RegKey → Bool) : (dropRegs s p).milog = s.milog := rfl
@[simp] theorem dropRegs_flip (s : State) (p : RegKey → Bool) : (dropRegs s p).flip = s.flip := rfl
@[simp] theorem dropRegs_hppr (s : State) (p : RegKey → Bool) : (dropRegs s p).hppr = s.hppr := rfl
@[simp] theorem dropRegs_cip (s : State) (p : RegKey → Bool) : (dropRegs s p).cip = s.cip := rfl
@[simp] theorem dropRegs_kids (s : State) (p : RegKey → Bool) : (dropRegs s p).kids = s.kids := rfl
@[simp] theorem dropRegs_fawns (s : State) (p : RegKey → Bool) : (dropRegs s p).fawns = s.fawns := rfl
@[simp] theorem dropRegs_icaches (s : State) (p : RegKey → Bool) : (dropRegs s p).icaches = s.icaches := rfl
@[simp] theorem dropRegs_prods (s : State) (p : RegKey → Bool) : (dropRegs s p).prods = s.prods := rfl
@[simp] theorem dropRegs_cons (s : State) (p : RegKey → Bool) : (dropRegs s p).cons = s.cons := rfl
@[simp] theorem dropRegs_hdcs (s : State) (p : RegKey → Bool) : (dropRegs s p).hdcs = s.hdcs := rfl
@[simp] theorem dropRegs_oryxes (s : State) (p : RegKey → Bool) : (dropRegs s p).oryxes = s.oryxes := rfl
@[simp] theorem dropRegs_ports (s : State) (p : RegKey → Bool) : (dropRegs s p).ports = s.ports := rfl
@[simp] theorem dropRegs_axes (s : State) (p : RegKey → Bool) : (dropRegs s p).axes = s.axes := rfl
@[simp] theorem dropRegs_glog (s : State) (p : RegKey → Bool) : (dropRegs s p).glog = s.glog := rfl
@[simp] theorem dropRegs_gstops (s : State) (p : RegKey → Bool) : (dropRegs s p).gstops = s.gstops := rfl
@[simp] theorem dropRegs_broken (s : State) (p : RegKey → Bool) : (dropRegs s p).broken = s.broken := rfl
@[simp] theorem dropRegs_cams (s : State) (p : RegKey → Bool) : (dropRegs s p).cams = s.cams := rfl
@[simp] theorem dropRegs_links (s : State) (p : RegKey → Bool) : (dropRegs s p).links = s.links := rfl
@[simp] theorem dropRegs_localMsgs (s : State) (p : RegKey → Bool) : (dropRegs s p).localMsgs = s.localMsgs := rfl
@[simp] theorem dropRegs_localRsp (s : State) (p : RegKey → Bool) : (dropRegs s p).localRsp = s.localRsp := rfl
@[simp] theorem dropRegs_reqs (s : State) (p : RegKey → Bool) : (dropRegs s p).reqs = s.reqs := rfl
@[simp] theorem dropRegs_rlog (s : State) (p : RegKey → Bool) : (dropRegs s p).rlog = s.rlog := rfl
@[simp] theorem dropRegs_tb (s : State) (p : RegKey → Bool) : (dropRegs s p).tb = s.tb := rfl
@[simp] theorem dropRegs_host (s : State) (p : RegKey → Bool) : (dropRegs s p).host = s.host := rfl
@[simp] theorem dropRegs_otp (s : State) (p : RegKey → Bool) : (dropRegs s p).otp = s.otp := rfl
@[simp] theorem dropRegs_lc (s : State) (p : RegKey → Bool) : (dropRegs s p).lc = s.lc := rfl
@[simp] theorem dropRegs_pow (s : State) (p : RegKey → Bool) : (dropRegs s p).pow = s.pow := rfl
@[simp] theorem dropRegs_clk (s : State) (p : RegKey → Bool) : (dropRegs s p).clk = s.clk := rfl
@[simp] theorem dropRegs_rst (s : State) (p : RegKey → Bool) : (dropRegs s p).rst = s.rst := rfl
@[simp] theorem dropRegs_pins (s : State) (p : RegKey → Bool) : (dropRegs s p).pins = s.pins := rfl
@[simp] theorem dropRegs_tap (s : State) (p : RegKey → Bool) : (dropRegs s p).tap = s.tap := rfl
@[simp] theorem dropRegs_spares (s : State) (p : RegKey → Bool) : (dropRegs s p).spares = s.spares := rfl
@[simp] theorem dropRegs_sbist (s : State) (p : RegKey → Bool) : (dropRegs s p).sbist = s.sbist := rfl
@[simp] theorem dropRegs_sub (s : State) (p : RegKey → Bool) : (dropRegs s p).sub = s.sub := rfl
@[simp] theorem dropRegs_held (s : State) (p : RegKey → Bool) : (dropRegs s p).held = s.held := rfl
@[simp] theorem dropRegs_reply (s : State) (p : RegKey → Bool) : (dropRegs s p).reply = s.reply := rfl
@[simp] theorem dropRegs_fresh (s : State) (p : RegKey → Bool) : (dropRegs s p).fresh = s.fresh := rfl
@[simp] theorem stampAt_pending (s : State) (m : Mark) : (stampAt s m).pending = s.pending := rfl
@[simp] theorem stampAt_regs (s : State) (m : Mark) : (stampAt s m).regs = s.regs := rfl
@[simp] theorem stampAt_mem (s : State) (m : Mark) : (stampAt s m).mem = s.mem := rfl
@[simp] theorem stampAt_words (s : State) (m : Mark) : (stampAt s m).words = s.words := rfl
@[simp] theorem stampAt_merges (s : State) (m : Mark) : (stampAt s m).merges = s.merges := rfl
@[simp] theorem stampAt_rpts (s : State) (m : Mark) : (stampAt s m).rpts = s.rpts := rfl
@[simp] theorem stampAt_milog (s : State) (m : Mark) : (stampAt s m).milog = s.milog := rfl
@[simp] theorem stampAt_flip (s : State) (m : Mark) : (stampAt s m).flip = s.flip := rfl
@[simp] theorem stampAt_hppr (s : State) (m : Mark) : (stampAt s m).hppr = s.hppr := rfl
@[simp] theorem stampAt_cip (s : State) (m : Mark) : (stampAt s m).cip = s.cip := rfl
@[simp] theorem stampAt_kids (s : State) (m : Mark) : (stampAt s m).kids = s.kids := rfl
@[simp] theorem stampAt_fawns (s : State) (m : Mark) : (stampAt s m).fawns = s.fawns := rfl
@[simp] theorem stampAt_icaches (s : State) (m : Mark) : (stampAt s m).icaches = s.icaches := rfl
@[simp] theorem stampAt_prods (s : State) (m : Mark) : (stampAt s m).prods = s.prods := rfl
@[simp] theorem stampAt_cons (s : State) (m : Mark) : (stampAt s m).cons = s.cons := rfl
@[simp] theorem stampAt_hdcs (s : State) (m : Mark) : (stampAt s m).hdcs = s.hdcs := rfl
@[simp] theorem stampAt_oryxes (s : State) (m : Mark) : (stampAt s m).oryxes = s.oryxes := rfl
@[simp] theorem stampAt_ports (s : State) (m : Mark) : (stampAt s m).ports = s.ports := rfl
@[simp] theorem stampAt_axes (s : State) (m : Mark) : (stampAt s m).axes = s.axes := rfl
@[simp] theorem stampAt_glog (s : State) (m : Mark) : (stampAt s m).glog = s.glog := rfl
@[simp] theorem stampAt_gstops (s : State) (m : Mark) : (stampAt s m).gstops = s.gstops := rfl
@[simp] theorem stampAt_broken (s : State) (m : Mark) : (stampAt s m).broken = s.broken := rfl
@[simp] theorem stampAt_cams (s : State) (m : Mark) : (stampAt s m).cams = s.cams := rfl
@[simp] theorem stampAt_links (s : State) (m : Mark) : (stampAt s m).links = s.links := rfl
@[simp] theorem stampAt_localMsgs (s : State) (m : Mark) : (stampAt s m).localMsgs = s.localMsgs := rfl
@[simp] theorem stampAt_localRsp (s : State) (m : Mark) : (stampAt s m).localRsp = s.localRsp := rfl
@[simp] theorem stampAt_reqs (s : State) (m : Mark) : (stampAt s m).reqs = s.reqs := rfl
@[simp] theorem stampAt_rlog (s : State) (m : Mark) : (stampAt s m).rlog = s.rlog := rfl
@[simp] theorem stampAt_tb (s : State) (m : Mark) : (stampAt s m).tb = s.tb := rfl
@[simp] theorem stampAt_host (s : State) (m : Mark) : (stampAt s m).host = s.host := rfl
@[simp] theorem stampAt_otp (s : State) (m : Mark) : (stampAt s m).otp = s.otp := rfl
@[simp] theorem stampAt_lc (s : State) (m : Mark) : (stampAt s m).lc = s.lc := rfl
@[simp] theorem stampAt_pow (s : State) (m : Mark) : (stampAt s m).pow = s.pow := rfl
@[simp] theorem stampAt_rst (s : State) (m : Mark) : (stampAt s m).rst = s.rst := rfl
@[simp] theorem stampAt_pins (s : State) (m : Mark) : (stampAt s m).pins = s.pins := rfl
@[simp] theorem stampAt_tap (s : State) (m : Mark) : (stampAt s m).tap = s.tap := rfl
@[simp] theorem stampAt_spares (s : State) (m : Mark) : (stampAt s m).spares = s.spares := rfl
@[simp] theorem stampAt_sbist (s : State) (m : Mark) : (stampAt s m).sbist = s.sbist := rfl
@[simp] theorem stampAt_sub (s : State) (m : Mark) : (stampAt s m).sub = s.sub := rfl
@[simp] theorem stampAt_held (s : State) (m : Mark) : (stampAt s m).held = s.held := rfl
@[simp] theorem stampAt_reply (s : State) (m : Mark) : (stampAt s m).reply = s.reply := rfl
@[simp] theorem stampAt_fresh (s : State) (m : Mark) : (stampAt s m).fresh = s.fresh := rfl
@[simp] theorem setKid_pending (s : State) (n : Nat) (v : Kid) : (setKid s n v).pending = s.pending := rfl
@[simp] theorem setKid_regs (s : State) (n : Nat) (v : Kid) : (setKid s n v).regs = s.regs := rfl
@[simp] theorem setKid_mem (s : State) (n : Nat) (v : Kid) : (setKid s n v).mem = s.mem := rfl
@[simp] theorem setKid_words (s : State) (n : Nat) (v : Kid) : (setKid s n v).words = s.words := rfl
@[simp] theorem setKid_merges (s : State) (n : Nat) (v : Kid) : (setKid s n v).merges = s.merges := rfl
@[simp] theorem setKid_rpts (s : State) (n : Nat) (v : Kid) : (setKid s n v).rpts = s.rpts := rfl
@[simp] theorem setKid_milog (s : State) (n : Nat) (v : Kid) : (setKid s n v).milog = s.milog := rfl
@[simp] theorem setKid_flip (s : State) (n : Nat) (v : Kid) : (setKid s n v).flip = s.flip := rfl
@[simp] theorem setKid_hppr (s : State) (n : Nat) (v : Kid) : (setKid s n v).hppr = s.hppr := rfl
@[simp] theorem setKid_cip (s : State) (n : Nat) (v : Kid) : (setKid s n v).cip = s.cip := rfl
@[simp] theorem setKid_fawns (s : State) (n : Nat) (v : Kid) : (setKid s n v).fawns = s.fawns := rfl
@[simp] theorem setKid_icaches (s : State) (n : Nat) (v : Kid) : (setKid s n v).icaches = s.icaches := rfl
@[simp] theorem setKid_prods (s : State) (n : Nat) (v : Kid) : (setKid s n v).prods = s.prods := rfl
@[simp] theorem setKid_cons (s : State) (n : Nat) (v : Kid) : (setKid s n v).cons = s.cons := rfl
@[simp] theorem setKid_hdcs (s : State) (n : Nat) (v : Kid) : (setKid s n v).hdcs = s.hdcs := rfl
@[simp] theorem setKid_oryxes (s : State) (n : Nat) (v : Kid) : (setKid s n v).oryxes = s.oryxes := rfl
@[simp] theorem setKid_ports (s : State) (n : Nat) (v : Kid) : (setKid s n v).ports = s.ports := rfl
@[simp] theorem setKid_axes (s : State) (n : Nat) (v : Kid) : (setKid s n v).axes = s.axes := rfl
@[simp] theorem setKid_glog (s : State) (n : Nat) (v : Kid) : (setKid s n v).glog = s.glog := rfl
@[simp] theorem setKid_gstops (s : State) (n : Nat) (v : Kid) : (setKid s n v).gstops = s.gstops := rfl
@[simp] theorem setKid_broken (s : State) (n : Nat) (v : Kid) : (setKid s n v).broken = s.broken := rfl
@[simp] theorem setKid_cams (s : State) (n : Nat) (v : Kid) : (setKid s n v).cams = s.cams := rfl
@[simp] theorem setKid_links (s : State) (n : Nat) (v : Kid) : (setKid s n v).links = s.links := rfl
@[simp] theorem setKid_localMsgs (s : State) (n : Nat) (v : Kid) : (setKid s n v).localMsgs = s.localMsgs := rfl
@[simp] theorem setKid_localRsp (s : State) (n : Nat) (v : Kid) : (setKid s n v).localRsp = s.localRsp := rfl
@[simp] theorem setKid_reqs (s : State) (n : Nat) (v : Kid) : (setKid s n v).reqs = s.reqs := rfl
@[simp] theorem setKid_rlog (s : State) (n : Nat) (v : Kid) : (setKid s n v).rlog = s.rlog := rfl
@[simp] theorem setKid_tb (s : State) (n : Nat) (v : Kid) : (setKid s n v).tb = s.tb := rfl
@[simp] theorem setKid_host (s : State) (n : Nat) (v : Kid) : (setKid s n v).host = s.host := rfl
@[simp] theorem setKid_otp (s : State) (n : Nat) (v : Kid) : (setKid s n v).otp = s.otp := rfl
@[simp] theorem setKid_lc (s : State) (n : Nat) (v : Kid) : (setKid s n v).lc = s.lc := rfl
@[simp] theorem setKid_pow (s : State) (n : Nat) (v : Kid) : (setKid s n v).pow = s.pow := rfl
@[simp] theorem setKid_clk (s : State) (n : Nat) (v : Kid) : (setKid s n v).clk = s.clk := rfl
@[simp] theorem setKid_rst (s : State) (n : Nat) (v : Kid) : (setKid s n v).rst = s.rst := rfl
@[simp] theorem setKid_pins (s : State) (n : Nat) (v : Kid) : (setKid s n v).pins = s.pins := rfl
@[simp] theorem setKid_tap (s : State) (n : Nat) (v : Kid) : (setKid s n v).tap = s.tap := rfl
@[simp] theorem setKid_spares (s : State) (n : Nat) (v : Kid) : (setKid s n v).spares = s.spares := rfl
@[simp] theorem setKid_sbist (s : State) (n : Nat) (v : Kid) : (setKid s n v).sbist = s.sbist := rfl
@[simp] theorem setKid_sub (s : State) (n : Nat) (v : Kid) : (setKid s n v).sub = s.sub := rfl
@[simp] theorem setKid_held (s : State) (n : Nat) (v : Kid) : (setKid s n v).held = s.held := rfl
@[simp] theorem setKid_reply (s : State) (n : Nat) (v : Kid) : (setKid s n v).reply = s.reply := rfl
@[simp] theorem setKid_fresh (s : State) (n : Nat) (v : Kid) : (setKid s n v).fresh = s.fresh := rfl
@[simp] theorem setFawn_pending (s : State) (n : Nat) (v : Fawn) : (setFawn s n v).pending = s.pending := rfl
@[simp] theorem setFawn_regs (s : State) (n : Nat) (v : Fawn) : (setFawn s n v).regs = s.regs := rfl
@[simp] theorem setFawn_mem (s : State) (n : Nat) (v : Fawn) : (setFawn s n v).mem = s.mem := rfl
@[simp] theorem setFawn_words (s : State) (n : Nat) (v : Fawn) : (setFawn s n v).words = s.words := rfl
@[simp] theorem setFawn_merges (s : State) (n : Nat) (v : Fawn) : (setFawn s n v).merges = s.merges := rfl
@[simp] theorem setFawn_rpts (s : State) (n : Nat) (v : Fawn) : (setFawn s n v).rpts = s.rpts := rfl
@[simp] theorem setFawn_milog (s : State) (n : Nat) (v : Fawn) : (setFawn s n v).milog = s.milog := rfl
@[simp] theorem setFawn_flip (s : State) (n : Nat) (v : Fawn) : (setFawn s n v).flip = s.flip := rfl
@[simp] theorem setFawn_hppr (s : State) (n : Nat) (v : Fawn) : (setFawn s n v).hppr = s.hppr := rfl
@[simp] theorem setFawn_cip (s : State) (n : Nat) (v : Fawn) : (setFawn s n v).cip = s.cip := rfl
@[simp] theorem setFawn_kids (s : State) (n : Nat) (v : Fawn) : (setFawn s n v).kids = s.kids := rfl
@[simp] theorem setFawn_icaches (s : State) (n : Nat) (v : Fawn) : (setFawn s n v).icaches = s.icaches := rfl
@[simp] theorem setFawn_prods (s : State) (n : Nat) (v : Fawn) : (setFawn s n v).prods = s.prods := rfl
@[simp] theorem setFawn_cons (s : State) (n : Nat) (v : Fawn) : (setFawn s n v).cons = s.cons := rfl
@[simp] theorem setFawn_hdcs (s : State) (n : Nat) (v : Fawn) : (setFawn s n v).hdcs = s.hdcs := rfl
@[simp] theorem setFawn_oryxes (s : State) (n : Nat) (v : Fawn) : (setFawn s n v).oryxes = s.oryxes := rfl
@[simp] theorem setFawn_ports (s : State) (n : Nat) (v : Fawn) : (setFawn s n v).ports = s.ports := rfl
@[simp] theorem setFawn_axes (s : State) (n : Nat) (v : Fawn) : (setFawn s n v).axes = s.axes := rfl
@[simp] theorem setFawn_glog (s : State) (n : Nat) (v : Fawn) : (setFawn s n v).glog = s.glog := rfl
@[simp] theorem setFawn_gstops (s : State) (n : Nat) (v : Fawn) : (setFawn s n v).gstops = s.gstops := rfl
@[simp] theorem setFawn_broken (s : State) (n : Nat) (v : Fawn) : (setFawn s n v).broken = s.broken := rfl
@[simp] theorem setFawn_cams (s : State) (n : Nat) (v : Fawn) : (setFawn s n v).cams = s.cams := rfl
@[simp] theorem setFawn_links (s : State) (n : Nat) (v : Fawn) : (setFawn s n v).links = s.links := rfl
@[simp] theorem setFawn_localMsgs (s : State) (n : Nat) (v : Fawn) : (setFawn s n v).localMsgs = s.localMsgs := rfl
@[simp] theorem setFawn_localRsp (s : State) (n : Nat) (v : Fawn) : (setFawn s n v).localRsp = s.localRsp := rfl
@[simp] theorem setFawn_reqs (s : State) (n : Nat) (v : Fawn) : (setFawn s n v).reqs = s.reqs := rfl
@[simp] theorem setFawn_rlog (s : State) (n : Nat) (v : Fawn) : (setFawn s n v).rlog = s.rlog := rfl
@[simp] theorem setFawn_tb (s : State) (n : Nat) (v : Fawn) : (setFawn s n v).tb = s.tb := rfl
@[simp] theorem setFawn_host (s : State) (n : Nat) (v : Fawn) : (setFawn s n v).host = s.host := rfl
@[simp] theorem setFawn_otp (s : State) (n : Nat) (v : Fawn) : (setFawn s n v).otp = s.otp := rfl
@[simp] theorem setFawn_lc (s : State) (n : Nat) (v : Fawn) : (setFawn s n v).lc = s.lc := rfl
@[simp] theorem setFawn_pow (s : State) (n : Nat) (v : Fawn) : (setFawn s n v).pow = s.pow := rfl
@[simp] theorem setFawn_clk (s : State) (n : Nat) (v : Fawn) : (setFawn s n v).clk = s.clk := rfl
@[simp] theorem setFawn_rst (s : State) (n : Nat) (v : Fawn) : (setFawn s n v).rst = s.rst := rfl
@[simp] theorem setFawn_pins (s : State) (n : Nat) (v : Fawn) : (setFawn s n v).pins = s.pins := rfl
@[simp] theorem setFawn_tap (s : State) (n : Nat) (v : Fawn) : (setFawn s n v).tap = s.tap := rfl
@[simp] theorem setFawn_spares (s : State) (n : Nat) (v : Fawn) : (setFawn s n v).spares = s.spares := rfl
@[simp] theorem setFawn_sbist (s : State) (n : Nat) (v : Fawn) : (setFawn s n v).sbist = s.sbist := rfl
@[simp] theorem setFawn_sub (s : State) (n : Nat) (v : Fawn) : (setFawn s n v).sub = s.sub := rfl
@[simp] theorem setFawn_held (s : State) (n : Nat) (v : Fawn) : (setFawn s n v).held = s.held := rfl
@[simp] theorem setFawn_reply (s : State) (n : Nat) (v : Fawn) : (setFawn s n v).reply = s.reply := rfl
@[simp] theorem setFawn_fresh (s : State) (n : Nat) (v : Fawn) : (setFawn s n v).fresh = s.fresh := rfl
@[simp] theorem setIcache_pending (s : State) (n : Nat) (v : ICache) : (setIcache s n v).pending = s.pending := rfl
@[simp] theorem setIcache_regs (s : State) (n : Nat) (v : ICache) : (setIcache s n v).regs = s.regs := rfl
@[simp] theorem setIcache_mem (s : State) (n : Nat) (v : ICache) : (setIcache s n v).mem = s.mem := rfl
@[simp] theorem setIcache_words (s : State) (n : Nat) (v : ICache) : (setIcache s n v).words = s.words := rfl
@[simp] theorem setIcache_merges (s : State) (n : Nat) (v : ICache) : (setIcache s n v).merges = s.merges := rfl
@[simp] theorem setIcache_rpts (s : State) (n : Nat) (v : ICache) : (setIcache s n v).rpts = s.rpts := rfl
@[simp] theorem setIcache_milog (s : State) (n : Nat) (v : ICache) : (setIcache s n v).milog = s.milog := rfl
@[simp] theorem setIcache_flip (s : State) (n : Nat) (v : ICache) : (setIcache s n v).flip = s.flip := rfl
@[simp] theorem setIcache_hppr (s : State) (n : Nat) (v : ICache) : (setIcache s n v).hppr = s.hppr := rfl
@[simp] theorem setIcache_cip (s : State) (n : Nat) (v : ICache) : (setIcache s n v).cip = s.cip := rfl
@[simp] theorem setIcache_kids (s : State) (n : Nat) (v : ICache) : (setIcache s n v).kids = s.kids := rfl
@[simp] theorem setIcache_fawns (s : State) (n : Nat) (v : ICache) : (setIcache s n v).fawns = s.fawns := rfl
@[simp] theorem setIcache_prods (s : State) (n : Nat) (v : ICache) : (setIcache s n v).prods = s.prods := rfl
@[simp] theorem setIcache_cons (s : State) (n : Nat) (v : ICache) : (setIcache s n v).cons = s.cons := rfl
@[simp] theorem setIcache_hdcs (s : State) (n : Nat) (v : ICache) : (setIcache s n v).hdcs = s.hdcs := rfl
@[simp] theorem setIcache_oryxes (s : State) (n : Nat) (v : ICache) : (setIcache s n v).oryxes = s.oryxes := rfl
@[simp] theorem setIcache_ports (s : State) (n : Nat) (v : ICache) : (setIcache s n v).ports = s.ports := rfl
@[simp] theorem setIcache_axes (s : State) (n : Nat) (v : ICache) : (setIcache s n v).axes = s.axes := rfl
@[simp] theorem setIcache_glog (s : State) (n : Nat) (v : ICache) : (setIcache s n v).glog = s.glog := rfl
@[simp] theorem setIcache_gstops (s : State) (n : Nat) (v : ICache) : (setIcache s n v).gstops = s.gstops := rfl
@[simp] theorem setIcache_broken (s : State) (n : Nat) (v : ICache) : (setIcache s n v).broken = s.broken := rfl
@[simp] theorem setIcache_cams (s : State) (n : Nat) (v : ICache) : (setIcache s n v).cams = s.cams := rfl
@[simp] theorem setIcache_links (s : State) (n : Nat) (v : ICache) : (setIcache s n v).links = s.links := rfl
@[simp] theorem setIcache_localMsgs (s : State) (n : Nat) (v : ICache) : (setIcache s n v).localMsgs = s.localMsgs := rfl
@[simp] theorem setIcache_localRsp (s : State) (n : Nat) (v : ICache) : (setIcache s n v).localRsp = s.localRsp := rfl
@[simp] theorem setIcache_reqs (s : State) (n : Nat) (v : ICache) : (setIcache s n v).reqs = s.reqs := rfl
@[simp] theorem setIcache_rlog (s : State) (n : Nat) (v : ICache) : (setIcache s n v).rlog = s.rlog := rfl
@[simp] theorem setIcache_tb (s : State) (n : Nat) (v : ICache) : (setIcache s n v).tb = s.tb := rfl
@[simp] theorem setIcache_host (s : State) (n : Nat) (v : ICache) : (setIcache s n v).host = s.host := rfl
@[simp] theorem setIcache_otp (s : State) (n : Nat) (v : ICache) : (setIcache s n v).otp = s.otp := rfl
@[simp] theorem setIcache_lc (s : State) (n : Nat) (v : ICache) : (setIcache s n v).lc = s.lc := rfl
@[simp] theorem setIcache_pow (s : State) (n : Nat) (v : ICache) : (setIcache s n v).pow = s.pow := rfl
@[simp] theorem setIcache_clk (s : State) (n : Nat) (v : ICache) : (setIcache s n v).clk = s.clk := rfl
@[simp] theorem setIcache_rst (s : State) (n : Nat) (v : ICache) : (setIcache s n v).rst = s.rst := rfl
@[simp] theorem setIcache_pins (s : State) (n : Nat) (v : ICache) : (setIcache s n v).pins = s.pins := rfl
@[simp] theorem setIcache_tap (s : State) (n : Nat) (v : ICache) : (setIcache s n v).tap = s.tap := rfl
@[simp] theorem setIcache_spares (s : State) (n : Nat) (v : ICache) : (setIcache s n v).spares = s.spares := rfl
@[simp] theorem setIcache_sbist (s : State) (n : Nat) (v : ICache) : (setIcache s n v).sbist = s.sbist := rfl
@[simp] theorem setIcache_sub (s : State) (n : Nat) (v : ICache) : (setIcache s n v).sub = s.sub := rfl
@[simp] theorem setIcache_held (s : State) (n : Nat) (v : ICache) : (setIcache s n v).held = s.held := rfl
@[simp] theorem setIcache_reply (s : State) (n : Nat) (v : ICache) : (setIcache s n v).reply = s.reply := rfl
@[simp] theorem setIcache_fresh (s : State) (n : Nat) (v : ICache) : (setIcache s n v).fresh = s.fresh := rfl
@[simp] theorem setProd_pending (s : State) (n : Nat) (v : Prod) : (setProd s n v).pending = s.pending := rfl
@[simp] theorem setProd_regs (s : State) (n : Nat) (v : Prod) : (setProd s n v).regs = s.regs := rfl
@[simp] theorem setProd_mem (s : State) (n : Nat) (v : Prod) : (setProd s n v).mem = s.mem := rfl
@[simp] theorem setProd_words (s : State) (n : Nat) (v : Prod) : (setProd s n v).words = s.words := rfl
@[simp] theorem setProd_merges (s : State) (n : Nat) (v : Prod) : (setProd s n v).merges = s.merges := rfl
@[simp] theorem setProd_rpts (s : State) (n : Nat) (v : Prod) : (setProd s n v).rpts = s.rpts := rfl
@[simp] theorem setProd_milog (s : State) (n : Nat) (v : Prod) : (setProd s n v).milog = s.milog := rfl
@[simp] theorem setProd_flip (s : State) (n : Nat) (v : Prod) : (setProd s n v).flip = s.flip := rfl
@[simp] theorem setProd_hppr (s : State) (n : Nat) (v : Prod) : (setProd s n v).hppr = s.hppr := rfl
@[simp] theorem setProd_cip (s : State) (n : Nat) (v : Prod) : (setProd s n v).cip = s.cip := rfl
@[simp] theorem setProd_kids (s : State) (n : Nat) (v : Prod) : (setProd s n v).kids = s.kids := rfl
@[simp] theorem setProd_fawns (s : State) (n : Nat) (v : Prod) : (setProd s n v).fawns = s.fawns := rfl
@[simp] theorem setProd_icaches (s : State) (n : Nat) (v : Prod) : (setProd s n v).icaches = s.icaches := rfl
@[simp] theorem setProd_cons (s : State) (n : Nat) (v : Prod) : (setProd s n v).cons = s.cons := rfl
@[simp] theorem setProd_hdcs (s : State) (n : Nat) (v : Prod) : (setProd s n v).hdcs = s.hdcs := rfl
@[simp] theorem setProd_oryxes (s : State) (n : Nat) (v : Prod) : (setProd s n v).oryxes = s.oryxes := rfl
@[simp] theorem setProd_ports (s : State) (n : Nat) (v : Prod) : (setProd s n v).ports = s.ports := rfl
@[simp] theorem setProd_axes (s : State) (n : Nat) (v : Prod) : (setProd s n v).axes = s.axes := rfl
@[simp] theorem setProd_glog (s : State) (n : Nat) (v : Prod) : (setProd s n v).glog = s.glog := rfl
@[simp] theorem setProd_gstops (s : State) (n : Nat) (v : Prod) : (setProd s n v).gstops = s.gstops := rfl
@[simp] theorem setProd_broken (s : State) (n : Nat) (v : Prod) : (setProd s n v).broken = s.broken := rfl
@[simp] theorem setProd_cams (s : State) (n : Nat) (v : Prod) : (setProd s n v).cams = s.cams := rfl
@[simp] theorem setProd_links (s : State) (n : Nat) (v : Prod) : (setProd s n v).links = s.links := rfl
@[simp] theorem setProd_localMsgs (s : State) (n : Nat) (v : Prod) : (setProd s n v).localMsgs = s.localMsgs := rfl
@[simp] theorem setProd_localRsp (s : State) (n : Nat) (v : Prod) : (setProd s n v).localRsp = s.localRsp := rfl
@[simp] theorem setProd_reqs (s : State) (n : Nat) (v : Prod) : (setProd s n v).reqs = s.reqs := rfl
@[simp] theorem setProd_rlog (s : State) (n : Nat) (v : Prod) : (setProd s n v).rlog = s.rlog := rfl
@[simp] theorem setProd_tb (s : State) (n : Nat) (v : Prod) : (setProd s n v).tb = s.tb := rfl
@[simp] theorem setProd_host (s : State) (n : Nat) (v : Prod) : (setProd s n v).host = s.host := rfl
@[simp] theorem setProd_otp (s : State) (n : Nat) (v : Prod) : (setProd s n v).otp = s.otp := rfl
@[simp] theorem setProd_lc (s : State) (n : Nat) (v : Prod) : (setProd s n v).lc = s.lc := rfl
@[simp] theorem setProd_pow (s : State) (n : Nat) (v : Prod) : (setProd s n v).pow = s.pow := rfl
@[simp] theorem setProd_clk (s : State) (n : Nat) (v : Prod) : (setProd s n v).clk = s.clk := rfl
@[simp] theorem setProd_rst (s : State) (n : Nat) (v : Prod) : (setProd s n v).rst = s.rst := rfl
@[simp] theorem setProd_pins (s : State) (n : Nat) (v : Prod) : (setProd s n v).pins = s.pins := rfl
@[simp] theorem setProd_tap (s : State) (n : Nat) (v : Prod) : (setProd s n v).tap = s.tap := rfl
@[simp] theorem setProd_spares (s : State) (n : Nat) (v : Prod) : (setProd s n v).spares = s.spares := rfl
@[simp] theorem setProd_sbist (s : State) (n : Nat) (v : Prod) : (setProd s n v).sbist = s.sbist := rfl
@[simp] theorem setProd_sub (s : State) (n : Nat) (v : Prod) : (setProd s n v).sub = s.sub := rfl
@[simp] theorem setProd_held (s : State) (n : Nat) (v : Prod) : (setProd s n v).held = s.held := rfl
@[simp] theorem setProd_reply (s : State) (n : Nat) (v : Prod) : (setProd s n v).reply = s.reply := rfl
@[simp] theorem setProd_fresh (s : State) (n : Nat) (v : Prod) : (setProd s n v).fresh = s.fresh := rfl
@[simp] theorem setCons_pending (s : State) (n : Nat) (v : Cons) : (setCons s n v).pending = s.pending := rfl
@[simp] theorem setCons_regs (s : State) (n : Nat) (v : Cons) : (setCons s n v).regs = s.regs := rfl
@[simp] theorem setCons_mem (s : State) (n : Nat) (v : Cons) : (setCons s n v).mem = s.mem := rfl
@[simp] theorem setCons_words (s : State) (n : Nat) (v : Cons) : (setCons s n v).words = s.words := rfl
@[simp] theorem setCons_merges (s : State) (n : Nat) (v : Cons) : (setCons s n v).merges = s.merges := rfl
@[simp] theorem setCons_rpts (s : State) (n : Nat) (v : Cons) : (setCons s n v).rpts = s.rpts := rfl
@[simp] theorem setCons_milog (s : State) (n : Nat) (v : Cons) : (setCons s n v).milog = s.milog := rfl
@[simp] theorem setCons_flip (s : State) (n : Nat) (v : Cons) : (setCons s n v).flip = s.flip := rfl
@[simp] theorem setCons_hppr (s : State) (n : Nat) (v : Cons) : (setCons s n v).hppr = s.hppr := rfl
@[simp] theorem setCons_cip (s : State) (n : Nat) (v : Cons) : (setCons s n v).cip = s.cip := rfl
@[simp] theorem setCons_kids (s : State) (n : Nat) (v : Cons) : (setCons s n v).kids = s.kids := rfl
@[simp] theorem setCons_fawns (s : State) (n : Nat) (v : Cons) : (setCons s n v).fawns = s.fawns := rfl
@[simp] theorem setCons_icaches (s : State) (n : Nat) (v : Cons) : (setCons s n v).icaches = s.icaches := rfl
@[simp] theorem setCons_prods (s : State) (n : Nat) (v : Cons) : (setCons s n v).prods = s.prods := rfl
@[simp] theorem setCons_hdcs (s : State) (n : Nat) (v : Cons) : (setCons s n v).hdcs = s.hdcs := rfl
@[simp] theorem setCons_oryxes (s : State) (n : Nat) (v : Cons) : (setCons s n v).oryxes = s.oryxes := rfl
@[simp] theorem setCons_ports (s : State) (n : Nat) (v : Cons) : (setCons s n v).ports = s.ports := rfl
@[simp] theorem setCons_axes (s : State) (n : Nat) (v : Cons) : (setCons s n v).axes = s.axes := rfl
@[simp] theorem setCons_glog (s : State) (n : Nat) (v : Cons) : (setCons s n v).glog = s.glog := rfl
@[simp] theorem setCons_gstops (s : State) (n : Nat) (v : Cons) : (setCons s n v).gstops = s.gstops := rfl
@[simp] theorem setCons_broken (s : State) (n : Nat) (v : Cons) : (setCons s n v).broken = s.broken := rfl
@[simp] theorem setCons_cams (s : State) (n : Nat) (v : Cons) : (setCons s n v).cams = s.cams := rfl
@[simp] theorem setCons_links (s : State) (n : Nat) (v : Cons) : (setCons s n v).links = s.links := rfl
@[simp] theorem setCons_localMsgs (s : State) (n : Nat) (v : Cons) : (setCons s n v).localMsgs = s.localMsgs := rfl
@[simp] theorem setCons_localRsp (s : State) (n : Nat) (v : Cons) : (setCons s n v).localRsp = s.localRsp := rfl
@[simp] theorem setCons_reqs (s : State) (n : Nat) (v : Cons) : (setCons s n v).reqs = s.reqs := rfl
@[simp] theorem setCons_rlog (s : State) (n : Nat) (v : Cons) : (setCons s n v).rlog = s.rlog := rfl
@[simp] theorem setCons_tb (s : State) (n : Nat) (v : Cons) : (setCons s n v).tb = s.tb := rfl
@[simp] theorem setCons_host (s : State) (n : Nat) (v : Cons) : (setCons s n v).host = s.host := rfl
@[simp] theorem setCons_otp (s : State) (n : Nat) (v : Cons) : (setCons s n v).otp = s.otp := rfl
@[simp] theorem setCons_lc (s : State) (n : Nat) (v : Cons) : (setCons s n v).lc = s.lc := rfl
@[simp] theorem setCons_pow (s : State) (n : Nat) (v : Cons) : (setCons s n v).pow = s.pow := rfl
@[simp] theorem setCons_clk (s : State) (n : Nat) (v : Cons) : (setCons s n v).clk = s.clk := rfl
@[simp] theorem setCons_rst (s : State) (n : Nat) (v : Cons) : (setCons s n v).rst = s.rst := rfl
@[simp] theorem setCons_pins (s : State) (n : Nat) (v : Cons) : (setCons s n v).pins = s.pins := rfl
@[simp] theorem setCons_tap (s : State) (n : Nat) (v : Cons) : (setCons s n v).tap = s.tap := rfl
@[simp] theorem setCons_spares (s : State) (n : Nat) (v : Cons) : (setCons s n v).spares = s.spares := rfl
@[simp] theorem setCons_sbist (s : State) (n : Nat) (v : Cons) : (setCons s n v).sbist = s.sbist := rfl
@[simp] theorem setCons_sub (s : State) (n : Nat) (v : Cons) : (setCons s n v).sub = s.sub := rfl
@[simp] theorem setCons_held (s : State) (n : Nat) (v : Cons) : (setCons s n v).held = s.held := rfl
@[simp] theorem setCons_reply (s : State) (n : Nat) (v : Cons) : (setCons s n v).reply = s.reply := rfl
@[simp] theorem setCons_fresh (s : State) (n : Nat) (v : Cons) : (setCons s n v).fresh = s.fresh := rfl
@[simp] theorem setHdc_pending (s : State) (n : Nat) (v : Hdc) : (setHdc s n v).pending = s.pending := rfl
@[simp] theorem setHdc_regs (s : State) (n : Nat) (v : Hdc) : (setHdc s n v).regs = s.regs := rfl
@[simp] theorem setHdc_mem (s : State) (n : Nat) (v : Hdc) : (setHdc s n v).mem = s.mem := rfl
@[simp] theorem setHdc_words (s : State) (n : Nat) (v : Hdc) : (setHdc s n v).words = s.words := rfl
@[simp] theorem setHdc_merges (s : State) (n : Nat) (v : Hdc) : (setHdc s n v).merges = s.merges := rfl
@[simp] theorem setHdc_rpts (s : State) (n : Nat) (v : Hdc) : (setHdc s n v).rpts = s.rpts := rfl
@[simp] theorem setHdc_milog (s : State) (n : Nat) (v : Hdc) : (setHdc s n v).milog = s.milog := rfl
@[simp] theorem setHdc_flip (s : State) (n : Nat) (v : Hdc) : (setHdc s n v).flip = s.flip := rfl
@[simp] theorem setHdc_hppr (s : State) (n : Nat) (v : Hdc) : (setHdc s n v).hppr = s.hppr := rfl
@[simp] theorem setHdc_cip (s : State) (n : Nat) (v : Hdc) : (setHdc s n v).cip = s.cip := rfl
@[simp] theorem setHdc_kids (s : State) (n : Nat) (v : Hdc) : (setHdc s n v).kids = s.kids := rfl
@[simp] theorem setHdc_fawns (s : State) (n : Nat) (v : Hdc) : (setHdc s n v).fawns = s.fawns := rfl
@[simp] theorem setHdc_icaches (s : State) (n : Nat) (v : Hdc) : (setHdc s n v).icaches = s.icaches := rfl
@[simp] theorem setHdc_prods (s : State) (n : Nat) (v : Hdc) : (setHdc s n v).prods = s.prods := rfl
@[simp] theorem setHdc_cons (s : State) (n : Nat) (v : Hdc) : (setHdc s n v).cons = s.cons := rfl
@[simp] theorem setHdc_oryxes (s : State) (n : Nat) (v : Hdc) : (setHdc s n v).oryxes = s.oryxes := rfl
@[simp] theorem setHdc_ports (s : State) (n : Nat) (v : Hdc) : (setHdc s n v).ports = s.ports := rfl
@[simp] theorem setHdc_axes (s : State) (n : Nat) (v : Hdc) : (setHdc s n v).axes = s.axes := rfl
@[simp] theorem setHdc_glog (s : State) (n : Nat) (v : Hdc) : (setHdc s n v).glog = s.glog := rfl
@[simp] theorem setHdc_gstops (s : State) (n : Nat) (v : Hdc) : (setHdc s n v).gstops = s.gstops := rfl
@[simp] theorem setHdc_broken (s : State) (n : Nat) (v : Hdc) : (setHdc s n v).broken = s.broken := rfl
@[simp] theorem setHdc_cams (s : State) (n : Nat) (v : Hdc) : (setHdc s n v).cams = s.cams := rfl
@[simp] theorem setHdc_links (s : State) (n : Nat) (v : Hdc) : (setHdc s n v).links = s.links := rfl
@[simp] theorem setHdc_localMsgs (s : State) (n : Nat) (v : Hdc) : (setHdc s n v).localMsgs = s.localMsgs := rfl
@[simp] theorem setHdc_localRsp (s : State) (n : Nat) (v : Hdc) : (setHdc s n v).localRsp = s.localRsp := rfl
@[simp] theorem setHdc_reqs (s : State) (n : Nat) (v : Hdc) : (setHdc s n v).reqs = s.reqs := rfl
@[simp] theorem setHdc_rlog (s : State) (n : Nat) (v : Hdc) : (setHdc s n v).rlog = s.rlog := rfl
@[simp] theorem setHdc_tb (s : State) (n : Nat) (v : Hdc) : (setHdc s n v).tb = s.tb := rfl
@[simp] theorem setHdc_host (s : State) (n : Nat) (v : Hdc) : (setHdc s n v).host = s.host := rfl
@[simp] theorem setHdc_otp (s : State) (n : Nat) (v : Hdc) : (setHdc s n v).otp = s.otp := rfl
@[simp] theorem setHdc_lc (s : State) (n : Nat) (v : Hdc) : (setHdc s n v).lc = s.lc := rfl
@[simp] theorem setHdc_pow (s : State) (n : Nat) (v : Hdc) : (setHdc s n v).pow = s.pow := rfl
@[simp] theorem setHdc_clk (s : State) (n : Nat) (v : Hdc) : (setHdc s n v).clk = s.clk := rfl
@[simp] theorem setHdc_rst (s : State) (n : Nat) (v : Hdc) : (setHdc s n v).rst = s.rst := rfl
@[simp] theorem setHdc_pins (s : State) (n : Nat) (v : Hdc) : (setHdc s n v).pins = s.pins := rfl
@[simp] theorem setHdc_tap (s : State) (n : Nat) (v : Hdc) : (setHdc s n v).tap = s.tap := rfl
@[simp] theorem setHdc_spares (s : State) (n : Nat) (v : Hdc) : (setHdc s n v).spares = s.spares := rfl
@[simp] theorem setHdc_sbist (s : State) (n : Nat) (v : Hdc) : (setHdc s n v).sbist = s.sbist := rfl
@[simp] theorem setHdc_sub (s : State) (n : Nat) (v : Hdc) : (setHdc s n v).sub = s.sub := rfl
@[simp] theorem setHdc_held (s : State) (n : Nat) (v : Hdc) : (setHdc s n v).held = s.held := rfl
@[simp] theorem setHdc_reply (s : State) (n : Nat) (v : Hdc) : (setHdc s n v).reply = s.reply := rfl
@[simp] theorem setHdc_fresh (s : State) (n : Nat) (v : Hdc) : (setHdc s n v).fresh = s.fresh := rfl
@[simp] theorem setOryx_pending (s : State) (n : Nat) (v : Oryx) : (setOryx s n v).pending = s.pending := rfl
@[simp] theorem setOryx_regs (s : State) (n : Nat) (v : Oryx) : (setOryx s n v).regs = s.regs := rfl
@[simp] theorem setOryx_mem (s : State) (n : Nat) (v : Oryx) : (setOryx s n v).mem = s.mem := rfl
@[simp] theorem setOryx_words (s : State) (n : Nat) (v : Oryx) : (setOryx s n v).words = s.words := rfl
@[simp] theorem setOryx_merges (s : State) (n : Nat) (v : Oryx) : (setOryx s n v).merges = s.merges := rfl
@[simp] theorem setOryx_rpts (s : State) (n : Nat) (v : Oryx) : (setOryx s n v).rpts = s.rpts := rfl
@[simp] theorem setOryx_milog (s : State) (n : Nat) (v : Oryx) : (setOryx s n v).milog = s.milog := rfl
@[simp] theorem setOryx_flip (s : State) (n : Nat) (v : Oryx) : (setOryx s n v).flip = s.flip := rfl
@[simp] theorem setOryx_hppr (s : State) (n : Nat) (v : Oryx) : (setOryx s n v).hppr = s.hppr := rfl
@[simp] theorem setOryx_cip (s : State) (n : Nat) (v : Oryx) : (setOryx s n v).cip = s.cip := rfl
@[simp] theorem setOryx_kids (s : State) (n : Nat) (v : Oryx) : (setOryx s n v).kids = s.kids := rfl
@[simp] theorem setOryx_fawns (s : State) (n : Nat) (v : Oryx) : (setOryx s n v).fawns = s.fawns := rfl
@[simp] theorem setOryx_icaches (s : State) (n : Nat) (v : Oryx) : (setOryx s n v).icaches = s.icaches := rfl
@[simp] theorem setOryx_prods (s : State) (n : Nat) (v : Oryx) : (setOryx s n v).prods = s.prods := rfl
@[simp] theorem setOryx_cons (s : State) (n : Nat) (v : Oryx) : (setOryx s n v).cons = s.cons := rfl
@[simp] theorem setOryx_hdcs (s : State) (n : Nat) (v : Oryx) : (setOryx s n v).hdcs = s.hdcs := rfl
@[simp] theorem setOryx_ports (s : State) (n : Nat) (v : Oryx) : (setOryx s n v).ports = s.ports := rfl
@[simp] theorem setOryx_axes (s : State) (n : Nat) (v : Oryx) : (setOryx s n v).axes = s.axes := rfl
@[simp] theorem setOryx_glog (s : State) (n : Nat) (v : Oryx) : (setOryx s n v).glog = s.glog := rfl
@[simp] theorem setOryx_gstops (s : State) (n : Nat) (v : Oryx) : (setOryx s n v).gstops = s.gstops := rfl
@[simp] theorem setOryx_broken (s : State) (n : Nat) (v : Oryx) : (setOryx s n v).broken = s.broken := rfl
@[simp] theorem setOryx_cams (s : State) (n : Nat) (v : Oryx) : (setOryx s n v).cams = s.cams := rfl
@[simp] theorem setOryx_links (s : State) (n : Nat) (v : Oryx) : (setOryx s n v).links = s.links := rfl
@[simp] theorem setOryx_localMsgs (s : State) (n : Nat) (v : Oryx) : (setOryx s n v).localMsgs = s.localMsgs := rfl
@[simp] theorem setOryx_localRsp (s : State) (n : Nat) (v : Oryx) : (setOryx s n v).localRsp = s.localRsp := rfl
@[simp] theorem setOryx_reqs (s : State) (n : Nat) (v : Oryx) : (setOryx s n v).reqs = s.reqs := rfl
@[simp] theorem setOryx_rlog (s : State) (n : Nat) (v : Oryx) : (setOryx s n v).rlog = s.rlog := rfl
@[simp] theorem setOryx_tb (s : State) (n : Nat) (v : Oryx) : (setOryx s n v).tb = s.tb := rfl
@[simp] theorem setOryx_host (s : State) (n : Nat) (v : Oryx) : (setOryx s n v).host = s.host := rfl
@[simp] theorem setOryx_otp (s : State) (n : Nat) (v : Oryx) : (setOryx s n v).otp = s.otp := rfl
@[simp] theorem setOryx_lc (s : State) (n : Nat) (v : Oryx) : (setOryx s n v).lc = s.lc := rfl
@[simp] theorem setOryx_pow (s : State) (n : Nat) (v : Oryx) : (setOryx s n v).pow = s.pow := rfl
@[simp] theorem setOryx_clk (s : State) (n : Nat) (v : Oryx) : (setOryx s n v).clk = s.clk := rfl
@[simp] theorem setOryx_rst (s : State) (n : Nat) (v : Oryx) : (setOryx s n v).rst = s.rst := rfl
@[simp] theorem setOryx_pins (s : State) (n : Nat) (v : Oryx) : (setOryx s n v).pins = s.pins := rfl
@[simp] theorem setOryx_tap (s : State) (n : Nat) (v : Oryx) : (setOryx s n v).tap = s.tap := rfl
@[simp] theorem setOryx_spares (s : State) (n : Nat) (v : Oryx) : (setOryx s n v).spares = s.spares := rfl
@[simp] theorem setOryx_sbist (s : State) (n : Nat) (v : Oryx) : (setOryx s n v).sbist = s.sbist := rfl
@[simp] theorem setOryx_sub (s : State) (n : Nat) (v : Oryx) : (setOryx s n v).sub = s.sub := rfl
@[simp] theorem setOryx_held (s : State) (n : Nat) (v : Oryx) : (setOryx s n v).held = s.held := rfl
@[simp] theorem setOryx_reply (s : State) (n : Nat) (v : Oryx) : (setOryx s n v).reply = s.reply := rfl
@[simp] theorem setOryx_fresh (s : State) (n : Nat) (v : Oryx) : (setOryx s n v).fresh = s.fresh := rfl
@[simp] theorem setPort_pending (s : State) (n : Nat) (v : Port) : (setPort s n v).pending = s.pending := rfl
@[simp] theorem setPort_regs (s : State) (n : Nat) (v : Port) : (setPort s n v).regs = s.regs := rfl
@[simp] theorem setPort_mem (s : State) (n : Nat) (v : Port) : (setPort s n v).mem = s.mem := rfl
@[simp] theorem setPort_words (s : State) (n : Nat) (v : Port) : (setPort s n v).words = s.words := rfl
@[simp] theorem setPort_merges (s : State) (n : Nat) (v : Port) : (setPort s n v).merges = s.merges := rfl
@[simp] theorem setPort_rpts (s : State) (n : Nat) (v : Port) : (setPort s n v).rpts = s.rpts := rfl
@[simp] theorem setPort_milog (s : State) (n : Nat) (v : Port) : (setPort s n v).milog = s.milog := rfl
@[simp] theorem setPort_flip (s : State) (n : Nat) (v : Port) : (setPort s n v).flip = s.flip := rfl
@[simp] theorem setPort_hppr (s : State) (n : Nat) (v : Port) : (setPort s n v).hppr = s.hppr := rfl
@[simp] theorem setPort_cip (s : State) (n : Nat) (v : Port) : (setPort s n v).cip = s.cip := rfl
@[simp] theorem setPort_kids (s : State) (n : Nat) (v : Port) : (setPort s n v).kids = s.kids := rfl
@[simp] theorem setPort_fawns (s : State) (n : Nat) (v : Port) : (setPort s n v).fawns = s.fawns := rfl
@[simp] theorem setPort_icaches (s : State) (n : Nat) (v : Port) : (setPort s n v).icaches = s.icaches := rfl
@[simp] theorem setPort_prods (s : State) (n : Nat) (v : Port) : (setPort s n v).prods = s.prods := rfl
@[simp] theorem setPort_cons (s : State) (n : Nat) (v : Port) : (setPort s n v).cons = s.cons := rfl
@[simp] theorem setPort_hdcs (s : State) (n : Nat) (v : Port) : (setPort s n v).hdcs = s.hdcs := rfl
@[simp] theorem setPort_oryxes (s : State) (n : Nat) (v : Port) : (setPort s n v).oryxes = s.oryxes := rfl
@[simp] theorem setPort_axes (s : State) (n : Nat) (v : Port) : (setPort s n v).axes = s.axes := rfl
@[simp] theorem setPort_glog (s : State) (n : Nat) (v : Port) : (setPort s n v).glog = s.glog := rfl
@[simp] theorem setPort_gstops (s : State) (n : Nat) (v : Port) : (setPort s n v).gstops = s.gstops := rfl
@[simp] theorem setPort_broken (s : State) (n : Nat) (v : Port) : (setPort s n v).broken = s.broken := rfl
@[simp] theorem setPort_cams (s : State) (n : Nat) (v : Port) : (setPort s n v).cams = s.cams := rfl
@[simp] theorem setPort_links (s : State) (n : Nat) (v : Port) : (setPort s n v).links = s.links := rfl
@[simp] theorem setPort_localMsgs (s : State) (n : Nat) (v : Port) : (setPort s n v).localMsgs = s.localMsgs := rfl
@[simp] theorem setPort_localRsp (s : State) (n : Nat) (v : Port) : (setPort s n v).localRsp = s.localRsp := rfl
@[simp] theorem setPort_reqs (s : State) (n : Nat) (v : Port) : (setPort s n v).reqs = s.reqs := rfl
@[simp] theorem setPort_rlog (s : State) (n : Nat) (v : Port) : (setPort s n v).rlog = s.rlog := rfl
@[simp] theorem setPort_tb (s : State) (n : Nat) (v : Port) : (setPort s n v).tb = s.tb := rfl
@[simp] theorem setPort_host (s : State) (n : Nat) (v : Port) : (setPort s n v).host = s.host := rfl
@[simp] theorem setPort_otp (s : State) (n : Nat) (v : Port) : (setPort s n v).otp = s.otp := rfl
@[simp] theorem setPort_lc (s : State) (n : Nat) (v : Port) : (setPort s n v).lc = s.lc := rfl
@[simp] theorem setPort_pow (s : State) (n : Nat) (v : Port) : (setPort s n v).pow = s.pow := rfl
@[simp] theorem setPort_clk (s : State) (n : Nat) (v : Port) : (setPort s n v).clk = s.clk := rfl
@[simp] theorem setPort_rst (s : State) (n : Nat) (v : Port) : (setPort s n v).rst = s.rst := rfl
@[simp] theorem setPort_pins (s : State) (n : Nat) (v : Port) : (setPort s n v).pins = s.pins := rfl
@[simp] theorem setPort_tap (s : State) (n : Nat) (v : Port) : (setPort s n v).tap = s.tap := rfl
@[simp] theorem setPort_spares (s : State) (n : Nat) (v : Port) : (setPort s n v).spares = s.spares := rfl
@[simp] theorem setPort_sbist (s : State) (n : Nat) (v : Port) : (setPort s n v).sbist = s.sbist := rfl
@[simp] theorem setPort_sub (s : State) (n : Nat) (v : Port) : (setPort s n v).sub = s.sub := rfl
@[simp] theorem setPort_held (s : State) (n : Nat) (v : Port) : (setPort s n v).held = s.held := rfl
@[simp] theorem setPort_reply (s : State) (n : Nat) (v : Port) : (setPort s n v).reply = s.reply := rfl
@[simp] theorem setPort_fresh (s : State) (n : Nat) (v : Port) : (setPort s n v).fresh = s.fresh := rfl
@[simp] theorem setAxis_pending (s : State) (n : Nat) (v : Axis) : (setAxis s n v).pending = s.pending := rfl
@[simp] theorem setAxis_regs (s : State) (n : Nat) (v : Axis) : (setAxis s n v).regs = s.regs := rfl
@[simp] theorem setAxis_mem (s : State) (n : Nat) (v : Axis) : (setAxis s n v).mem = s.mem := rfl
@[simp] theorem setAxis_words (s : State) (n : Nat) (v : Axis) : (setAxis s n v).words = s.words := rfl
@[simp] theorem setAxis_merges (s : State) (n : Nat) (v : Axis) : (setAxis s n v).merges = s.merges := rfl
@[simp] theorem setAxis_rpts (s : State) (n : Nat) (v : Axis) : (setAxis s n v).rpts = s.rpts := rfl
@[simp] theorem setAxis_milog (s : State) (n : Nat) (v : Axis) : (setAxis s n v).milog = s.milog := rfl
@[simp] theorem setAxis_flip (s : State) (n : Nat) (v : Axis) : (setAxis s n v).flip = s.flip := rfl
@[simp] theorem setAxis_hppr (s : State) (n : Nat) (v : Axis) : (setAxis s n v).hppr = s.hppr := rfl
@[simp] theorem setAxis_cip (s : State) (n : Nat) (v : Axis) : (setAxis s n v).cip = s.cip := rfl
@[simp] theorem setAxis_kids (s : State) (n : Nat) (v : Axis) : (setAxis s n v).kids = s.kids := rfl
@[simp] theorem setAxis_fawns (s : State) (n : Nat) (v : Axis) : (setAxis s n v).fawns = s.fawns := rfl
@[simp] theorem setAxis_icaches (s : State) (n : Nat) (v : Axis) : (setAxis s n v).icaches = s.icaches := rfl
@[simp] theorem setAxis_prods (s : State) (n : Nat) (v : Axis) : (setAxis s n v).prods = s.prods := rfl
@[simp] theorem setAxis_cons (s : State) (n : Nat) (v : Axis) : (setAxis s n v).cons = s.cons := rfl
@[simp] theorem setAxis_hdcs (s : State) (n : Nat) (v : Axis) : (setAxis s n v).hdcs = s.hdcs := rfl
@[simp] theorem setAxis_oryxes (s : State) (n : Nat) (v : Axis) : (setAxis s n v).oryxes = s.oryxes := rfl
@[simp] theorem setAxis_ports (s : State) (n : Nat) (v : Axis) : (setAxis s n v).ports = s.ports := rfl
@[simp] theorem setAxis_glog (s : State) (n : Nat) (v : Axis) : (setAxis s n v).glog = s.glog := rfl
@[simp] theorem setAxis_gstops (s : State) (n : Nat) (v : Axis) : (setAxis s n v).gstops = s.gstops := rfl
@[simp] theorem setAxis_broken (s : State) (n : Nat) (v : Axis) : (setAxis s n v).broken = s.broken := rfl
@[simp] theorem setAxis_cams (s : State) (n : Nat) (v : Axis) : (setAxis s n v).cams = s.cams := rfl
@[simp] theorem setAxis_links (s : State) (n : Nat) (v : Axis) : (setAxis s n v).links = s.links := rfl
@[simp] theorem setAxis_localMsgs (s : State) (n : Nat) (v : Axis) : (setAxis s n v).localMsgs = s.localMsgs := rfl
@[simp] theorem setAxis_localRsp (s : State) (n : Nat) (v : Axis) : (setAxis s n v).localRsp = s.localRsp := rfl
@[simp] theorem setAxis_reqs (s : State) (n : Nat) (v : Axis) : (setAxis s n v).reqs = s.reqs := rfl
@[simp] theorem setAxis_rlog (s : State) (n : Nat) (v : Axis) : (setAxis s n v).rlog = s.rlog := rfl
@[simp] theorem setAxis_tb (s : State) (n : Nat) (v : Axis) : (setAxis s n v).tb = s.tb := rfl
@[simp] theorem setAxis_host (s : State) (n : Nat) (v : Axis) : (setAxis s n v).host = s.host := rfl
@[simp] theorem setAxis_otp (s : State) (n : Nat) (v : Axis) : (setAxis s n v).otp = s.otp := rfl
@[simp] theorem setAxis_lc (s : State) (n : Nat) (v : Axis) : (setAxis s n v).lc = s.lc := rfl
@[simp] theorem setAxis_pow (s : State) (n : Nat) (v : Axis) : (setAxis s n v).pow = s.pow := rfl
@[simp] theorem setAxis_clk (s : State) (n : Nat) (v : Axis) : (setAxis s n v).clk = s.clk := rfl
@[simp] theorem setAxis_rst (s : State) (n : Nat) (v : Axis) : (setAxis s n v).rst = s.rst := rfl
@[simp] theorem setAxis_pins (s : State) (n : Nat) (v : Axis) : (setAxis s n v).pins = s.pins := rfl
@[simp] theorem setAxis_tap (s : State) (n : Nat) (v : Axis) : (setAxis s n v).tap = s.tap := rfl
@[simp] theorem setAxis_spares (s : State) (n : Nat) (v : Axis) : (setAxis s n v).spares = s.spares := rfl
@[simp] theorem setAxis_sbist (s : State) (n : Nat) (v : Axis) : (setAxis s n v).sbist = s.sbist := rfl
@[simp] theorem setAxis_sub (s : State) (n : Nat) (v : Axis) : (setAxis s n v).sub = s.sub := rfl
@[simp] theorem setAxis_held (s : State) (n : Nat) (v : Axis) : (setAxis s n v).held = s.held := rfl
@[simp] theorem setAxis_reply (s : State) (n : Nat) (v : Axis) : (setAxis s n v).reply = s.reply := rfl
@[simp] theorem setAxis_fresh (s : State) (n : Nat) (v : Axis) : (setAxis s n v).fresh = s.fresh := rfl
@[simp] theorem setCam_pending (s : State) (n : Nat) (v : Cam) : (setCam s n v).pending = s.pending := rfl
@[simp] theorem setCam_regs (s : State) (n : Nat) (v : Cam) : (setCam s n v).regs = s.regs := rfl
@[simp] theorem setCam_mem (s : State) (n : Nat) (v : Cam) : (setCam s n v).mem = s.mem := rfl
@[simp] theorem setCam_words (s : State) (n : Nat) (v : Cam) : (setCam s n v).words = s.words := rfl
@[simp] theorem setCam_merges (s : State) (n : Nat) (v : Cam) : (setCam s n v).merges = s.merges := rfl
@[simp] theorem setCam_rpts (s : State) (n : Nat) (v : Cam) : (setCam s n v).rpts = s.rpts := rfl
@[simp] theorem setCam_milog (s : State) (n : Nat) (v : Cam) : (setCam s n v).milog = s.milog := rfl
@[simp] theorem setCam_flip (s : State) (n : Nat) (v : Cam) : (setCam s n v).flip = s.flip := rfl
@[simp] theorem setCam_hppr (s : State) (n : Nat) (v : Cam) : (setCam s n v).hppr = s.hppr := rfl
@[simp] theorem setCam_cip (s : State) (n : Nat) (v : Cam) : (setCam s n v).cip = s.cip := rfl
@[simp] theorem setCam_kids (s : State) (n : Nat) (v : Cam) : (setCam s n v).kids = s.kids := rfl
@[simp] theorem setCam_fawns (s : State) (n : Nat) (v : Cam) : (setCam s n v).fawns = s.fawns := rfl
@[simp] theorem setCam_icaches (s : State) (n : Nat) (v : Cam) : (setCam s n v).icaches = s.icaches := rfl
@[simp] theorem setCam_prods (s : State) (n : Nat) (v : Cam) : (setCam s n v).prods = s.prods := rfl
@[simp] theorem setCam_cons (s : State) (n : Nat) (v : Cam) : (setCam s n v).cons = s.cons := rfl
@[simp] theorem setCam_hdcs (s : State) (n : Nat) (v : Cam) : (setCam s n v).hdcs = s.hdcs := rfl
@[simp] theorem setCam_oryxes (s : State) (n : Nat) (v : Cam) : (setCam s n v).oryxes = s.oryxes := rfl
@[simp] theorem setCam_ports (s : State) (n : Nat) (v : Cam) : (setCam s n v).ports = s.ports := rfl
@[simp] theorem setCam_axes (s : State) (n : Nat) (v : Cam) : (setCam s n v).axes = s.axes := rfl
@[simp] theorem setCam_glog (s : State) (n : Nat) (v : Cam) : (setCam s n v).glog = s.glog := rfl
@[simp] theorem setCam_gstops (s : State) (n : Nat) (v : Cam) : (setCam s n v).gstops = s.gstops := rfl
@[simp] theorem setCam_broken (s : State) (n : Nat) (v : Cam) : (setCam s n v).broken = s.broken := rfl
@[simp] theorem setCam_links (s : State) (n : Nat) (v : Cam) : (setCam s n v).links = s.links := rfl
@[simp] theorem setCam_localMsgs (s : State) (n : Nat) (v : Cam) : (setCam s n v).localMsgs = s.localMsgs := rfl
@[simp] theorem setCam_localRsp (s : State) (n : Nat) (v : Cam) : (setCam s n v).localRsp = s.localRsp := rfl
@[simp] theorem setCam_reqs (s : State) (n : Nat) (v : Cam) : (setCam s n v).reqs = s.reqs := rfl
@[simp] theorem setCam_rlog (s : State) (n : Nat) (v : Cam) : (setCam s n v).rlog = s.rlog := rfl
@[simp] theorem setCam_tb (s : State) (n : Nat) (v : Cam) : (setCam s n v).tb = s.tb := rfl
@[simp] theorem setCam_host (s : State) (n : Nat) (v : Cam) : (setCam s n v).host = s.host := rfl
@[simp] theorem setCam_otp (s : State) (n : Nat) (v : Cam) : (setCam s n v).otp = s.otp := rfl
@[simp] theorem setCam_lc (s : State) (n : Nat) (v : Cam) : (setCam s n v).lc = s.lc := rfl
@[simp] theorem setCam_pow (s : State) (n : Nat) (v : Cam) : (setCam s n v).pow = s.pow := rfl
@[simp] theorem setCam_clk (s : State) (n : Nat) (v : Cam) : (setCam s n v).clk = s.clk := rfl
@[simp] theorem setCam_rst (s : State) (n : Nat) (v : Cam) : (setCam s n v).rst = s.rst := rfl
@[simp] theorem setCam_pins (s : State) (n : Nat) (v : Cam) : (setCam s n v).pins = s.pins := rfl
@[simp] theorem setCam_tap (s : State) (n : Nat) (v : Cam) : (setCam s n v).tap = s.tap := rfl
@[simp] theorem setCam_spares (s : State) (n : Nat) (v : Cam) : (setCam s n v).spares = s.spares := rfl
@[simp] theorem setCam_sbist (s : State) (n : Nat) (v : Cam) : (setCam s n v).sbist = s.sbist := rfl
@[simp] theorem setCam_sub (s : State) (n : Nat) (v : Cam) : (setCam s n v).sub = s.sub := rfl
@[simp] theorem setCam_held (s : State) (n : Nat) (v : Cam) : (setCam s n v).held = s.held := rfl
@[simp] theorem setCam_reply (s : State) (n : Nat) (v : Cam) : (setCam s n v).reply = s.reply := rfl
@[simp] theorem setCam_fresh (s : State) (n : Nat) (v : Cam) : (setCam s n v).fresh = s.fresh := rfl
@[simp] theorem setLink_pending (s : State) (n : Nat) (v : Link) : (setLink s n v).pending = s.pending := rfl
@[simp] theorem setLink_regs (s : State) (n : Nat) (v : Link) : (setLink s n v).regs = s.regs := rfl
@[simp] theorem setLink_mem (s : State) (n : Nat) (v : Link) : (setLink s n v).mem = s.mem := rfl
@[simp] theorem setLink_words (s : State) (n : Nat) (v : Link) : (setLink s n v).words = s.words := rfl
@[simp] theorem setLink_merges (s : State) (n : Nat) (v : Link) : (setLink s n v).merges = s.merges := rfl
@[simp] theorem setLink_rpts (s : State) (n : Nat) (v : Link) : (setLink s n v).rpts = s.rpts := rfl
@[simp] theorem setLink_milog (s : State) (n : Nat) (v : Link) : (setLink s n v).milog = s.milog := rfl
@[simp] theorem setLink_flip (s : State) (n : Nat) (v : Link) : (setLink s n v).flip = s.flip := rfl
@[simp] theorem setLink_hppr (s : State) (n : Nat) (v : Link) : (setLink s n v).hppr = s.hppr := rfl
@[simp] theorem setLink_cip (s : State) (n : Nat) (v : Link) : (setLink s n v).cip = s.cip := rfl
@[simp] theorem setLink_kids (s : State) (n : Nat) (v : Link) : (setLink s n v).kids = s.kids := rfl
@[simp] theorem setLink_fawns (s : State) (n : Nat) (v : Link) : (setLink s n v).fawns = s.fawns := rfl
@[simp] theorem setLink_icaches (s : State) (n : Nat) (v : Link) : (setLink s n v).icaches = s.icaches := rfl
@[simp] theorem setLink_prods (s : State) (n : Nat) (v : Link) : (setLink s n v).prods = s.prods := rfl
@[simp] theorem setLink_cons (s : State) (n : Nat) (v : Link) : (setLink s n v).cons = s.cons := rfl
@[simp] theorem setLink_hdcs (s : State) (n : Nat) (v : Link) : (setLink s n v).hdcs = s.hdcs := rfl
@[simp] theorem setLink_oryxes (s : State) (n : Nat) (v : Link) : (setLink s n v).oryxes = s.oryxes := rfl
@[simp] theorem setLink_ports (s : State) (n : Nat) (v : Link) : (setLink s n v).ports = s.ports := rfl
@[simp] theorem setLink_axes (s : State) (n : Nat) (v : Link) : (setLink s n v).axes = s.axes := rfl
@[simp] theorem setLink_glog (s : State) (n : Nat) (v : Link) : (setLink s n v).glog = s.glog := rfl
@[simp] theorem setLink_gstops (s : State) (n : Nat) (v : Link) : (setLink s n v).gstops = s.gstops := rfl
@[simp] theorem setLink_broken (s : State) (n : Nat) (v : Link) : (setLink s n v).broken = s.broken := rfl
@[simp] theorem setLink_cams (s : State) (n : Nat) (v : Link) : (setLink s n v).cams = s.cams := rfl
@[simp] theorem setLink_localMsgs (s : State) (n : Nat) (v : Link) : (setLink s n v).localMsgs = s.localMsgs := rfl
@[simp] theorem setLink_localRsp (s : State) (n : Nat) (v : Link) : (setLink s n v).localRsp = s.localRsp := rfl
@[simp] theorem setLink_reqs (s : State) (n : Nat) (v : Link) : (setLink s n v).reqs = s.reqs := rfl
@[simp] theorem setLink_rlog (s : State) (n : Nat) (v : Link) : (setLink s n v).rlog = s.rlog := rfl
@[simp] theorem setLink_tb (s : State) (n : Nat) (v : Link) : (setLink s n v).tb = s.tb := rfl
@[simp] theorem setLink_host (s : State) (n : Nat) (v : Link) : (setLink s n v).host = s.host := rfl
@[simp] theorem setLink_otp (s : State) (n : Nat) (v : Link) : (setLink s n v).otp = s.otp := rfl
@[simp] theorem setLink_lc (s : State) (n : Nat) (v : Link) : (setLink s n v).lc = s.lc := rfl
@[simp] theorem setLink_pow (s : State) (n : Nat) (v : Link) : (setLink s n v).pow = s.pow := rfl
@[simp] theorem setLink_clk (s : State) (n : Nat) (v : Link) : (setLink s n v).clk = s.clk := rfl
@[simp] theorem setLink_rst (s : State) (n : Nat) (v : Link) : (setLink s n v).rst = s.rst := rfl
@[simp] theorem setLink_pins (s : State) (n : Nat) (v : Link) : (setLink s n v).pins = s.pins := rfl
@[simp] theorem setLink_tap (s : State) (n : Nat) (v : Link) : (setLink s n v).tap = s.tap := rfl
@[simp] theorem setLink_spares (s : State) (n : Nat) (v : Link) : (setLink s n v).spares = s.spares := rfl
@[simp] theorem setLink_sbist (s : State) (n : Nat) (v : Link) : (setLink s n v).sbist = s.sbist := rfl
@[simp] theorem setLink_sub (s : State) (n : Nat) (v : Link) : (setLink s n v).sub = s.sub := rfl
@[simp] theorem setLink_held (s : State) (n : Nat) (v : Link) : (setLink s n v).held = s.held := rfl
@[simp] theorem setLink_reply (s : State) (n : Nat) (v : Link) : (setLink s n v).reply = s.reply := rfl
@[simp] theorem setLink_fresh (s : State) (n : Nat) (v : Link) : (setLink s n v).fresh = s.fresh := rfl
@[simp] theorem rd_setKid (s : State) (n : Nat) (v : Kid) (F : Fld) (m i : Nat) : rd (setKid s n v) F m i = rd s F m i := rfl
@[simp] theorem kidOf_wr (s : State) (F : Fld) (n v i m : Nat) : kidOf (wr s F n v i) m = kidOf s m := rfl
@[simp] theorem rd_setFawn (s : State) (n : Nat) (v : Fawn) (F : Fld) (m i : Nat) : rd (setFawn s n v) F m i = rd s F m i := rfl
@[simp] theorem fawnOf_wr (s : State) (F : Fld) (n v i m : Nat) : fawnOf (wr s F n v i) m = fawnOf s m := rfl
@[simp] theorem rd_setIcache (s : State) (n : Nat) (v : ICache) (F : Fld) (m i : Nat) : rd (setIcache s n v) F m i = rd s F m i := rfl
@[simp] theorem icacheOf_wr (s : State) (F : Fld) (n v i m : Nat) : icacheOf (wr s F n v i) m = icacheOf s m := rfl
@[simp] theorem rd_setProd (s : State) (n : Nat) (v : Prod) (F : Fld) (m i : Nat) : rd (setProd s n v) F m i = rd s F m i := rfl
@[simp] theorem prodOf_wr (s : State) (F : Fld) (n v i m : Nat) : prodOf (wr s F n v i) m = prodOf s m := rfl
@[simp] theorem rd_setCons (s : State) (n : Nat) (v : Cons) (F : Fld) (m i : Nat) : rd (setCons s n v) F m i = rd s F m i := rfl
@[simp] theorem consOf_wr (s : State) (F : Fld) (n v i m : Nat) : consOf (wr s F n v i) m = consOf s m := rfl
@[simp] theorem rd_setHdc (s : State) (n : Nat) (v : Hdc) (F : Fld) (m i : Nat) : rd (setHdc s n v) F m i = rd s F m i := rfl
@[simp] theorem hdcOf_wr (s : State) (F : Fld) (n v i m : Nat) : hdcOf (wr s F n v i) m = hdcOf s m := rfl
@[simp] theorem rd_setOryx (s : State) (n : Nat) (v : Oryx) (F : Fld) (m i : Nat) : rd (setOryx s n v) F m i = rd s F m i := rfl
@[simp] theorem oryxOf_wr (s : State) (F : Fld) (n v i m : Nat) : oryxOf (wr s F n v i) m = oryxOf s m := rfl
@[simp] theorem rd_setPort (s : State) (n : Nat) (v : Port) (F : Fld) (m i : Nat) : rd (setPort s n v) F m i = rd s F m i := rfl
@[simp] theorem portOf_wr (s : State) (F : Fld) (n v i m : Nat) : portOf (wr s F n v i) m = portOf s m := rfl
@[simp] theorem rd_setAxis (s : State) (n : Nat) (v : Axis) (F : Fld) (m i : Nat) : rd (setAxis s n v) F m i = rd s F m i := rfl
@[simp] theorem axisOf_wr (s : State) (F : Fld) (n v i m : Nat) : axisOf (wr s F n v i) m = axisOf s m := rfl
@[simp] theorem rd_setCam (s : State) (n : Nat) (v : Cam) (F : Fld) (m i : Nat) : rd (setCam s n v) F m i = rd s F m i := rfl
@[simp] theorem camOf_wr (s : State) (F : Fld) (n v i m : Nat) : camOf (wr s F n v i) m = camOf s m := rfl
@[simp] theorem rd_setLink (s : State) (n : Nat) (v : Link) (F : Fld) (m i : Nat) : rd (setLink s n v) F m i = rd s F m i := rfl
@[simp] theorem linkOf_wr (s : State) (F : Fld) (n v i m : Nat) : linkOf (wr s F n v i) m = linkOf s m := rfl

end Sys2Proof.Machine
end

