-- ==== Sys2Proof/Laws/Memory.lean ====
section
/-!
SUPPORT. Memory: reading after writing, and that every memory operation keeps the canonical form.
-/

namespace Sys2Proof.Machine

/-! ### The canonical list -/

theorem wfFrom_mono {m : List Host.Cell} {lo lo' : Nat} (h : lo' ≤ lo) (w : Memory.wfFrom lo m = true) :
    Memory.wfFrom lo' m = true := by
  cases m with
  | nil => rfl
  | cons e m =>
    simp only [Memory.wfFrom, Bool.and_eq_true, decide_eq_true_eq] at w ⊢
    exact ⟨⟨Nat.le_trans h w.1.1, w.1.2⟩, w.2⟩

/-- Below the first address a canonical list reads the default. -/
theorem memGet_below {m : List Host.Cell} {lo a : Nat} (w : Memory.wfFrom lo m = true) (h : a < lo) :
    memGet m a = memDefault := by
  induction m generalizing lo with
  | nil => rfl
  | cons e m ih =>
    obtain ⟨k, v⟩ := e
    simp only [Memory.wfFrom, Bool.and_eq_true, decide_eq_true_eq] at w
    simp only [memGet]
    rw [if_neg (by omega)]
    exact ih w.2 (by omega)

theorem memDel_wfFrom {m : List Host.Cell} {lo a : Nat} (w : Memory.wfFrom lo m = true) :
    Memory.wfFrom lo (memDel m a) = true := by
  induction m generalizing lo with
  | nil => rfl
  | cons e m ih =>
    obtain ⟨k, v⟩ := e
    simp only [Memory.wfFrom, Bool.and_eq_true, decide_eq_true_eq] at w
    simp only [memDel]
    split
    · exact wfFrom_mono (by omega) w.2
    · split
      · simpa only [Memory.wfFrom, Bool.and_eq_true, decide_eq_true_eq] using w
      · simp only [Memory.wfFrom, Bool.and_eq_true, decide_eq_true_eq]
        exact ⟨w.1, ih w.2⟩

theorem memIns_wfFrom {m : List Host.Cell} {lo a : Nat} {b : Byte} (w : Memory.wfFrom lo m = true) (hb : b ≠ memDefault)
    (ha : lo ≤ a) : Memory.wfFrom lo (memIns m a b) = true := by
  induction m generalizing lo with
  | nil => simp [memIns, Memory.wfFrom, hb, ha]
  | cons e m ih =>
    obtain ⟨k, v⟩ := e
    simp only [Memory.wfFrom, Bool.and_eq_true, decide_eq_true_eq] at w
    simp only [memIns]
    split
    · next h => simp only [Memory.wfFrom, Bool.and_eq_true, decide_eq_true_eq]; exact ⟨⟨ha, hb⟩, h ▸ w.2⟩
    · split
      · simp only [Memory.wfFrom, Bool.and_eq_true, decide_eq_true_eq]
        exact ⟨⟨ha, hb⟩, ⟨by omega, w.1.2⟩, w.2⟩
      · simp only [Memory.wfFrom, Bool.and_eq_true, decide_eq_true_eq]
        exact ⟨w.1, ih w.2 (by omega)⟩

/-- Writing a byte keeps the canonical form. -/
theorem memSet_wf {m : List Host.Cell} {a : Nat} {b : Byte} (w : Memory.wf m = true) : Memory.wf (memSet m a b) = true := by
  unfold memSet
  split
  · exact memDel_wfFrom w
  · next h => exact memIns_wfFrom w h (Nat.zero_le _)

theorem memSetMany_wf {m : List Host.Cell} {a : Nat} {bs : List Byte} (w : Memory.wf m = true) :
    Memory.wf (memSetMany m a bs) = true := by
  induction bs generalizing m a with
  | nil => exact w
  | cons b bs ih => exact ih (memSet_wf w)

/-- Dropping addresses keeps the canonical form. -/
theorem filter_wfFrom {m : List Host.Cell} {lo : Nat} (p : Host.Cell → Bool) (w : Memory.wfFrom lo m = true) :
    Memory.wfFrom lo (m.filter p) = true := by
  induction m generalizing lo with
  | nil => rfl
  | cons e m ih =>
    obtain ⟨k, v⟩ := e
    simp only [Memory.wfFrom, Bool.and_eq_true, decide_eq_true_eq] at w
    simp only [List.filter]
    split
    · simp only [Memory.wfFrom, Bool.and_eq_true, decide_eq_true_eq]; exact ⟨w.1, ih w.2⟩
    · exact wfFrom_mono (by omega) (ih w.2)

/-- A fold of byte writes keeps the canonical form. -/
theorem foldl_wf {α : Type} (f : List Host.Cell → α → List Host.Cell)
    (h : ∀ m x, Memory.wf m = true → Memory.wf (f m x) = true) (l : List α) {m : List Host.Cell} (w : Memory.wf m = true) :
    Memory.wf (l.foldl f m) = true := by
  induction l generalizing m with
  | nil => exact w
  | cons x l ih => exact ih (h m x w)

/-! ### Read after write -/

theorem memDel_get_same {m : List Host.Cell} {lo a : Nat} (w : Memory.wfFrom lo m = true) : memGet (memDel m a) a = memDefault := by
  induction m generalizing lo with
  | nil => rfl
  | cons e m ih =>
    obtain ⟨k, v⟩ := e
    simp only [Memory.wfFrom, Bool.and_eq_true, decide_eq_true_eq] at w
    simp only [memDel]
    split
    · next h => exact memGet_below w.2 (by omega)
    · next h =>
      split
      · simp only [memGet, if_neg h]; exact memGet_below w.2 (by omega)
      · simp only [memGet, if_neg h]; exact ih w.2

theorem memDel_get_other {m : List Host.Cell} {a c : Nat} (h : c ≠ a) : memGet (memDel m a) c = memGet m c := by
  induction m with
  | nil => rfl
  | cons e m ih =>
    obtain ⟨k, v⟩ := e
    simp only [memDel]
    split
    · next hk => simp [memGet, hk, Ne.symm h]
    · split
      · rfl
      · simp only [memGet]; split
        · rfl
        · exact ih

theorem memIns_get_same {m : List Host.Cell} {a : Nat} {b : Byte} : memGet (memIns m a b) a = b := by
  induction m with
  | nil => simp [memIns, memGet]
  | cons e m ih =>
    obtain ⟨k, v⟩ := e
    simp only [memIns]
    split
    · simp [memGet]
    · next h =>
      split
      · simp [memGet]
      · simp only [memGet, if_neg h]; exact ih

theorem memIns_get_other {m : List Host.Cell} {a c : Nat} {b : Byte} (h : c ≠ a) : memGet (memIns m a b) c = memGet m c := by
  induction m with
  | nil => simp [memIns, memGet, Ne.symm h]
  | cons e m ih =>
    obtain ⟨k, v⟩ := e
    simp only [memIns]
    split
    · next hk => simp [memGet, hk, Ne.symm h]
    · split
      · simp [memGet, Ne.symm h]
      · simp only [memGet]; split
        · rfl
        · exact ih

/-- A byte reads as it was written. -/
theorem memGet_memSet_same {m : List Host.Cell} {a : Nat} {b : Byte} (w : Memory.wf m = true) : memGet (memSet m a b) a = b := by
  unfold memSet
  split
  · next h => rw [memDel_get_same w, h]
  · exact memIns_get_same

/-- Every other byte reads as before. -/
theorem memGet_memSet_other {m : List Host.Cell} {a c : Nat} {b : Byte} (h : c ≠ a) : memGet (memSet m a b) c = memGet m c := by
  unfold memSet
  split
  · exact memDel_get_other h
  · exact memIns_get_other h

theorem memGet_memSetMany_other {m : List Host.Cell} {a c : Nat} {bs : List Byte} (h : c < a ∨ a + bs.length ≤ c) :
    memGet (memSetMany m a bs) c = memGet m c := by
  induction bs generalizing m a with
  | nil => rfl
  | cons b bs ih =>
    simp only [List.length_cons] at h
    rw [memSetMany, ih (by omega), memGet_memSet_other (by omega)]

theorem memGet_memSetMany_at {m : List Host.Cell} {a i : Nat} {bs : List Byte} (w : Memory.wf m = true) (h : i < bs.length) :
    memGet (memSetMany m a bs) (a + i) = bs.getD i 0 := by
  induction bs generalizing m a i with
  | nil => simp at h
  | cons b bs ih =>
    cases i with
    | zero => rw [memSetMany, memGet_memSetMany_other (by omega)]; simpa using memGet_memSet_same w
    | succ i =>
      have := @ih (memSet m a b) (a + 1) i (memSet_wf w) (by simpa using h)
      rw [memSetMany, show a + (i + 1) = a + 1 + i by omega, this]; simp

/-! ### The operations of State -/

theorem reset_memOk : State.reset.memOk := rfl

@[simp] theorem raiseMapped_false (s : State) (h src : Nat) : raiseMapped s false h src = s := rfl

theorem memOk_of_mem {s t : State} (h : t.mem = s.mem) (w : s.memOk) : t.memOk := by
  unfold State.memOk at w ⊢; rw [h]; exact w

/-- Bytes written at an address keep the canonical form. -/
theorem memOk_set {s t : State} {a : Nat} {bs : List Byte} (h : t.mem = memSetMany s.mem a bs) (w : s.memOk) : t.memOk := by
  unfold State.memOk at w ⊢; rw [h]; exact memSetMany_wf w

theorem clearMem_memOk {s : State} (p : Nat → Bool) (w : s.memOk) : (clearMem s p).memOk := filter_wfFrom _ w

end Sys2Proof.Machine
end

