-- ==== Sys2Proof/Laws/Ops.lean ====
section
/-!
SUPPORT. What the shared operations can do, said once each: how a boundary answers, what a message changes, and what the operations
over memory words leave.
-/

namespace Sys2Proof.Machine

/-! ### Outcomes and boundaries -/

/-- An event happens where it is due, and changes nothing where it is not. -/
theorem due_true {s : State} {c : Bool} {t : State} (h : c = true) : due s c t = .next t := by simp [due, h]
theorem due_false {s : State} {c : Bool} {t : State} (h : c = false) : due s c t = .next s := by simp [due, h]
theorem due_next {s : State} {c : Bool} {t u : State} : due s c t = .next u ↔ (c = true ∧ u = t) ∨ (c = false ∧ u = s) := by
  unfold due
  cases c <;> simp [eq_comm]

/-- A write that no boundary holds acts, but in DEEP. -/
theorem served_next {s t : State} {act : State → State} :
    served s act = .next t ↔ t = if s.pow.deep then s else { act s with reply := .done } := by
  unfold served
  exact ⟨fun h => by injection h with h; exact h.symm, fun h => by rw [h]⟩

/-- A boundary answers in one of three ways; in DEEP no write comes. -/
theorem atBlock_next {s t : State} {d : Nat} {shut : Bool} {q : BusReq} {act : State → State} (h : atBlock s d shut q act = .next t) :
    (s.pow.deep = true ∧ t = s) ∨ (s.pow.deep = false ∧
      ((rdb s pd_DSTAT_TRIMFAIL d = true ∧ t = { s with reply := .reserved }) ∨
        (rdb s pd_DSTAT_TRIMFAIL d = false ∧ (pstate s d ≠ 0 ∨ shut = true) ∧ t = hold (touch s d) q) ∨
        (blockOpen s d shut ∧ t = { act s with reply := .done }))) := by
  unfold atBlock atBlockAns at h
  split at h
  · next hd => cases h; exact .inl ⟨hd, rfl⟩
  · next hd =>
    refine .inr ⟨by simpa using hd, ?_⟩
    split at h
    · next ht => cases h; exact .inl ⟨ht, rfl⟩
    · next ht =>
      split at h
      · next hp => cases h; exact .inr (.inl ⟨by simpa using ht, hp, rfl⟩)
      · next hp =>
        cases h
        simp only [ne_eq, not_or, Decidable.not_not, Bool.not_eq_true] at hp
        exact .inr (.inr ⟨⟨by simpa using hd, by simpa using ht, hp.1, hp.2⟩, rfl⟩)

/-- At an open block the operation happens. -/
theorem atBlock_open {s : State} {d : Nat} {shut : Bool} {q : BusReq} {act : State → State} (h : blockOpen s d shut) :
    atBlock s d shut q act = .next { act s with reply := .done } := by
  obtain ⟨h1, h2, h3, h4⟩ := h
  simp [atBlock, atBlockAns, h1, h2, h3, h4]

/-! ### Operations that change registers only, or registers and one more part -/

theorem incr_frame (s : State) (F : Fld) (n i : Nat) : incr s F n i = { s with regs := (incr s F n i).regs } := rfl
theorem incrSat_frame (s : State) (F : Fld) (n i : Nat) : incrSat s F n i = { s with regs := (incrSat s F n i).regs } := rfl
theorem resetBlk_frame (s : State) (b : Blk) (n : Nat) : resetBlk s b n = { s with regs := (resetBlk s b n).regs } := rfl

/-- A handshake at a gated domain changes PSTATE and the model's clock. -/
theorem touch_frame (s : State) (d : Nat) : touch s d = { s with regs := (touch s d).regs, clk := (touch s d).clk } := by
  unfold touch; split <;> rfl

theorem pendSource_frame (s : State) (h src : Nat) : pendSource s h src = { s with regs := (pendSource s h src).regs } := rfl

/-- A doorbell message changes registers, the messages that wait at an HDC, and the clock's stamp of a domain that it wakes. -/
theorem raise_frame (s : State) (h src : Nat) :
    raise s h src = { s with regs := (raise s h src).regs, hdcs := (raise s h src).hdcs, clk := (raise s h src).clk } := by
  by_cases h1 : rdb s pd_DSTAT_TRIMFAIL (herdDom h) = true
  · simp [raise, h1]
  · by_cases h2 : herdHeld s h = true
    · have h3 : raise s h src = setHdc (touch s (herdDom h)) h { hdcOf (touch s (herdDom h)) h with
          msgs := (hdcOf (touch s (herdDom h)) h).msgs ++ [BitVec.ofNat 8 src] } := by simp [raise, h1, h2]
      rw [h3, touch_frame]; rfl
    · have h3 : raise s h src = pendSource s h src := by simp [raise, h1, h2]
      rw [h3]; rfl

theorem raiseFault_frame (s : State) (src : Nat) :
    raiseFault s src = { s with regs := (raiseFault s src).regs, hdcs := (raiseFault s src).hdcs, clk := (raiseFault s src).clk } :=
  raise_frame _ _ _

theorem raiseMapped_frame (s : State) (m : Bool) (h src : Nat) :
    raiseMapped s m h src =
      { s with regs := (raiseMapped s m h src).regs, hdcs := (raiseMapped s m h src).hdcs, clk := (raiseMapped s m h src).clk } := by
  cases m
  · rfl
  · exact raise_frame _ _ _

theorem raiseBank_frame (s : State) (bank src : Nat) :
    raiseBank s bank src =
      { s with regs := (raiseBank s bank src).regs, hdcs := (raiseBank s bank src).hdcs, clk := (raiseBank s bank src).clk } := by
  unfold raiseBank; split
  · exact raise_frame _ _ _
  · exact raiseFault_frame _ _

/-- A vector changes registers and the host's record. -/
theorem msix_frame (s : State) (v : Nat) : msix s v = { s with regs := (msix s v).regs, host := (msix s v).host } := by
  unfold msix; repeat' (first | rfl | split)

theorem hostErr_frame (s : State) (off : Nat) : hostErr s off = { s with regs := (hostErr s off).regs } := rfl

/-- The time of an event takes at most one open value. -/
theorem stamp_frame (s : State) : (stamp s).2 = { s with fresh := (stamp s).2.fresh } := by
  unfold stamp; split <;> rfl
@[simp] theorem stamp_mem (s : State) : (stamp s).2.mem = s.mem := by rw [stamp_frame]

theorem logWrite_frame (s : State) (kind : Nat) (rq : Rq) (w : Loc) (synd : Nat) :
    logWrite s kind rq w synd = { s with regs := (logWrite s kind rq w synd).regs, milog := (logWrite s kind rq w synd).milog,
                                         fresh := (logWrite s kind rq w synd).fresh } := by
  unfold logWrite; split
  · dsimp only; rw [stamp_frame]
  · rfl

/-! ### Reads of memory change no byte -/

@[simp] theorem raise_mem (s : State) (h src : Nat) : (raise s h src).mem = s.mem := by rw [raise_frame]
@[simp] theorem raiseFault_mem (s : State) (src : Nat) : (raiseFault s src).mem = s.mem := raise_mem _ _ _
@[simp] theorem raiseBank_mem (s : State) (bank src : Nat) : (raiseBank s bank src).mem = s.mem := by rw [raiseBank_frame]
@[simp] theorem logWrite_mem (s : State) (kind : Nat) (rq : Rq) (w : Loc) (synd : Nat) : (logWrite s kind rq w synd).mem = s.mem := by
  rw [logWrite_frame]
@[simp] theorem incr_mem (s : State) (F : Fld) (n i : Nat) : (incr s F n i).mem = s.mem := rfl
@[simp] theorem setRpt_mem (s : State) (bank : Nat) (t : List RptEnt) : (setRpt s bank t).mem = s.mem := rfl
@[simp] theorem setMeta_mem (s : State) (w : Loc) (m : WMeta) : (setMeta s w m).mem = s.mem := rfl
@[simp] theorem rptFree_mem (s : State) (w : Loc) : (rptFree s w).mem = s.mem := rfl
@[simp] theorem rptFree_flip (s : State) (w : Loc) : (rptFree s w).flip = s.flip := rfl

@[simp] theorem rptCount_mem (s : State) (w : Loc) (rq : Rq) : (rptCount s w rq).mem = s.mem := by
  have hi : ∀ (c : Prop) [Decidable c] (x y : State), x.mem = s.mem → y.mem = s.mem → (if c then x else y).mem = s.mem := by
    intro c _ x y hx hy; split
    · exact hx
    · exact hy
  unfold rptCount
  exact hi _ _ _ (by simp) (by simp)

@[simp] theorem countSynd_mem (s : State) (w : Loc) (synd : Nat) (d : Dec) (rq : Rq) (table : Bool) :
    (countSynd s w synd d rq table).mem = s.mem := by
  unfold countSynd
  dsimp only
  split
  · split <;> simp
  · split <;> simp

@[simp] theorem countDec_mem (s : State) (w : Loc) (d : Dec) (rq : Rq) (table : Bool) : (countDec s w d rq table).mem = s.mem :=
  countSynd_mem _ _ _ _ _ _

/-- A read gives its bytes by the decode of the word, and changes no byte of memory. -/
@[simp] theorem readWord_mem (s : State) (w : Loc) (rq : Rq) : (readWord s w rq).2.mem = s.mem := countDec_mem _ _ _ _ _

@[simp] theorem readBytes_mem (fuel : Nat) (s : State) (a n : Nat) (rq : Rq) : (readBytes fuel s a n rq).2.mem = s.mem := by
  induction fuel generalizing s a n with
  | zero => cases n <;> rfl
  | succ f ih =>
    cases n with
    | zero => rfl
    | succ n =>
      rw [readBytes]
      split
      · rfl
      · rw [ih, readWord_mem]
      · exact fun h => Nat.succ_ne_zero _ h

@[simp] theorem memRead_mem (s : State) (a n : Nat) (rq : Rq) : (memRead s a n rq).2.mem = s.mem := readBytes_mem _ _ _ _ _

/-! ### Writes keep the canonical form -/

/-- A full write writes the bytes of its word and no other byte. -/
theorem fullWrite_mem (s : State) (w : Loc) (v : Nat) :
    ∃ x, (fullWrite s w v).mem = memSetMany s.mem w.base (bytesLE w.code.bytes x) := by
  unfold fullWrite
  dsimp only
  split
  · split <;> exact ⟨_, rfl⟩
  · exact ⟨_, rfl⟩

theorem fullWrite_memOk {s : State} (w : Loc) (v : Nat) (h : s.memOk) : (fullWrite s w v).memOk := by
  obtain ⟨x, hx⟩ := fullWrite_mem s w v
  exact memOk_set hx h

theorem reportReject_mem (s : State) (rq : Rq) (off : Nat) : (reportReject s rq off).mem = s.mem := by
  unfold reportReject
  split
  · dsimp only; split <;> rfl
  · split <;> rfl

theorem commitWord_memOk {s : State} (w : Loc) (h : s.memOk) : (commitWord s w).memOk := by
  have hi : ∀ (c : Bool) (x y : State), x.memOk → y.memOk → (if c then x else y).memOk := by
    intro c x y hx hy; cases c
    · exact hy
    · exact hx
  unfold commitWord
  split
  · exact h
  · dsimp only
    split
    · exact memOk_of_mem (by rw [reportReject_mem]; simp) h
    · exact fullWrite_memOk _ _ (hi _ _ _ h h)

theorem writeWord_memOk {s : State} (w : Loc) (o : Nat) (bs : List Byte) (rq : Rq) (h : s.memOk) : (writeWord s w o bs rq).memOk := by
  have hc : ∀ (c : Bool) (u : State) (l : Loc), u.memOk → (if c then commitWord u l else u).memOk := by
    intro c u l hu; cases c
    · exact hu
    · exact commitWord_memOk l hu
  unfold writeWord
  dsimp only
  generalize hs : (if (s.merges.any _) then commitWord s w else s) = u
  have hu : u.memOk := hs ▸ hc _ _ _ h
  split
  · exact fullWrite_memOk _ _ hu
  · split
    · split
      · exact commitWord_memOk _ hu
      · exact hu
    · split
      · split
        · exact commitWord_memOk (s := u) _ hu
        · exact hu
      · exact hu

theorem writeBytes_memOk (fuel : Nat) {s : State} (a : Nat) (bs : List Byte) (rq : Rq) (h : s.memOk) :
    (writeBytes fuel s a bs rq).memOk := by
  induction fuel generalizing s a bs with
  | zero => cases bs <;> exact h
  | succ f ih =>
    cases bs with
    | nil => exact h
    | cons b bs =>
      rw [writeBytes]
      split
      · exact h
      · exact ih _ _ (writeWord_memOk _ _ _ _ h)
      · exact fun e => List.cons_ne_nil _ _ e

theorem memWrite_memOk {s : State} (a : Nat) (bs : List Byte) (rq : Rq) (h : s.memOk) : (memWrite s a bs rq).memOk :=
  writeBytes_memOk _ _ _ _ h

theorem dropMerges_memOk {s : State} (p : Nat → Bool) (h : s.memOk) : (dropMerges s p).memOk := h
theorem clearRpts_memOk {s : State} (p : Nat → Bool) (h : s.memOk) : (clearRpts s p).memOk := h

theorem clearBank_memOk {s : State} (bank : Nat) (h : s.memOk) : (clearBank s bank).memOk := by
  unfold clearBank
  exact filter_wfFrom _ h

theorem foldl_memOk {α : Type} (f : State → α → State) (hf : ∀ s x, s.memOk → (f s x).memOk) (l : List α) {s : State} (h : s.memOk) :
    (l.foldl f s).memOk := by
  induction l generalizing s with
  | nil => exact h
  | cons x l ih => exact ih (hf s x h)

/-- A storage word of a ring, and a byte of a queue buffer. -/
theorem ringPut_memOk {s : State} (e q : Nat) (bs : List Byte) (h : s.memOk) : (ringPut s e q bs).memOk := memWrite_memOk _ _ _ h
theorem bufPut_memOk {s : State} (e o : Nat) (b : Byte) (h : s.memOk) : (bufPut s e o b).memOk := memWrite_memOk _ _ _ h

theorem commitBank_memOk {s : State} (bank : Nat) (h : s.memOk) : (commitBank s bank).memOk :=
  foldl_memOk _ (fun _ w hs => commitWord_memOk w hs) _ h

theorem copyPart_memOk {s : State} (k part : Nat) (h : s.memOk) : (copyPart s k part).memOk := by
  unfold copyPart
  extract_lets base fix mem words u
  have hu : u.memOk := by
    refine foldl_wf _ (fun m e hm => ?_) _ h
    split
    · split
      · exact memSetMany_wf hm
      · exact hm
    · exact hm
  split
  · split
    · exact fullWrite_memOk _ _ hu
    · exact hu
  · exact hu

theorem swapPart_memOk {s : State} (k part i : Nat) (h : s.memOk) : (swapPart s k part i).memOk :=
  foldl_wf _ (fun _ _ hm => memSet_wf hm) _ (clearMem_memOk _ h)

/-! ### Kids: no operation of the entries and halts touches memory -/

theorem foldl_mem {α : Type} (f : State → α → State) (hf : ∀ s x, (f s x).mem = s.mem) (l : List α) (s : State) :
    (l.foldl f s).mem = s.mem := by
  induction l generalizing s with
  | nil => rfl
  | cons x l ih => rw [List.foldl_cons, ih, hf]

@[simp] theorem kmodePulse_mem (s : State) (k : Nat) (v : Byte) : (kmodePulse s k v).mem = s.mem := by
  unfold kmodePulse
  dsimp only
  split <;> split <;> simp

@[simp] theorem kmodeApply_mem (s : State) (k : Nat) (v : Byte) : (kmodeApply s k v).mem = s.mem := kmodePulse_mem _ _ _

@[simp] theorem kmodeFlush_mem (s : State) (k : Nat) : (kmodeFlush s k).mem = s.mem :=
  foldl_mem _ (fun s e => by rw [kmodeApply_mem, setKid_mem]) _ _

@[simp] theorem bridgeReport_mem (s : State) (h src i : Nat) : (bridgeReport s h src i).mem = s.mem := by
  unfold bridgeReport
  split
  · split <;> simp
  · rfl

@[simp] theorem clearActive_mem (s : State) (h src : Nat) : (clearActive s h src).mem = s.mem :=
  foldl_mem _ (fun s i => bridgeReport_mem s h src i) _ _

@[simp] theorem kidComplete_mem (s : State) (k src : Nat) : (kidComplete s k src).mem = s.mem := by
  unfold kidComplete
  dsimp only
  split
  · rfl
  · split <;> simp

@[simp] theorem haltKid_mem (s : State) (k why : Nat) : (haltKid s k why).mem = s.mem := by
  have h : (completeClaim s k).mem = s.mem := by unfold completeClaim; split <;> simp
  exact h

/-- Taking a trap changes no byte of memory. -/
@[simp] theorem takeTrap_mem (s : State) (k code : Nat) (dfr : Bool) (epc : Nat) : (takeTrap s k code dfr epc).mem = s.mem := by
  unfold takeTrap
  split
  · rfl
  · exact kmodeFlush_mem _ _

@[simp] theorem takeDoorbell_mem (s : State) (k : Nat) (src : Byte) : (takeDoorbell s k src).mem = s.mem := rfl

end Sys2Proof.Machine
end

