-- ==== Sys2Proof/Tests/Slice0.lean ====
section
/-!
SUPPORT. Tests: ill-formed commands are refused, words written out from the encoding tables decode, worked examples and tables of the
spec, and for each statement a state and operands that meet its hypotheses.
-/

namespace Sys2Proof.Tests

open Sys2Proof.Machine

/-! ### Small states -/

/-- Registers after reset but for those listed: field, instance, element, value. -/
def regsOf (l : List (Fld × Nat × Nat × Nat)) : List (RegKey × Nat) := l.map (fun e => (e.1.key e.2.1 e.2.2.1, e.2.2.2))

/-- The state after reset but for the registers listed. -/
def stOf (l : List (Fld × Nat × Nat × Nat)) : State := { State.reset with regs := regsOf l }

/-- The same with no device reset under way. -/
def bootedAt (l : List (Fld × Nat × Nat × Nat)) : State := { stOf l with rst := { State.reset.rst with inReset := false } }

/-- Kid 0 at word 0x0010 with the words in its queue, four with the WAITs behind them, the general registers b, and the registers listed. -/
def kidAt (ws : List PWord) (b : Regs) (l : List (Fld × Nat × Nat × Nat)) : State :=
  let q := (List.range 4).map (fun i => (⟨0x10 + BitVec.ofNat 16 i, some (ws.getD i 0x0009), false, none⟩ : QWord))
  { stOf ((kc_KSTAT_STATE, 0, 0, 0) :: l) with kids := [(0, { b := b, pc := 0x10, fpc := 0x14, pq := q })] }

/-- The state with the timebase counter at a value. -/
def atCount (n : Nat) (s : State) : State := { s with tb := { s.tb with count := BitVec.ofNat 64 n } }

/-- Registers that are all zero. -/
def zeros : Regs := Vector.replicate 16 0

/-- Registers with pair 1 at an address and pair 2 at a value. -/
def pairs (a v : Nat) : Regs := Claims.withPair (Claims.withPair zeros 1 a) 2 v

/-- Fawn 0 running at word 5 of its program, which holds the word w there. -/
def fawnAt (w : Nat) (b : Regs) (l : List (Fld × Nat × Nat × Nat)) : State :=
  let s := { stOf l with fawns := [(0, { b := b, pc := 5, st := .running })] }
  memWrite s (fawnProgAddr 0 5) (bytesLE 2 w) ⟨0, 0⟩

/-- The outcome is a next state with the property. -/
def nextIs (o : Out) (p : State → Bool) : Bool := match o with
  | .next t => p t
  | _ => false

/-- The first word of kid k, as a test that evaluates. -/
def firstWord (s : State) (k : KidId) : Option (PWord × State) := match needWords (setKid s k (kidOf s k).atPc) k 1 with
  | (.ready, t) => (queued t k 0).map (fun w => (w, t))
  | _ => none

/-- Kid k issues i, as a test that evaluates. -/
def issuesK (s : State) (k : KidId) (i : Instr) : Bool :=
  kidReady s k && (!(kidOf s k).rep || !repForbidden i) && match firstWord s k with
    | some (w, t) =>
      if twoWords w then match needWords (chargeWord t k 0) k 2 with
        | (.ready, u) => match queued u k 1 with
          | some w₂ => decide (decodeInstr (.kid k) w w₂ = i)
          | none => false
        | _ => false
      else decide (decodeInstr (.kid k) w 0 = i)
    | none => false

theorem firstWord_has {s : State} {k : KidId} {w : PWord} {t : State} (h : firstWord s k = some (w, t)) :
    kidHas (setKid s k (kidOf s k).atPc) k 1 w t := by
  unfold firstWord at h
  split at h
  · next u hu =>
    cases hq : queued u k 0 with
    | none => rw [hq] at h; cases h
    | some v => rw [hq] at h; cases h; exact ⟨hu, hq⟩
  · cases h

theorem issuesK_sound {s : State} {k : KidId} {i : Instr} (h : issuesK s k i = true) : kidIssues s k i := by
  unfold issuesK at h
  simp only [Bool.and_eq_true, Bool.or_eq_true, Bool.not_eq_true'] at h
  obtain ⟨⟨hr, hf⟩, h⟩ := h
  have hf : (kidOf s k).rep = true → repForbidden i = false := fun hrep => by
    rcases hf with hf | hf
    · rw [hrep] at hf; cases hf
    · exact hf
  cases hw : firstWord s k with
  | none => rw [hw] at h; cases h
  | some p =>
    obtain ⟨w, t⟩ := p
    rw [hw] at h
    dsimp only at h
    refine ⟨hr, w, t, firstWord_has hw, ?_, hf⟩
    split at h
    · next h2 =>
      rw [if_pos h2]
      split at h
      · next u hu =>
        split at h
        · next v hv => exact ⟨v, u, ⟨hu, hv⟩, of_decide_eq_true h⟩
        · cases h
      · cases h
    · next h2 => rw [if_neg h2]; exact of_decide_eq_true h

/-- Fawn n issues i, as a test that evaluates. -/
def issuesF (s : State) (n : FawnId) (i : Instr) : Bool :=
  fawnReady s n && match fawnWord s n (fawnOf s n).pc.toNat with
  | (some w, _) => decide (decodeInstr (.fawn n) w 0 = i)
  | _ => false

theorem issuesF_sound {s : State} {n : FawnId} {i : Instr} (h : issuesF s n i = true) : fawnIssues s n i := by
  unfold issuesF at h
  simp only [Bool.and_eq_true] at h
  obtain ⟨hr, h⟩ := h
  refine ⟨hr, ?_⟩
  split at h
  · next w s₁ h1 => exact ⟨w, s₁, h1, by simpa using h⟩
  · cases h

/-! ### Well-formedness: one ill-formed command for each check -/

theorem test_wf_long_form_on_fawn : (Instr.add (.fawn 0) .long 0 1).wf = false := by decide
theorem test_wf_short_form_b8 : (Instr.mov (.kid 0) .short 8 0).wf = false ∧ (Instr.mov (.kid 0) .short 0 8).wf = false := by decide
theorem test_wf_short_byte_b15 : (Instr.not (.kid 0) .short 15).wf = false := by decide
theorem test_wf_short_pair_w4 : (Instr.addw (.kid 0) .short 4 0).wf = false ∧ (Instr.movw (.kid 0) .short 0 4).wf = false := by decide
theorem test_wf_short_increment_3 : (Instr.addiW (.kid 0) .short 0 3).wf = false := by decide
theorem test_wf_writer_fawn : (Instr.registerWrite (.fawn 0) 0x1400480000 .b4 0).wf = false := by decide
theorem test_wf_push_engine : (Instr.push .engine 0 0 .b4 0).wf = false := by decide
theorem test_wf_push_offset : (Instr.push (.kid 0) 0 2 .b4 0).wf = false ∧ (Instr.push (.kid 0) 0 6 .b4 0).wf = false := by decide
theorem test_wf_route_bytes : (Instr.routeBytes 0 0).wf = false ∧ (Instr.routeBytes 0 257).wf = false := by decide
theorem test_wf_post_last_byte : (Instr.post (.kid 0) 0 0 8 .b4 0).wf = false := by decide
theorem test_wf_seventeen_answers : (Instr.configSequence 0 (List.replicate 17 .timeout)).wf = false := by decide
theorem test_wf_bar0_range : (Instr.barRead false 0x10000 4).wf = false ∧ (Instr.barWrite false 0x10000 [0, 0, 0, 0]).wf = false := by decide
theorem test_wf_bar_read_page : (Instr.barRead true 0xFFC 8).wf = false := by decide
theorem test_wf_measurement : (Instr.wakeUp 1 [] ⟨2, [], 0, 0, 0⟩).wf = false := by decide
theorem test_wf_sample_pass : (Instr.samplePass [0, 0, 0, 0] 0 []).wf = false := by decide
theorem test_wf_boundary_cells : (Instr.extest [true]).wf = false := by decide
theorem test_wf_bypass_of_idcode : (Instr.bypass 0x01).wf = false := by decide

/-! ### Words written out from the encoding tables (R95, R96) -/

/-- Words of class 0b00 and the instructions that they are. -/
def shortWords (c : Who) : List (PWord × Instr) :=
  [(0x0008, .nop c), (0x0009, .wait c), (0x000A, .fence c), (0x0013, .not c .short 3), (0x001D, .jr c 5), (0x0022, .jalr c 2),
    (0x0046, .addw c .short 1 2), (0x005B, .subw c .short 2 3), (0x006C, .movw c .short 3 0), (0x0078, .addiW c .short 2 1),
    (0x007F, .addiW c .short 3 8), (0x008F, .addiB c .short 0 (-1)), (0x0105, .jal c 5), (0x0264, .beqz c .short 3 4),
    (0x031B, .bnez c .short 0 (-5)), (0x0430, .mov c .short 6 0), (0x045A, .add c .short 3 2), (0x048F, .sub c .short 1 7),
    (0x04D3, .and c .short 2 3), (0x0525, .or c .short 4 5), (0x0577, .xor c .short 6 7), (0x05B3, .cry c .short 6 3)] ++
  [(0x05C1, .brw c .short 0 1), (0x0617, .shl c .short 2 7), (0x0658, .shr c .short 3 0), (0x068A, .sar c .short 1 2),
    (0x06FF, .rol c .short 7 7), (0x0712, .ld c .short 2 2), (0x076E, .st c .short 5 6), (0x07A6, .ldw c 4 6), (0x07E6, .stw c 4 6),
    (0x0D04, .movi c 5 4), (0x0000, .reservedEncoding c), (0x000B, .reservedEncoding c), (0x003F, .reservedEncoding c)]

/-- Words of the other classes, which are a kid's alone. -/
def longWords (k : KidId) : List (PWord × Instr) :=
  let c := Who.kid k
  [(0x10F8, .mov c .long 15 8), (0x119A, .add c .long 9 10), (0x12AB, .sub c .long 10 11), (0x13BC, .and c .long 11 12),
    (0x14CD, .or c .long 12 13), (0x15DE, .xor c .long 13 14), (0x16EF, .cry c .long 14 15), (0x17F0, .brw c .long 15 0),
    (0x18AD, .beq k 1 2 (-3)), (0x1F87, .bne k 7 0 7), (0x21C8, .blt k 3 4 (-8)), (0x2411, .bge k 0 1 1), (0x2AEF, .bltu k 5 6 (-1)),
    (0x2D32, .bgeu k 2 3 2), (0x319F, .beqz c .long 12 (-1)), (0x3323, .bnez c .long 9 3), (0x3525, .mfs k 4 0x25),
    (0x3781, .mts k 1 6), (0x3841, .shl c .long 8 1), (0x38FF, .shr c .long 15 7)] ++
  [(0x3953, .sar c .long 10 3), (0x39DC, .rol c .long 11 4), (0x3A5E, .mul k 5 14), (0x3AE9, .div k 6 9), (0x3BD7, .addiB c .long 13 7),
    (0x3C04, .rep k (.imm 4)), (0x3D66, .ld c .long 12 6), (0x3DE9, .st c .long 13 1), (0x3E37, .addw c .long 6 7),
    (0x3E65, .subw c .long 4 5), (0x3EBC, .movw c .long 7 4), (0x3ECA, .pml k 1 2), (0x3F1C, .pmw k 3 4), (0x3F4A, .rep k (.reg 10)),
    (0x3F5C, .not c .long 12), (0x3F64, .synci k), (0x3F65, .reti k), (0x3F66, .trap k), (0x3F67, .reservedEncoding c),
    (0x3F7F, .reservedEncoding c), (0x3FEE, .addiW c .long 6 (-2))]

theorem test_decode_short_kid : ∀ p ∈ shortWords (.kid 0), decodeInstr (.kid 0) p.1 0 = p.2 := by decide
theorem test_decode_short_fawn : ∀ p ∈ shortWords (.fawn 0), decodeInstr (.fawn 0) p.1 0 = p.2 := by decide
theorem test_decode_long : ∀ p ∈ longWords 0, decodeInstr (.kid 0) p.1 0 = p.2 := by decide
theorem test_encode_long : ∀ p ∈ (longWords 0).take 12, encodeInstr p.2 = [p.1] := by decide

/-- The entry table of the spec: JAL with two words (R106). -/
theorem test_decode_entry_table : decodeInstr (.kid 0) 0x3F60 0x0010 = .jalTwoWord 0 false 0x0010 ∧
    decodeInstr (.kid 0) 0x3F60 0x1A40 = .jalTwoWord 0 false 0x1A40 ∧ decodeInstr (.kid 0) 0x3F61 0x1A40 = .jalTwoWord 0 false 0x5A40 ∧
    decodeInstr (.kid 0) 0x3F63 0x1A40 = .jalTwoWord 0 true 0x5A40 := by decide

/-- Every word of the lists issues at a quiet kid, or at a fawn, whose program word it is. -/
theorem witness_issue_short_kid : ∀ p ∈ shortWords (.kid 0), kidIssues (kidAt [p.1] zeros []) 0 p.2 := fun p h =>
  issuesK_sound (by revert p; decide)
theorem witness_issue_short_fawn : ∀ p ∈ shortWords (.fawn 0), fawnIssues (fawnAt p.1.toNat zeros []) 0 p.2 := fun p h =>
  issuesF_sound (by revert p; decide)
theorem witness_issue_long : ∀ p ∈ longWords 0, kidIssues (kidAt [p.1] zeros []) 0 p.2 := fun p h => issuesK_sound (by revert p; decide)
theorem witness_issue_jal_two_words : kidIssues (kidAt [0x3F63, 0x1A40] zeros []) 0 (.jalTwoWord 0 true 0x5A40) ∧
    kidIssues (kidAt [0x3F60, 0x0010] zeros []) 0 (.jalTwoWord 0 false 0x0010) :=
  ⟨issuesK_sound (by decide), issuesK_sound (by decide)⟩

/-- A kid with nothing on its way, and inside a repeat with COUNT 3. -/
theorem witness_kid_quiet : kidQuiet (kidOf (kidAt [0x0430] zeros []) 0) := by unfold kidQuiet; decide

/-- Kid 0 inside a repeat of its word. -/
def repAt (w : PWord) (n : Nat) : State :=
  let s := kidAt [w] zeros [(kd_KRPT_COUNT, 0, 0, n)]
  setKid s 0 { kidOf s 0 with rep := true }

theorem witness_kid_repeats : ∀ n ∈ [1, 2, 256], kidIssues (repAt 0x0430 n) 0 (.mov (.kid 0) .short 6 0) ∧
    (kidOf (repAt 0x0430 n) 0).rep = true ∧ rd (repAt 0x0430 n) kd_KRPT_COUNT 0 = n ∧ n ≤ 256 := fun n h =>
  ⟨issuesK_sound (by revert n; decide), by revert n; decide⟩

/-! ### Kid instructions: worked examples -/

/-- ADD wraps, CRY is its carry: word 1 to 3 of the 24-bit addition of the spec. -/
theorem test_add_worked : nextIs (exec (.add (.kid 0) .short 0 3) (kidAt [0x0443] (Claims.withByte (Claims.withByte zeros 0 0xF0) 3 0x25) []))
    (fun t => (kidOf t 0).b[0] == 0x15 && (kidOf t 0).b[3] == 0x25 && (kidOf t 0).pc == 0x11) = true := by decide
theorem test_cry_worked : nextIs (exec (.cry (.kid 0) .short 6 3) (kidAt [0x05B3] (Claims.withByte (Claims.withByte zeros 6 0xF0) 3 0x25) []))
    (fun t => (kidOf t 0).b[6] == 1) = true := by decide
/-- ADD b3, b3 doubles b3 (R99). -/
theorem test_add_doubles : nextIs (exec (.add (.kid 0) .short 3 3) (kidAt [0x045B] (Claims.withByte zeros 3 0x81) []))
    (fun t => (kidOf t 0).b[3] == 0x02) = true := by decide
theorem test_sar_by_eight : nextIs (exec (.sar (.kid 0) .short 1 7) (kidAt [0x068F] (Claims.withByte zeros 1 0x80) []))
    (fun t => (kidOf t 0).b[1] == 0xFF) = true := by decide
theorem test_shl_by_eight : nextIs (exec (.shl (.kid 0) .short 2 7) (kidAt [0x0617] (Claims.withByte zeros 2 0xFF) []))
    (fun t => (kidOf t 0).b[2] == 0) = true := by decide
theorem test_rol_by_eight : nextIs (exec (.rol (.kid 0) .short 7 7) (kidAt [0x06FF] (Claims.withByte zeros 7 0xA5) []))
    (fun t => (kidOf t 0).b[7] == 0xA5) = true := by decide
theorem test_addi_pair_long : nextIs (exec (.addiW (.kid 0) .long 6 (-2)) (kidAt [0x3FEE] zeros []))
    (fun t => Claims.pairNat (kidOf t 0).b 6 == 0xFFFE) = true := by decide
theorem test_mul_uses_low_byte : nextIs (exec (.mul 0 5 14) (kidAt [0x3A5E] (Claims.withByte (Claims.withPair zeros 5 0x12FF) 14 0xFF) []))
    (fun t => Claims.pairNat (kidOf t 0).b 5 == 0xFE01) = true := by decide
theorem test_div_rounds_down : nextIs (exec (.div 0 6 9) (kidAt [0x3AE9] (Claims.withByte (Claims.withPair zeros 6 1000) 9 7) []))
    (fun t => Claims.pairNat (kidOf t 0).b 6 == 142) = true := by decide
/-- Off = -5 at word 0x0124 goes to 0x0120 (the byte-sum loop); here from 0x0010. -/
theorem test_bnez_taken : nextIs (exec (.bnez (.kid 0) .short 0 (-5)) (kidAt [0x031B] (Claims.withByte zeros 0 1) []))
    (fun t => (kidOf t 0).pc == 0x0C) = true := by decide
theorem test_bnez_not_taken : nextIs (exec (.bnez (.kid 0) .short 0 (-5)) (kidAt [0x031B] zeros [])) (fun t => (kidOf t 0).pc == 0x11) = true := by
  decide
theorem test_blt_signed : nextIs (exec (.blt 0 3 4 (-8)) (kidAt [0x21C8] (Claims.withByte zeros 3 0x80) [])) (fun t => (kidOf t 0).pc == 0x9) = true := by
  decide
theorem test_bltu_unsigned : nextIs (exec (.bltu 0 5 6 (-1)) (kidAt [0x2AEF] (Claims.withByte zeros 5 0x80) [])) (fun t => (kidOf t 0).pc == 0x11) = true := by
  decide
/-- JALR w7 jumps to the old w7 and then writes the return address (R99). -/
theorem test_jalr_w7 : nextIs (exec (.jalr (.kid 0) 7) (kidAt [0x0027] (Claims.withPair zeros 7 0x4321) []))
    (fun t => (kidOf t 0).pc == 0x4321 && Claims.pairNat (kidOf t 0).b 7 == 0x11) = true := by decide
theorem test_jal_two_words_links : nextIs (exec (.jalTwoWord 0 true 0x5A40) (kidAt [0x3F63, 0x1A40] zeros []))
    (fun t => (kidOf t 0).pc == 0x5A40 && Claims.pairNat (kidOf t 0).b 7 == 0x12) = true := by decide
/-- A fawn's pc wraps at 1,024 (R113). -/
theorem test_fawn_branch_wraps : nextIs (exec (.jal (.fawn 0) (-8)) (fawnAt 0x01F8 zeros [])) (fun t => (fawnOf t 0).pc == 0x3FE &&
    Claims.pairNat (fawnOf t 0).b 7 == 6) = true := by decide

/-! ### Kid instructions: witnesses -/

theorem witness_PairInstructionsCompute :
    kidIssues (kidAt [0x3AE9] (Claims.withByte zeros 9 7) []) 0 (.div 0 6 9) ∧
      Claims.byteNat (Claims.kregs (kidAt [0x3AE9] (Claims.withByte zeros 9 7) []) 0) 9 ≠ 0 ∧
      kidQuiet (kidOf (kidAt [0x3AE9] (Claims.withByte zeros 9 7) []) 0) ∧
      kidIssues (kidAt [0x3AE9] zeros []) 0 (.div 0 6 9) ∧ Claims.byteNat (Claims.kregs (kidAt [0x3AE9] zeros []) 0) 9 = 0 ∧
      rdb (kidAt [0x3AE9] zeros []) kd_KMODE_INTR 0 = false ∧ rd (kidAt [0x3AE9] zeros []) kd_KRPT_COUNT 0 ≤ 256 ∧
      kidIssues (kidAt [0x3AE9] zeros [(kd_KMODE_INTR, 0, 0, 1)]) 0 (.div 0 6 9) ∧
      rdb (kidAt [0x3AE9] zeros [(kd_KMODE_INTR, 0, 0, 1)]) kd_KMODE_INTR 0 = true :=
  ⟨issuesK_sound (by decide), by decide, by unfold kidQuiet; decide, issuesK_sound (by decide), by decide, by decide,
    by decide, issuesK_sound (by decide), by decide⟩

/-- Kid 0 before LD b2, [w1] with one buffered byte store, and before LDW w4, [w1] with a buffered pair store, at data address 0x0400. -/
def loadAt (w : PWord) (n : Nat) : State :=
  let s := kidAt [w] (pairs 0x400 0) []
  setKid s 0 { kidOf s 0 with sbuf := [⟨⟨true, 0, 0x11_0000_0400⟩, n, 0x1234, false, none⟩] }

theorem witness_LoadsRead :
    (kidPlace (loadAt 0x0711 1) 0 0x400 = .buf ⟨true, 0, 0x11_0000_0400⟩ ∧ kidIssues (loadAt 0x0711 1) 0 (.ld (.kid 0) .short 2 1) ∧
      accessTrap (loadAt 0x0711 1) 0 0x400 1 = none) ∧
    (kidIssues (loadAt 0x07A1 2) 0 (.ldw (.kid 0) 4 1) ∧ accessTrap (loadAt 0x07A1 2) 0 0x400 2 = none) ∧
    (kidIssues (kidAt [0x0711] (pairs 0x7FF 0) []) 0 (.ld (.kid 0) .short 2 1) ∧
      (memRead (kidAt [0x0711] (pairs 0x7FF 0) []) 0x11_0000_07FF 1 (agentRq (.kid 0) false)).1 = some [0]) ∧
    (kidIssues (kidAt [0x07A1] (pairs 0x7FE 0) []) 0 (.ldw (.kid 0) 4 1) ∧
      (memRead (kidAt [0x07A1] (pairs 0x7FE 0) []) 0x11_0000_07FE 2 (agentRq (.kid 0) false)).1 = some [0, 0]) ∧
    rdb (kidAt [0x07A1] (pairs 0x7FE 0) []) pd_DSTAT_TRIMFAIL (herdDom (herdOfKid 0)) = false :=
  ⟨⟨by decide, issuesK_sound (by decide), by decide⟩, ⟨issuesK_sound (by decide), by decide⟩, ⟨issuesK_sound (by decide), by decide⟩,
    ⟨issuesK_sound (by decide), by decide⟩, by decide⟩

/-- Kid 0 with one buffered store for its own data memory. -/
def drainAt (n : Nat) : State :=
  let s := kidAt [] zeros []
  setKid s 0 { kidOf s 0 with sbuf := [⟨⟨true, 0, 0x11_0000_07FE⟩, n, 0x1234, false, none⟩] }

theorem witness_StoresBufferAndDrain :
    (kidIssues (kidAt [0x0769] (pairs 0x400 7) []) 0 (.st (.kid 0) .short 5 1) ∧ kidQuiet (kidOf (kidAt [0x0769] (pairs 0x400 7) []) 0) ∧
      accessTrap (kidAt [0x0769] (pairs 0x400 7) []) 0 0x400 1 = none) ∧
    (kidIssues (kidAt [0x07D1] (pairs 0x4FFE 7) []) 0 (.stw (.kid 0) 2 1) ∧ accessTrap (kidAt [0x07D1] (pairs 0x4FFE 7) []) 0 0x4FFE 2 = none) ∧
    (kidIssues (kidAt [0x0769] (pairs 0xFE00 7) []) 0 (.st (.kid 0) .short 5 1) ∧ kidPlace (kidAt [0x0769] (pairs 0xFE00 7) []) 0 0xFE00 = .dev 0x12_0000_1000 ∧
      accessTrap (kidAt [0x0769] (pairs 0xFE00 7) []) 0 0xFE00 1 = none ∧ (kidOf (kidAt [0x0769] (pairs 0xFE00 7) []) 0).sbuf = []) ∧
    (∀ n ∈ [1, 2], (kidOf (drainAt n) 0).sbuf = [⟨⟨true, 0, 0x11_0000_07FE⟩, n, 0x1234, false, none⟩] ∧ kidLive (drainAt n) 0 = true ∧
      rdb (drainAt n) pd_DSTAT_TRIMFAIL (herdDom (herdOfKid 0)) = false) ∧
    (locOf 0x11_0000_07FE = some ⟨0x2000_0000, 0x1FF, 0x11_0000_07FC, .w32⟩ ∧
      (decodeAt (drainAt 2) ⟨0x2000_0000, 0x1FF, 0x11_0000_07FC, .w32⟩).bad = false ∧ (drainAt 2).flip = none ∧ (drainAt 2).merges = []) :=
  ⟨⟨issuesK_sound (by decide), by unfold kidQuiet; decide, by decide⟩, ⟨issuesK_sound (by decide), by decide⟩,
    ⟨issuesK_sound (by decide), by decide, by decide, by decide⟩, by decide, by decide⟩

theorem witness_BadAccessTraps :
    (kidIssues (kidAt [0x07A1] (pairs 0x401 0) []) 0 (.ldw (.kid 0) 4 1) ∧ kidIssues (kidAt [0x07D1] (pairs 0xFFFF 0) []) 0 (.stw (.kid 0) 2 1)) ∧
    (∀ a ∈ [0x800, 0xFFF, 0x5000, 0x7FFF, 0xF000, 0xFDFF], kidIssues (kidAt [0x0711] (pairs a 0) []) 0 (.ld (.kid 0) .short 2 1) ∧
      kidIssues (kidAt [0x0769] (pairs a 0) []) 0 (.st (.kid 0) .short 5 1)) ∧
    kidIssues (kidAt [0x07A1] (pairs 0x800 0) []) 0 (.ldw (.kid 0) 4 1) ∧ kidIssues (kidAt [0x07D1] (pairs 0x800 0) []) 0 (.stw (.kid 0) 2 1) :=
  ⟨⟨issuesK_sound (by decide), issuesK_sound (by decide)⟩,
    fun a h => ⟨issuesK_sound (by revert a; decide), issuesK_sound (by revert a; decide)⟩, issuesK_sound (by decide), issuesK_sound (by decide)⟩

theorem witness_SynchronisingInstructions :
    kidIssues (kidAt [0x0009] zeros [(kd_KMODE_DBE, 0, 0, 1)]) 0 (.wait (.kid 0)) ∧
    (rdb (kidAt [0x0009] zeros [(kd_KMODE_DBE, 0, 0, 1)]) kd_KMODE_DBE 0 = true ∧
      rdb (kidAt [0x0009] zeros [(kd_KMODE_DBE, 0, 0, 1)]) kd_KMODE_INDB 0 = false ∧
      rdb (kidAt [0x0009] zeros [(kd_KMODE_DBE, 0, 0, 1)]) kd_KMODE_INTR 0 = false) ∧
    rdb (kidAt [0x0009] zeros []) kd_KMODE_DBE 0 = false ∧ rdb (kidAt [0x0009] zeros [(kd_KMODE_INDB, 0, 0, 1)]) kd_KMODE_INDB 0 = true ∧
    rdb (kidAt [0x0009] zeros [(kd_KMODE_INTR, 0, 0, 1)]) kd_KMODE_INTR 0 = true :=
  ⟨issuesK_sound (by decide), by decide, by decide, by decide, by decide⟩

theorem witness_RepeatSetsCount :
    kidIssues (kidAt [0x3C04, 0x0430] zeros []) 0 (.rep 0 (.imm 4)) ∧ kidIssues (kidAt [0x3F4A, 0x0430] zeros []) 0 (.rep 0 (.reg 10)) ∧
    kidQuiet (kidOf (kidAt [0x3C04, 0x0430] zeros []) 0) ∧ Claims.queueHolds (kidAt [0x3C04, 0x0430] zeros []) 0 1 0x0430 ∧
    repForbidden (decodeInstr (.kid 0) 0x0430 0) = false :=
  ⟨issuesK_sound (by decide), issuesK_sound (by decide), by unfold kidQuiet; decide,
    by unfold Claims.queueHolds; decide, by decide⟩

theorem witness_KidControlActs : (∀ k ∈ [0, 1, 2, 3],
    blockOpen (stOf [(kc_KSTAT_STATE, 0, 0, k)]) (herdDom (herdOfKid 0)) (herdShut (stOf [(kc_KSTAT_STATE, 0, 0, k)]) (herdOfKid 0)) ∧
      kstate (stOf [(kc_KSTAT_STATE, 0, 0, k)]) 0 = k) ∧
    rdb (stOf [(kc_KCTL_RSTHOLD, 0, 0, 0)]) kc_KCTL_RSTHOLD 0 = false ∧ kstate (stOf [(kc_KCTL_RSTHOLD, 0, 0, 0)]) 0 = 3 ∧
    herdHeld (stOf [(kc_KCTL_RSTHOLD, 0, 0, 0)]) (herdOfKid 0) = false := by unfold blockOpen; decide

theorem witness_HandlersEntered :
    (let s := setKid (kidAt [] zeros []) 0 { pc := 0x10, deferred := [6] };
      (kidOf s 0).deferred = [6] ∧ atBoundary s 0 = true ∧ rdb s kd_KMODE_INTR 0 = false ∧ rd s kd_KRPT_COUNT 0 ≤ 256) ∧
    (∀ w ∈ [0, 1], let s := setKid (stOf [(kc_KSTAT_STATE, 0, 0, w), (kd_KMODE_DBE, 0, 0, 1)]) 0 { pc := 0x10, deliv := some (7, true) };
      (kidOf s 0).deliv = some (7, true) ∧ entryOk s 0 = true ∧ (atBoundary s 0 = true ∨ (kidLive s 0 = true ∧ kstate s 0 = 1)) ∧
        queueWait (kidOf s 0) = false ∧ rd s kd_KRPT_COUNT 0 ≤ 256) := by decide

theorem witness_KmodeAndPulses :
    (∀ v ∈ [(0x26 : Byte), 0x40, 0x00], let s := setKid (kidAt [] zeros []) 0 { pc := 0x10, kpend := [(v, 0)] };
      (kidOf s 0).kpend = [(v, 0)] ∧ kidLive s 0 = true ∧ kstate s 0 < 2 ∧ (kidOf s 0).wait = none ∧ (kidOf s 0).must = false) ∧
    (blockOpen (kidAt [] zeros []) (herdDom (herdOfKid 0)) (herdShut (kidAt [] zeros []) (herdOfKid 0)) ∧
      (kidOf (kidAt [] zeros []) 0).must = false ∧ (kidOf (kidAt [] zeros []) 0).wait.isSome = false) ∧
    (let s := setKid (kidAt [] zeros []) 0 { pc := 0x10, must := true };
      blockOpen s (herdDom (herdOfKid 0)) (herdShut s (herdOfKid 0)) ∧ kstate s 0 = 0 ∧ (kidOf s 0).must = true) := by
  unfold blockOpen; decide

theorem witness_TrapsAndReturns :
    (∀ p ∈ [(1, 0, 0), (0, 1, 0), (0, 0, 0), (1, 0, 256), (0, 1, 256)],
      let s := kidAt [0x3F65] zeros [(kd_KMODE_INTR, 0, 0, p.1), (kd_KMODE_INDB, 0, 0, p.2.1), (kd_KRPT_ECOUNT, 0, 0, p.2.2),
        (kd_KRPT_ICOUNT, 0, 0, p.2.2), (kd_KSRC_SRC, 0, 0, 7)];
      kidIssues s 0 (.reti 0) ∧ kidQuiet (kidOf s 0) ∧ rd s kd_KRPT_ECOUNT 0 ≤ 256 ∧ rd s kd_KEPC_ADDR 0 < 65536 ∧
        rd s kd_KRPT_ICOUNT 0 ≤ 256 ∧ rd s kd_KIPC_ADDR 0 < 65536 ∧ rd s kd_KSRC_SRC 0 < 256) ∧
    (let s := setHdc (kidAt [0x3F65] zeros [(kd_KMODE_INDB, 0, 0, 1), (kd_KSRC_SRC, 0, 0, 255), (hd_ACTIVE, 0, 31, 0x80)]) 0 { recd := [(255, 0)] };
      kidIssues s 0 (.reti 0) ∧ alGet (hdcOf s (herdOfKid 0)).recd (rd s kd_KSRC_SRC 0) = some 0) :=
  ⟨fun p h => ⟨issuesK_sound (by revert p; decide), by unfold kidQuiet; revert p; decide, by revert p; decide⟩, issuesK_sound (by decide), by decide⟩

theorem witness_RegisterAndProgramMoves :
    (∀ n ∈ [0, 1, 2, 4, 5, 0x28, 0x3F], kidIssues (kidAt [BitVec.ofNat 14 (0x3780 + n)] zeros []) 0 (.mts 0 (BitVec.ofNat 6 n) 6) ∧
      kidIssues (kidAt [BitVec.ofNat 14 (0x3780 + n)] (Claims.withByte zeros 6 0xFF) []) 0 (.mts 0 (BitVec.ofNat 6 n) 6)) ∧
    rd State.reset kd_KEPC_ADDR 0 < 65536 ∧
    (kidIssues (kidAt [0x3ED1] (pairs 0xFFF 0) []) 0 (.pml 0 2 1) ∧
      (memRead (kidAt [0x3ED1] (pairs 0xFFF 0) []) 0x11_0000_3FFE 2 (agentRq (.kid 0) false)).1 = some [0, 0]) ∧
    (let s := kidAt [0x3F11, 0x0008, 0x0008, 0x0008] (pairs 0xFFF 0x0430) [];
      kidIssues s 0 (.pmw 0 2 1) ∧ kidQuiet (kidOf s 0) ∧ s.flip = none ∧ s.memOk ∧ (kidOf s 0).atPc = kidOf s 0 ∧ 4 ≤ (kidOf s 0).pq.length) ∧
    kidIssues (kidAt [0x3ED1] (pairs 0x8000 0) []) 0 (.pml 0 2 1) ∧ kidIssues (kidAt [0x3F11] (pairs 0xFFFF 0) []) 0 (.pmw 0 2 1) :=
  ⟨fun n h => ⟨issuesK_sound (by revert n; decide), issuesK_sound (by revert n; decide)⟩, by decide, ⟨issuesK_sound (by decide), by decide⟩,
    ⟨issuesK_sound (by decide), by unfold kidQuiet; decide, rfl, rfl, by decide, by decide⟩,
    issuesK_sound (by decide), issuesK_sound (by decide)⟩


/-- The byte and shift instructions issue in a kid and a fawn. -/
theorem witness_ByteInstructionsCompute :
    kidIssues (kidAt [0x0443] zeros []) 0 (.add (.kid 0) .short 0 3) ∧ kidIssues (kidAt [0x068F] zeros []) 0 (.sar (.kid 0) .short 1 7) ∧
    fawnIssues (fawnAt 0x0443 zeros []) 0 (.add (.fawn 0) .short 0 3) ∧ fawnIssues (fawnAt 0x068F zeros []) 0 (.sar (.fawn 0) .short 1 7) ∧
    kidQuiet (kidOf (kidAt [0x0443] zeros []) 0) :=
  ⟨issuesK_sound (by decide), issuesK_sound (by decide), issuesF_sound (by decide), issuesF_sound (by decide), by unfold kidQuiet; decide⟩

/-- Branches and jumps issue in a kid and a fawn. -/
theorem witness_BranchesAndJumpsTransfer :
    kidIssues (kidAt [0x031B] zeros []) 0 (.bnez (.kid 0) .short 0 (-5)) ∧ fawnIssues (fawnAt 0x031B zeros []) 0 (.bnez (.fawn 0) .short 0 (-5)) ∧
    kidIssues (kidAt [0x0027] zeros []) 0 (.jalr (.kid 0) 7) ∧ fawnIssues (fawnAt 0x01F8 zeros []) 0 (.jal (.fawn 0) (-8)) ∧
    kidQuiet (kidOf (kidAt [0x031B] zeros []) 0) :=
  ⟨issuesK_sound (by decide), issuesF_sound (by decide), issuesK_sound (by decide), issuesF_sound (by decide), by unfold kidQuiet; decide⟩

/-! ### The block as a whole -/

theorem test_reset_idles : nextIs (step State.reset) (fun t => decide (t.mem = [] ∧ t.pending = [])) = true := by decide

theorem witness_StepRunsFrontCommand : (Instr.nop (.kid 0)).wf = true ∧ (Instr.routeBytes 0 0).wf = false ∧ State.reset.pending = [] := by decide

theorem nextIs_next {o : Out} (h : nextIs o (fun _ => true) = true) : ∃ t, o = .next t := by
  cases o with
  | next t => exact ⟨t, rfl⟩
  | fault f => cases h
  | refused r => cases h

/-- A state with a waiting command that writes memory: feedback bytes at a port. -/
def portRuns (n : Nat) : State := stOf [(ax_PSTATE, 0, 0, n)]

theorem witness_CommandsKeepQueue : ∃ t, exec (.fb 0 []) { portRuns 4 with pending := [.trstN] } = .next t :=
  nextIs_next (by decide)
theorem witness_StepKeepsMemoryForm : ({ portRuns 4 with pending := [.fb 0 []] } : State).memOk ∧
    ∃ t, step { portRuns 4 with pending := [.fb 0 []] } = .next t := ⟨rfl, nextIs_next (by decide)⟩
theorem witness_OtpOnlyMovesOn : State.reset.otp.pend = none ∧ ∃ t, step { State.reset with pending := [.powerOnReset] } = .next t :=
  ⟨rfl, nextIs_next (by decide)⟩
theorem witness_DecodeOfEncode : Claims.execBy (.add (.kid 511) .long 15 15) = some (.kid 511) ∧ (Instr.add (.kid 511) .long 15 15).wf = true ∧
    Claims.execBy (.add (.fawn 167) .short 7 7) = some (.fawn 167) ∧ (Instr.add (.fawn 167) .short 7 7).wf = true := by decide

theorem witness_BoundariesHoldWrites :
    ({ State.reset with pow := { State.reset.pow with deep := true } } : State).pow.deep = true ∧
    (∀ d ∈ [0, 143, 147, 148, 149], State.reset.pow.deep = false ∧ rdb (stOf [(pd_DSTAT_TRIMFAIL, d, 0, 1)]) pd_DSTAT_TRIMFAIL d = true ∧
      rdb (stOf [(pd_DSTAT_PSTATE, d, 0, 1)]) pd_DSTAT_TRIMFAIL d = false ∧ pstate (stOf [(pd_DSTAT_PSTATE, d, 0, 1)]) d = 1 ∧
      pstate (stOf [(pd_DSTAT_PSTATE, d, 0, 3)]) d = 3) ∧
    ({ State.reset with rst := { State.reset.rst with herds := [511] } } : State).rst.herds.contains 511 = true := by decide

/-! ### Memory words and the codes -/

/-- Word 0x142 holding 0x0808 of kid program memory has the check bits 0x02; the syndromes of its worked example (R158). -/
theorem test_code_worked_check : encodeCheck .kidProg 0x0808 0x142 = 0x02 := by decide
theorem test_code_worked_syndromes : decodeSynd .kidProg 0x13 = .data 4 ∧ decodeSynd .kidProg 0x0C = .uncorr ∧
    decodeSynd .kidProg 0x2A = .addr 0 ∧ decodeSynd .kidProg 0 = .clean ∧ decodeSynd .kidProg 0x40 = .check := by decide

/-- Word 0 of the data memory of kid 0. -/
def w0 : Loc := ⟨0x2000_0000, 0, 0x11_0000_0000, .w32⟩
/-- The state with what word 0 holds beside its data. -/
def wordAt (m : WMeta) : State := { State.reset with words := [(0x11_0000_0000, m)] }

theorem witness_WordsWrittenAndRead : locOf 0x11_0000_0003 = some w0 ∧ State.reset.memOk ∧ State.reset.flip = none ∧
    State.reset.merges.find? (fun m => m.word == w0.base) = none ∧ decodeAt (wordAt ⟨true, true, 0⟩) w0 = .clean ∧
    decodeAt (wordAt ⟨true, true, 1⟩) w0 = .check ∧ decodeAt State.reset w0 = .unwritten ∧ decodeAt (wordAt ⟨true, true, 7⟩) w0 = .data 0 ∧
    decodeAt (wordAt ⟨true, true, 3⟩) w0 = .uncorr ∧ decodeAt (wordAt ⟨true, false, 0⟩) w0 = .valid ∧
    decodeAt (wordAt ⟨true, true, 0x64⟩) w0 = .addr 0 ∧
    (wordAt ⟨true, true, 3⟩).milog.length < 64 ∧ 64 ≤ ({ wordAt ⟨true, true, 3⟩ with milog := List.replicate 64 0 } : State).milog.length := by
  refine ⟨by decide, rfl, ?_⟩; decide

theorem witness_InstructionCache :
    (let s := setIcache (stOf [(kc_KSTAT_STATE, 0, 0, 0)]) 0 { fills := [(512, true), (4095, false)] };
      let s := setKid s 0 { pc := 0x1000, wait := some (.fill 0x1000) };
      (icacheOf s 0).fills.find? (fun f => f.1 == 512) = some (512, true) ∧ (icacheOf s 0).fills.find? (fun f => f.1 == 4095) = some (4095, false) ∧
        herdHeld s 0 = false ∧ (lineRead s 0 512 4).1.all Option.isSome = true ∧ (kidOf s 0).wait = some (.fill 0x1000)) ∧
    blockOpen State.reset (herdDom 0) (State.reset.rst.herds.contains 0) := by unfold blockOpen; decide

/-- A merge entry of kid 5 over word 0, and the word with a code state. -/
def mergeAt (m : WMeta) : State := { wordAt m with merges := [⟨0x11_0000_0000, ⟨2, 5⟩, [(1, 0xAB)], 0⟩] }

theorem witness_MergesAndCorrections :
    (∀ m ∈ [(⟨true, true, 0⟩ : WMeta), ⟨true, true, 7⟩, ⟨true, true, 3⟩],
      (mergeAt m).merges.find? (fun m => m.word == w0.base) = some ⟨0x11_0000_0000, ⟨2, 5⟩, [(1, 0xAB)], 0⟩) ∧
    (decodeAt (mergeAt ⟨true, true, 7⟩) w0).value (rawData (mergeAt ⟨true, true, 7⟩) w0) = some 1 ∧ (mergeAt ⟨true, true, 7⟩).flip = none ∧
    (decodeAt (mergeAt ⟨true, true, 3⟩) w0).bad = true ∧
    (List.range w0.code.bytes).any (fun i => (([(1, 0xAB)] : List (Nat × Byte)).lookup i).isNone) = true ∧
    blockOpen State.reset 149 false ∧ rdb (stOf [(mi_CIPBUSY, 0, 0, 1)]) mi_CIPBUSY = true ∧ rdb State.reset mi_CIPBUSY = false ∧
    (bankExists 0x2000_0000 = true ∧ pstate State.reset (bankDom 0x2000_0000) = 0 ∧ addrExists 0x2000_0000 0x1FF = true ∧
      addrExists 0x2000_0000 0x200 = false ∧ bankExists 0xF000_0000 = false ∧ baseOf 0x2000_0000 0 = some 0x11_0000_0000 ∧
      locOf 0x11_0000_0000 = some w0) := by unfold blockOpen; decide

/-- A device with a lifecycle state. -/
def otpAt (st : Nat) (l : List (Fld × Nat × Nat × Nat)) : State :=
  { stOf l with otp := { State.reset.otp with lcstate := st } }

theorem witness_IntegrityCommands :
    rdb (stOf [(mi_RPRBUSY, 0, 0, 1)]) mi_RPRBUSY = true ∧ repairOk ⟨0x2000_0000, 0x1FF, 0, false⟩ = true ∧
    repairOk ⟨0x2000_0000, 0x200, 0, false⟩ = false ∧ repairOk ⟨0x2000_0000, 0, 40, true⟩ = true ∧ repairOk ⟨0x2000_0000, 0, 41, true⟩ = false ∧
    (otpAt 0 []).otp.lcstate = 0 ∧ (otpAt 2 []).otp.repairs.length < 512 ∧ (0x8000_0000 : Nat) / 2 ^ 28 = 8 ∧
    repairOk ⟨0x8000_0000, 0, 0, false⟩ = true ∧ hbmFenced (otpAt 2 [(ts_HBMFST, 0, 0, 0)]) 0x8000_0000 = false ∧
    (Config.fuseSparesUsed 0x2000_0000 false = 0 → sparesLeft (otpAt 2 []) 0x2000_0000 false = true) := by
  refine ⟨by decide, by decide, by decide, by decide, by decide, by decide, by decide, by decide, by decide, by decide, ?_⟩
  intro h; simp [sparesLeft, h, otpAt, stOf, State.reset]

/-! ### Doorbells -/

/-- Herd 0 with the sources 64 and 255 pending and the kids 1 and 2 eligible, kid 2 with a lower level. -/
def claimAt (l : List (Fld × Nat × Nat × Nat)) : State :=
  stOf ([(hd_PEND, 0, 8, 1), (hd_PEND, 0, 31, 0x80), (hd_MASK, 0, 8, 0), (hd_MASK, 0, 31, 0), (kc_KSTAT_STATE, 1, 0, 0), (kc_KSTAT_STATE, 2, 0, 1), (kd_KMODE_DBE, 1, 0, 1),
    (kd_KMODE_DBE, 2, 0, 1), (kd_KPRIO_LEVEL, 1, 0, 5), (kd_KPRIO_LEVEL, 2, 0, 4)] ++ l)

theorem test_claim_lowest_level : nextClaim (claimAt []) 0 = some (64, 2) := by decide
theorem test_claim_rotation : nextClaim (setHdc (stOf [(hd_PEND, 0, 8, 1), (hd_MASK, 0, 8, 0), (kc_KSTAT_STATE, 1, 0, 0), (kc_KSTAT_STATE, 63, 0, 0), (kd_KMODE_DBE, 1, 0, 1),
    (kd_KMODE_DBE, 63, 0, 1)]) 0 { rot := 2 }) 0 = some (64, 63) := by decide
theorem witness_NextClaimOrder : nextClaim (claimAt []) 0 = some (64, 2) ∧ nextClaim State.reset 0 = none ∧ herdHeld (claimAt []) 0 = false ∧
    claimable (claimAt []) 0 64 = true ∧ State.reset.pow.deep = false ∧ rd (bootedAt [(rs_RSTHERD, 0, 0, 511)]) rs_RSTHERD = 511 ∧
    widerHerd (bootedAt [(rs_RSTHERD, 0, 0, 511)]) 511 = false := by decide

theorem witness_ClaimPointCommits : herdHeld (claimAt []) 0 = false ∧ nextClaim (claimAt []) 0 = some (64, 2) := by decide

theorem witness_DoorbellsAndBridges :
    blockOpen State.reset (herdDom 0) (State.reset.rst.herds.contains 0) ∧ srcBit State.reset hd_ACTIVE 0 255 = false ∧
    srcBit (stOf [(hd_ACTIVE, 0, 31, 0x80)]) hd_ACTIVE 0 255 = true ∧
    rdb State.reset br_MAPPED 0 15 = false ∧
    (∀ p ∈ [(0, 1), (0, 0), (1, 0), (1, 1)], let s := stOf [(br_MAPPED, 0, 15, 1), (br_LEVEL, 0, 15, p.1), (br_WAITING, 0, 15, p.2)];
      rdb s br_MAPPED 0 15 = true ∧ rdb s br_LEVEL 0 15 = (p.1 == 1) ∧ rdb s br_WAITING 0 15 = (p.2 == 1) ∧
        herdHeld s (rd s br_HERD 0 15) = false ∧ rdb s pd_DSTAT_TRIMFAIL (herdDom (rd s br_HERD 0 15)) = false ∧ s.pow.deep = false) := by
  unfold blockOpen; decide

/-! ### Queues -/

/-- Endpoint 0 as a producer of kid 0 whose peer is endpoint 1, and endpoint 1 as its consumer. -/
def pairAt (p : Machine.Prod) (c : Cons) (l : List (Fld × Nat × Nat × Nat)) : State :=
  setCons (setProd (stOf ([(qx_ROLE, 0, 0, 1), (qx_ROLE, 1, 0, 2), (qx_PEEREP, 0, 0, 1), (qx_PEEREP, 1, 0, 0), (qx_OWNER, 0, 0, 0),
    (qx_RINGLOG2, 1, 0, 12)] ++ l)) 0 p) 1 c

/-- The buffer of endpoint e begins with these bytes. -/
def bufAt (s : State) (e : Nat) (bs : List Byte) : State :=
  { s with mem := memSetMany [] (queueBufBase + e * 0x400) bs,
           words := (List.range ((bs.length + 3) / 4)).map (fun i => (queueBufBase + e * 0x400 + 4 * i, ⟨true, true, 0⟩)) }

/-- A whole head clause of 4 payload bytes whose bytes stand in the head buffer. -/
def oneClause : Cons := { cls := [⟨4, 0, 4, false, false, false, 0⟩], apos := 8, hbEnd := 8, slots := [⟨0, 0, false⟩] }

/-- Endpoint 1 with that clause. -/
def headAt (c : Cons) (l : List (Fld × Nat × Nat × Nat)) : State := bufAt (pairAt {} c l) 1 [4, 0, 0, 1, 10, 11, 12, 13]

theorem bufOk_of {s : State} {e : EpId} (h1 : s.flip = none) (h2 : s.merges = []) (h3 : Memory.wf s.mem = true)
    (h : ∀ n, n < 64 → (decodeAt s ⟨0x9000_0000 + e, n, queueBufBase + e * 0x400 + n * 4, .w32⟩).bad = false) : Claims.bufOk s e :=
  ⟨h1, h2, h3, fun o => h (o % 256 / 4) (by omega)⟩

theorem tailOk_of {p : Machine.Prod} {c : Nat × Bool} (h0 : p.padn = 0) (hc : p.cls = [c]) (h1 : p.out < 4 + c.1) (h2 : p.rem ≤ c.1) : Claims.tailOk p := by
  refine ⟨h0, fun x rest h => ?_, fun _ => ⟨c, by rw [hc]; rfl, h2⟩⟩
  rw [hc] at h; cases h; exact h1

theorem test_push_header_reserves : nextIs (exec (.push (.kid 0) 0 0 .b4 5) (pairAt { pfree := 24, seq := 9 } {} []))
    (fun t => (prodOf t 0).pfree == 8 && (prodOf t 0).rem == 5 && memGetMany t.mem queueBufBase 4 == [5, 0, 0, 9]) = true := by decide
theorem test_done_releases : nextIs (exec (.done 1) (headAt oneClause [])) (fun t => (consOf t 1).cls.isEmpty && (consOf t 1).ret == [8]) = true := by
  decide
theorem test_window_reads : (portRead (headAt oneClause []) 1 0x40 4).1 = .data 0x0D0C0B0A ∧ (portRead (headAt oneClause []) 1 0 4).1 = .data 0x01000004 := by
  decide

theorem witness_PushStoresComplete :
    portRight State.reset 0 (.kid 0) = .noQueue ∧ portRight (pairAt {} {} []) 0 (.kid 1) = .notOwner ∧
    (portRight (pairAt {} {} []) 1 (.kid 0) = .ok ∧ role (pairAt {} {} []) 1 ≠ 1) ∧
    (portRight (pairAt {} {} [(hf_HSTAT_FENCE, 0, 0, 1)]) 0 (.kid 0) = .ok ∧ epOpen (pairAt {} {} [(hf_HSTAT_FENCE, 0, 0, 1)]) 0 = false) ∧
    (∀ p ∈ [({ rem := 4, cls := [(4, false)] } : Machine.Prod), { pfree := 1032 }, { pfree := 0 }, { bad := true }, { rem := 8, cls := [(252, false)] }],
      portRight (pairAt p {} []) 0 (.kid 0) = .ok ∧ role (pairAt p {} []) 0 = 1 ∧ epOpen (pairAt p {} []) 0 = true ∧
        (prodOf (pairAt p {} []) 0).waitq = [] ∧ p.lockedOut (.kid 0) = false ∧ p.hdr = [] ∧ p.used + 4 ≤ 256) ∧
    (Claims.tailOk {} ∧ Claims.tailOk { rem := 4, cls := [(4, false)] } ∧ Claims.tailOk { rem := 8, cls := [(252, false)] } ∧
      Claims.bufOk (pairAt {} {} []) 0) ∧
    sizeOfLen 1024 = 1032 ∧ sizeOfLen 0 = 8 ∧ (0x401 : Nat) % 2048 = 1025 := by
  refine ⟨by decide, by decide, by decide, by decide, by decide, ⟨⟨rfl, by simp, by simp⟩, tailOk_of rfl rfl (by decide) (by decide),
    tailOk_of rfl rfl (by decide) (by decide), bufOk_of rfl rfl rfl (by decide)⟩, by decide⟩

/-- An endpoint with a header store that waits, of the host, of kid 0 or of a fawn. -/
def waitingPush (ag : Agent) (r : Ret) : State := pairAt { waitq := [⟨ag, 4, 8, r, false⟩], pfree := 16 } {} [(kc_KSTAT_STATE, 0, 0, 0)]

theorem witness_reservationCompletes :
    (∀ r ∈ [Ret.none, .kid 0, .fawn 0], role (waitingPush .host r) 0 = 1 ∧ epOpen (waitingPush .host r) 0 = true ∧
      (prodOf (waitingPush .host r) 0).waitq = [⟨.host, 4, 8, r, false⟩]) ∧
    tryPush (waitingPush .host .none) 0 .host (bytesLE 4 8) =
      .done { waitq := [⟨.host, 4, 8, .none, false⟩], pfree := 0, seq := 1, cls := [(8, false)], rem := 8 } 1 false [(0, 8), (1, 0), (2, 0), (3, 0)] ∧
    (let s := setKid (waitingPush (.kid 0) (.kid 0)) 0 { wait := some (.store 8 2 0xC000) };
      (kidOf s 0).wait = some (.store 8 2 0xC000) ∧ kidQuiet (kidOf s 0)) ∧
    (fawnOf (setFawn (waitingPush (.fawn 0) (.fawn 0)) 0 { wait := some (.store 8 1 0xC000) }) 0).wait = some (.store 8 1 0xC000) := by
  refine ⟨by decide, rfl, ?_, by decide⟩
  unfold kidQuiet; decide

/-- The route of endpoint 0 to a consumer whose clause is arriving. -/
def routeAt (p : Machine.Prod) (c : Cons) : State := pairAt p c []

theorem witness_RouteAndRefillMoveBytes :
    (let p : Machine.Prod := { cls := [(8, false)], out := 5 };
      let c : Cons := { cls := [⟨8, 0, 1, false, false, false, 0⟩], apos := 5, hbEnd := 5, slots := [⟨0, 0, false⟩] };
      let s := routeAt p c;
      role s 0 = 1 ∧ herdHeld s 0 = false ∧ 2 ≤ p.count ∧ peerEp s 0 = 1 ∧ peerHere s 0 = true ∧ epOpen s 1 = true ∧ (consOf s 1).drop = 0 ∧
        c.arriving = some ⟨8, 0, 1, false, false, false, 0⟩ ∧ c.slotOf c.apos = some ⟨0, 0, false⟩ ∧ c.apos % 8 + 2 < 8 ∧ p.out + 2 < 4 + 8) ∧
    (let p : Machine.Prod := { cls := [(8, false)] };
      role (routeAt p {}) 0 = 1 ∧ 4 ≤ p.count ∧ ({} : Cons).arriving = none ∧ lenOf (ofBytesLE (List.replicate 4 0)) ≤ 1024 ∧ ({} : Cons).freeSlot = some 0) ∧
    (Claims.tailOk { cls := [(8, false)], out := 5 } ∧ Claims.tailOk { cls := [(8, false)] } ∧
      Claims.bufOk (routeAt { cls := [(8, false)] } {}) 0 ∧ Claims.bufOk (routeAt { cls := [(8, false)] } {}) 1 ∧
      Claims.bufHas (routeAt { cls := [(8, false)] } {}) 0 0 (List.replicate 4 0)) ∧
    (let s := pairAt { cls := [(8, false)] } {} [(qx_PEERNODE, 0, 0, 9)]; peerHere s 0 = false ∧ rd s hf_HSTAT_FENCE 0 = 0) ∧
    (let c : Cons := { cls := [⟨40, 0, 40, false, false, true, 0⟩], apos := 48 };
      let s := pairAt {} c [];
      role s 1 = 2 ∧ epOpen s 1 = true ∧ refillWords c = 6 ∧ pstate s (hbmDom (ringAddr s 1 0 / 0x4_0000_0000)) = 0 ∧ 3 ≤ rd s qx_RINGLOG2 1 ∧
        rd s qx_RINGBASE 1 * 0x1000 + 2 ^ rd s qx_RINGLOG2 1 ≤ 0x10_0000_0000 ∧ s.merges = [] ∧
        ∀ i, i < 48 → (locOf (ringAddr s 1 i)).map (decodeAt s) = some .clean) := by
  refine ⟨by decide, by decide, ⟨tailOk_of rfl rfl (by decide) (by decide), tailOk_of rfl rfl (by decide) (by decide), bufOk_of rfl rfl rfl (by decide),
    bufOk_of rfl rfl rfl (by decide), by unfold Claims.bufHas; decide⟩, by decide, by decide⟩

/-- Kid 0 or fawn 0 waits at endpoint 1, which it owns. -/
def readerAt (a : Nat) (c : Cons) (l : List (Fld × Nat × Nat × Nat)) : State :=
  setKid (headAt c ([(kc_KSTAT_STATE, 0, 0, 0), (qx_OWNER, 1, 0, 0)] ++ l)) 0 { wait := some (.load (.byte 1) (BitVec.ofNat 16 a)) }

theorem witness_ConsumerPorts :
    (let s := headAt oneClause [];
      role s 1 = 2 ∧ (consOf s 1).broken = false ∧ deliverable s 1 = true ∧ (consOf s 1).bufOff 0 = some 0 ∧
        (memRead s (queueBufBase + 0x400) 4 (queueRq 1)).1 = some [4, 0, 0, 1] ∧ (consOf s 1).bufOff 7 = some 7 ∧
        (memRead s (queueBufBase + 0x407) 1 (queueRq 1)).1 = some [13]) ∧
    deliverable (pairAt {} {} []) 1 = false ∧ (consOf (headAt { oneClause with broken := true } []) 1).broken = true ∧
    (let s := readerAt 0xC080 oneClause [];
      waitingRead s (.kid 0) = some (1, 0, 1) ∧ (portRead s 1 0 1).1 = .data 4 ∧ herdHeld s 0 = false ∧ kidQuiet (kidOf s 0)) ∧
    (let s := readerAt 0xC0C3 oneClause []; waitingRead s (.kid 0) = some (1, 0x43, 1) ∧ (portRead s 1 0x43 1).1 = .data 13) ∧
    role State.reset 1 ≠ 2 ∧ blockOpen (headAt oneClause []) (herdDom 0) ((headAt oneClause []).rst.herds.contains 0) ∧
    (consOf (headAt { oneClause with mark := true, demand := some 0 } [(qx_MPOL, 1, 0, 1)]) 1).mark = true := by unfold blockOpen kidQuiet; decide

theorem witness_QueueUpkeep :
    (let s := pairAt { asked := true } { oneClause with held := [⟨4, 0, 4, false, false, false, 0⟩], mark := true } [(qx_MPOL, 1, 0, 1)];
      role s 1 = 2 ∧ peerHere s 1 = true ∧ epOpen s 1 = true ∧ (prodOf s (peerEp s 1)).asked = true ∧ 0 < (consOf s 1).heldSize ∧
        rdb s qx_MPOL 1 = true) ∧
    (consOf (pairAt { asked := true } oneClause []) 1).heldSize = 0 ∧
    (let s := pairAt {} { oneClause with ret := [8] } [];
      role s 0 = 1 ∧ peerHere s 0 = true ∧ epOpen s 0 = true ∧ (consOf s (peerEp s 0)).ret = [8]) ∧
    ((consOf (pairAt {} oneClause []) 1).arriving = none ∧ (consOf (pairAt {} oneClause []) 1).level < 2 ^ 27) ∧
    (∀ n ∈ [2, 4], let s := atCount 16000 (pairAt {} { oneClause with demand := some 0 } [(qx_STALLTO, 1, 0, n)]);
      rd s qx_STALLTO 1 = n ∧ (consOf s 1).demand = some 0 ∧ now s = 16000) ∧
    (let s := atCount 8000 (readerAt 0xC0C3 { oneClause with cls := [⟨8, 0, 4, false, false, false, 0⟩] } [(qx_STALLTO, 1, 0, 1), (qx_CUT, 1, 0, 8)]);
      readStalls s 1 0 = true ∧ role s 1 = 2 ∧ (consOf s 1).cls ≠ []) := by decide

/-! ### Oryx -/

/-- A descriptor of slot 3 with TAG 0x5A, an OP, N1, N2 and N3, DEST and DST. -/
def descOf (op n1 n2 n3 dest dst : Nat) : Desc :=
  ⟨3, op + dest * 2 ^ 14 + n1 * 2 ^ 16 + n2 * 2 ^ 24 + n3 * 2 ^ 32 + 0x5A * 2 ^ 40 + dst * 2 ^ 64, List.replicate 32 0, false, false⟩

/-- Herd 0 with one descriptor in the FIFO of its engine. -/
def oryxAt (d : Desc) : State := setOryx State.reset 0 { fifo := [d] }

/-- Descriptors that pass the start check, one for each row, and the row. -/
def oryxRows : List (Desc × Instr) :=
  [(descOf 1 0 0 0 0 0, .oryxNop 0), (descOf 2 1 0 0 0 0, .seg 0), (descOf 3 0 0 0 0 0, .xf2 0), (descOf 4 0 0 0 0 0, .xf3 0),
    (descOf 5 1 1 1 0 0, .ss 0), (descOf 6 0 0 0 0 0, .pid 0), (descOf 7 0 0 0 0 0, .cordicCosSin 0), (descOf 7 1 0 0 0 0, .cordicAtan2 0),
    (descOf 8 1 1 1 0 0, .matmul 0), (descOf 9 1 0 0 0 0, .interp 0), (descOf 0xA 1 0 0 0 0, .vecAdd 0), (descOf 0xA 1 1 0 0 0, .vecSub 0)] ++
  [(descOf 0xA 1 2 0 0 0, .vecMul 0), (descOf 0xA 1 4 0 0 0, .dot 0), (descOf 0xB 1 0 0 1 0, .put 0), (descOf 0xC 1 0 0 0 0, .get 0)]

/-- AXPY takes its vector from coefficient memory. -/
def axpyDesc : Desc := { descOf 0xA 1 3 0 0 0 with d := (descOf 0xA 1 3 0 0 0).d + 2 ^ 92 }

theorem witness_OryxDescriptors :
    (∀ p ∈ oryxRows, (oryxOf (oryxAt p.1) 0).fifo = [p.1] ∧ herdHeld (oryxAt p.1) 0 = false ∧ p.1.ueD = false ∧ Claims.isRowOf p.1 0 p.2 ∧
      startCheck (oryxAt p.1) 0 p.1 = 0 ∧ pushReady (oryxAt p.1) 0 p.1 (clauseLen (oryxAt p.1) 0 p.1) = true) ∧
    (Claims.isRowOf axpyDesc 0 (.axpy 0) ∧ startCheck (oryxAt axpyDesc) 0 axpyDesc = 0) ∧
    (Claims.isRowOf (descOf 0 0 0 0 0 0) 0 (.errorCompletion 0) ∧ startCheck (oryxAt (descOf 0 0 0 0 0 0)) 0 (descOf 0 0 0 0 0 0) = 1) ∧
    (startCheck (oryxAt (descOf 1 1 0 0 0 0)) 0 (descOf 1 1 0 0 0 0) ≠ 0) ∧
    (oryxOf (oryxAt { descOf 1 0 0 0 0 0 with ueD := true }) 0).fifo = [{ descOf 1 0 0 0 0 0 with ueD := true }] := by
  unfold Claims.isRowOf; decide

theorem witness_oryx_computes : (compute (oryxAt (descOf 0xA 1 0 0 0 0)) 0 (descOf 0xA 1 0 0 0 0)).1.map (fun r => r.2) = some ([0, 0, 0, 0], []) ∧
    (compute (oryxAt (descOf 0xA 1 0 0 1 0xFFC)) 0 (descOf 0xA 1 0 0 1 0xFFC)).1.map (fun r => r.2) = some ([0, 0, 0, 0], []) ∧
    startCheck (oryxAt (descOf 0xA 1 0 0 1 0xFFC)) 0 (descOf 0xA 1 0 0 1 0xFFC) = 0 := by decide
theorem witness_OryxResultsStand : ∀ d ∈ [descOf 0xA 1 0 0 0 0, descOf 0xA 1 0 0 1 0xFFC],
    (compute (oryxAt d) 0 d).2.flip = none ∧ (compute (oryxAt d) 0 d).2.mem = [] ∧ (compute (oryxAt d) 0 d).2.merges = [] ∧ d.slot < 64 ∧
      (d.dest = 0 ∨ d.dest = 1 ∧ d.dst + 4 ≤ 0x1000) := by decide

/-- A post to a full FIFO waits (R233). -/
theorem test_post_waits : nextIs (exec (.post .host 0 3 12 .b4 5) (setOryx State.reset 0 { fifo := List.replicate 16 (descOf 1 0 0 0 0 0) }))
    (fun t => decide (t.reply = .waits ∧ (oryxOf t 0).posts.length = 1)) = true := by decide

theorem witness_SlotsPostAndWait :
    slotRight State.reset (.kid 3) 0 3 = true ∧ slotRight State.reset (.kid 4) 0 3 = false ∧ slotRight State.reset (.kid 67) 0 3 = false ∧
    blockOpen State.reset (herdDom 0) (State.reset.rst.herds.contains 0) ∧
    (∀ w ∈ [0, 1, 2, 3], ∃ l, locOf (slotBase 0 3 + 4 * w) = some l ∧ decodeAt { State.reset with words := [(l.base, ⟨true, true, 0⟩)] } l = .clean) ∧
    (let s := setOryx State.reset 0 { fifo := List.replicate 16 (descOf 1 0 0 0 0 0) }; 16 ≤ (oryxOf s 0).fifo.length) ∧
    (let s := setOryx State.reset 0 { posts := [⟨.kid 3, 3, 12, 4, 1, .none⟩] };
      (oryxOf s 0).posts = [⟨.kid 3, 3, 12, 4, 1, .none⟩] ∧ (oryxOf s 0).fifo.length < 16 ∧ herdHeld s 0 = false) ∧
    (let q : BusReq := ⟨.kid 0, slotBase 0 0 + 0x36, 2, none, .kid 0⟩;
      let s := setKid { stOf [(kc_KSTAT_STATE, 0, 0, 0)] with held := [q] } 0 { wait := some (.load (.pair 1) 0xE036) };
      (kidOf s 0).wait = some (.load (.pair 1) 0xE036) ∧ s.held.filter (fun r => waitSlot r == some 0) = [q] ∧
        s.held.filter (fun r => decide (r.ag = .kid 0)) = [q] ∧ slotPending s 0 0 = 0 ∧ slotRight s (.kid 0) 0 0 = true ∧ trimHeld s q = false ∧
        mustWait s q = false ∧ kidQuiet (kidOf s 0)) ∧
    (State.reset.held.filter (fun r => decide (r.ag = .fawn 0))).findSome? waitSlot = none := by
  refine ⟨by decide, by decide, by decide, by unfold blockOpen; decide, ?_, by decide, by decide, by unfold kidQuiet; decide, by decide⟩
  intro w h
  refine ⟨⟨0x6000_0000, 48 + w, 0x12_0000_20C0 + 4 * w, .w32⟩, ?_⟩
  revert w; decide

/-! ### Axis ports -/

theorem test_start_aligns : nextIs (exec (.pctlStart 0) State.reset) (fun t => portState t 0 == 1) = true := by decide

/-- What the line of a chip sends: SOF, the bytes of a frame with its CRC, IDLE. -/
def lineFrame (bs : List Byte) : List (BitVec 10) := encodeSyms false (frameSyms (withCrc bs) ++ [Sym.idle])

/-- K28.5 and D0.0 as clause 36 of IEEE 802.3 sends them under negative disparity (R251, assumption 74); ten zeros are no symbol. -/
theorem test_symbols : (encodeSym false Sym.sof).1 = 0b0011111010 ∧ (encodeSym false (.data 0)).1 = 0b1001110100 ∧
    decodeSym false 0b0011111010 = (some Sym.sof, true) ∧ (decodeSym false 0).1 = none := by decide
set_option maxRecDepth 8000 in
theorem test_enumr_frame_received : receiveFrame (lineFrame [0x04, 0]) = some (withCrc [0x04, 0], false) := by decide +kernel
theorem test_sent_abort : receiveFrame (encodeSyms true (sentSyms [1, 2] true)) = some ([1, 2], true) := by decide

theorem witness_PortStates :
    blockOpen State.reset (edgeDom 0) false ∧ portFenced (stOf [(ts_FENCEP, 0, 0, 1)]) 0 = true ∧ portFenced State.reset 0 = false ∧
    (∀ n ∈ [0, 1, 2, 3, 4, 5], portState (portRuns n) 0 = n ∧ portUp (portRuns n) 0 = true) ∧ portLive (portRuns 3) 0 = true ∧
    (portOf (setPort (portRuns 3) 0 { seqDone := true }) 0).seqDone = true ∧ (portOf (portRuns 3) 0).seqDone = false ∧
    (fawnOf (setFawn State.reset 0 { st := .stopped }) 0).st = .stopped ∧ (fawnOf State.reset 1).st ≠ .stopped ∧
    alignHeld (encodeSyms false (List.replicate 64 Sym.idle)) = true ∧ alignHeld [] = false ∧ alignLost (List.replicate 4 0) = true ∧
    (let bs := withCrc [0xF4, 0]; crcGood bs false = true ∧ bs.length = 4 ∧ frameType bs = 4 ∧
      bits (bs.headD 0).toNat 7 4 + 1 = rd (stOf [(ax_PCFG_EXPCHIPS, 0, 0, 16)]) ax_PCFG_EXPCHIPS 0) ∧
    (let s := stOf [(ax_PSTATE, 0, 0, 3), (ax_CHIPS, 0, 0, 1), (ax_EXPID, 0, 0, 7)];
      ([.eid 7] : List ChipAns).length = rd s ax_CHIPS 0 ∧ ansOk s 0 0 (.eid 7) = true ∧ ansOk s 0 0 .refused = false) := by
  unfold blockOpen; decide +kernel

/-- Port 0 in its first cycle, which began at time 0. -/
def cycleAt (n now : Nat) (x : Port) (l : List (Fld × Nat × Nat × Nat)) : State :=
  atCount now (setPort (stOf ((ax_PSTATE, 0, 0, n) :: l)) 0 { x with cyc := 1 })

/-- A frame of which the header has gone. -/
def openFrame : TxFrame := ⟨2, 400, 32000, false, 0, cmdHeader 0 2, 0, false, .going⟩

set_option maxRecDepth 8000 in
theorem witness_PortCycles :
    (∀ n ∈ [3, 4], portUp (cycleAt n 0 {} []) 0 = true ∧ portLive (cycleAt n 0 {} []) 0 = true) ∧
    BitVec.ofNat 64 (cycleStart (cycleAt 4 32000 {} []) 0) ≠ (portOf (cycleAt 4 32000 {} []) 0).cyct ∧
    BitVec.ofNat 64 (cycleStart (cycleAt 4 31999 {} []) 0) = (portOf (cycleAt 4 31999 {} []) 0).cyct ∧
    (cmdDue (cycleAt 3 0 {} []) 0 = true ∧ cmdDue (cycleAt 4 8000 { tx := [0, 1, 2, 3, 4, 5, 6, 7] } [(ax_PCFG_CMDLATE, 0, 0, 100)]) 0 = true ∧
      cmdDue (cycleAt 4 20000 {} [(ax_PCFG_CMDLATE, 0, 0, 100)]) 0 = true ∧ cmdDue (cycleAt 4 19999 {} [(ax_PCFG_CMDLATE, 0, 0, 100)]) 0 = false) ∧
    (fawnOf (setFawn (portRuns 4) 1 { st := .running }) 1).st = .running ∧
    (openFrame.st = .going ∧ openFrame.own = false ∧ posComplete { frame := some openFrame } 0 = false ∧
      posComplete { frame := some openFrame, tx := [0, 1, 2, 3, 4, 5, 6, 7] } 0 = true ∧
      (memRead (cycleAt 4 600 { frame := some openFrame, tx := [0, 1, 2, 3, 4, 5, 6, 7] } []) (txAddr 0 0) 8 ⟨10, 0⟩).1 = some (List.replicate 8 0)) ∧
    fetchDue (cycleAt 4 20000 {} [(ax_PCFG_CMDLATE, 0, 0, 100)]) 0 0 = true ∧
    fetchDue (cycleAt 4 4000 { opened := true, frame := some openFrame } []) 0 1 = true ∧
    (axisOf (portRuns 4) (slotAt (portRuns 4) 0 0)).rel = none ∧
    (axisOf (setAxis (portRuns 4) 0 { rel := some ⟨5, 0, 0, 0⟩ }) 0).rel = some ⟨5, 0, 0, 0⟩ ∧
    (crcGood (withCrc [3, 0]) false = true ∧ frameType (withCrc [3, 0]) = 3 ∧ fbGood (portRuns 3) 0 [] false = false ∧
      fbGood (stOf [(ax_PCFG_RATE, 0, 0, 1)]) 0 (withCrc (2 :: List.replicate 33 0)) false = true ∧ (portRuns 3).flip = none ∧
      (portRuns 3).merges = []) := by decide +kernel

set_option maxRecDepth 4000 in
/-- CRC-16-CCITT of the nine digits (R259), whose check value is 0x29B1. -/
theorem test_crc16 : crc16 [0x31, 0x32, 0x33, 0x34, 0x35, 0x36, 0x37, 0x38, 0x39] = 0x29B1 := by decide

theorem witness_PortEdgesAndService :
    (let s := setPort (stOf [(ax_TLINK, 0, 0, 1)]) 0 { unit0 := { edges := [9, 5] } };
      portUp s 0 = true ∧ firstEdge (unitOf (portOf s 0) 0).edges = some 5 ∧ rdb s ax_TLINK 0 0 = true ∧
        (camOf s (rd s ax_TCAM 0 0)).edges.length < 4 ∧ now s < 5 ∧ 5 ≤ now (atCount 5 s)) ∧
    (∀ op ∈ [0, 1, 2, 3], let s := stOf [(ax_PSTATE, 0, 0, 4), (ax_SVCREQ_OP, 0, 0, op)];
      rdb s ax_SVCBUSY 0 = false ∧ portLive s 0 = true ∧ svcPosition s 0 ≠ none ∧ rd s ax_SVCREQ_OP 0 = op) ∧
    rdb (stOf [(ax_SVCBUSY, 0, 0, 1)]) ax_SVCBUSY 0 = true ∧ svcPosition (stOf [(ax_PCFG_RATE, 0, 0, 1)]) 0 = none := by decide

/-! ### Guard -/

/-- Axis 0 assigned, with a check of a position in progress. -/
def checkAt (p : Nat) (late : Bool) : State :=
  setAxis (stOf [(ge_ASSIGNED, 0, 0, 1), (gs_ASTATE, 0, 0, 2)]) 0
    { chk := some ⟨⟨p, 0, 0, 0⟩, ⟨-1000, 1000, 100, 100, 100, 0, 10, 1, []⟩, late, false, false⟩ }

theorem witness_GuardReleasesOnlyWithinLimits :
    (∀ l ∈ [false, true], (axisOf (checkAt 0 l) 0).chk = some ⟨⟨0, 0, 0, 0⟩, ⟨-1000, 1000, 100, 100, 100, 0, 10, 1, []⟩, l, false, false⟩ ∧
      sliceUp (checkAt 0 l) (axisTile 0) = true ∧ (checkAt 0 l).flip = none) ∧
    Claims.withinLimits (checkAt 0 false) 0 ⟨0, 0, 0, 0⟩ ⟨-1000, 1000, 100, 100, 100, 0, 10, 1, []⟩ ∧
    ¬ Claims.withinLimits (checkAt 0 false) 0 ⟨0, 0, 0, 0⟩ ⟨-1000, 1000, -1, 100, 100, 0, 10, 1, []⟩ := by
  unfold Claims.withinLimits; decide

theorem witness_RampEndsAtStopPosition :
    (let s := setAxis (stOf [(ge_DEC, 0, 0, 3)]) 0 { p1 := 10, p2 := 0, p3 := 0 };
      max ((rd s ge_DEC 0 : Int)) 1 < iabs ((axisOf s 0).p1 - (axisOf s 0).p2)) ∧
    (let s := setAxis (stOf [(ge_DEC, 0, 0, 3)]) 0 { p1 := 10, p2 := 7, p3 := 0 };
      iabs ((axisOf s 0).p1 - (axisOf s 0).p2) ≤ max ((rd s ge_DEC 0 : Int)) 1 ∧ rd s gs_STOPCLS 0 ≠ 2) := by decide

/-- Endpoint 0 as the consumer of slice 0 with a command clause for axis a. -/
def commandAt (a : Nat) (l : List (Fld × Nat × Nat × Nat)) : State :=
  bufAt (setCons (stOf ([(qx_ROLE, 0, 0, 2), (qx_OWNER, 0, 0, 0x41), (qx_ENGINE, 0, 0, 0x2000)] ++ l)) 0
    { cls := [⟨0x33 * 2 ^ 11 + 16, 0, 16, false, false, false, 0⟩], apos := 24, hbEnd := 24, slots := [⟨0, 0, false⟩, ⟨1, 1, false⟩, ⟨2, 2, false⟩] }) 0
    ([0x10, 0x98, 0x01, 0x00, 0, 0, 0, 0] ++ bytesLE 4 a ++ List.replicate 8 0 ++ List.replicate 4 0)

theorem witness_GuardTakesAndLogs :
    (∀ a ∈ [0, 1023, 1024, 65535], let s := commandAt a [(ge_ASSIGNED, 5, 0, 1)];
      guardTile s 0 = some 0 ∧ sliceUp s 0 = true ∧ (epAxes s 0).isEmpty = false ∧ (consOf s 0).broken = false ∧ (consOf s 0).hdrIn = true ∧
        20 ≤ (consOf s 0).hbEnd ∧ headerBad (ofBytesLE (headWord s 0 0).1) = false ∧ ofBytesLE (((headPayload s 0 16).1.drop 4).take 2) = a) ∧
    Claims.bufOk (commandAt 0 []) 0 ∧
    (∀ p ∈ [(1, 1), (2, 0), (3, 0), (5, 0)], let s := commandAt 0 [(ge_ASSIGNED, 0, 0, 1), (gs_ASTATE, 0, 0, p.1), (gs_SEEDED, 0, 0, p.2)];
      assigned s 0 = true ∧ rd s ge_CMDEP 0 = 0 ∧ (axisOf s 0).chk = none ∧ (axisOf s 0).rel = none ∧ astate s 0 = p.1 ∧
        rdb s gs_SEEDED 0 = (p.2 == 1) ∧ checksOn s 0 < 4 ∧ slotMode (ofBytesLE ((headPayload s 0 16).1.drop 8)) < 4 ∧
        slotSub (ofBytesLE ((headPayload s 0 16).1.drop 8)) = false) ∧
    State.reset.pow.deep = false ∧ blockOpen (stOf [(ge_VMAX, 0, 0, 100)]) (edgeDom (axisTile 0)) false ∧ rd (stOf [(ge_VMAX, 0, 0, 100)]) ge_VMAX 0 = 100 ∧
    7 ≤ rd (stOf [(hb_BOOTSTAT_PHASE, 0, 0, 7)]) hb_BOOTSTAT_PHASE := by
  refine ⟨by decide +kernel, bufOk_of rfl rfl rfl (by decide), by decide +kernel, by decide, by unfold blockOpen; decide, by decide, by decide⟩

theorem witness_GuardStopsAndReleases :
    blockOpen State.reset (edgeDom (axisTile 0)) false ∧ assigned State.reset 0 = false ∧
    (∀ n ∈ [1, 2, 3, 4, 5], let s := stOf [(ge_ASSIGNED, 0, 0, 1), (gs_ASTATE, 0, 0, n), (gs_STOPCLS, 0, 0, n - 2), (gg_ENAST, 0, 0, 1)];
      assigned s 0 = true ∧ rd s ge_STOPGRP 0 = 0 ∧ astate s 0 = n ∧ rd s gs_STOPCLS 0 = n - 2 ∧ rdb s gg_BRACTIVE = false ∧
        bit (rd s gg_ENAST) (axisPort 0) = true) ∧
    (let s := stOf [(ax_PSTATE, 63, 0, 4)]; rd s ax_PSTATE 63 = 4 ∧ s.lc.dbg < 2 ∧ portAxes s 63 = []) ∧
    rd State.reset ax_PSTATE 0 ≠ 4 ∧ (portOf (setPort State.reset 0 { ena := some 0, still := some 0 }) 0).ena = some 0 ∧ 0 + rd State.reset ge_ENADLY 0 ≤ (portOf State.reset 0).cyc ∧
    (let s : State := { State.reset with gstops := [⟨3, 1, 11, 1, 0⟩] }; s.gstops.find? (fun g => g.tile == 3) = some ⟨3, 1, 11, 1, 0⟩) := by
  unfold blockOpen; decide

/-! ### Sighting -/

/-- Camera port 0 running, with its registers. -/
def camRun (c : Cam) (l : List (Fld × Nat × Nat × Nat)) : State := setCam (stOf ((cm_CSTATE, 0, 0, 1) :: l)) 0 c

/-- The registers of a frame of 4 lines of 8 pixels in a mode. -/
def regsFrame (mode : Nat) : CamRegs := ⟨0, 0, 8, 4, 0, 0, mode, 0, 0, 0, 0, 0⟩
/-- A frame that has one line. -/
def frameOf (mode : Nat) : Frame := ⟨regsFrame mode, 5, true, 1, 1, [some (List.replicate 8 9)], false, false, false, false⟩

theorem witness_CameraPortStates :
    blockOpen State.reset (edgeDom 0) false ∧ bit (rd (stOf [(ts_FENCEC, 0, 0, 1)]) ts_FENCEC) 0 = true ∧ bit (rd State.reset ts_FENCEC) 0 = false ∧
    (fawnOf (setFawn State.reset 128 { st := .stopped }) 128).st = .stopped ∧ (fawnOf State.reset 128).st ≠ .stopped ∧
    (camUp (camRun { frame := some (frameOf 0) } []) 0 = true ∧ camState (camRun { frame := some (frameOf 0) } []) 0 = 1 ∧
      (camOf (camRun { frame := some (frameOf 0) } []) 0).frame = some (frameOf 0) ∧ (frameOf 0).ended = false) := by unfold blockOpen; decide

set_option maxRecDepth 8000 in
/-- The check value of CRC-32 over the nine digits (R343). -/
theorem test_crc32 : crc32 [0x31, 0x32, 0x33, 0x34, 0x35, 0x36, 0x37, 0x38, 0x39] = 0xCBF43926 := by decide

/-- A header of a channel and a data type, with its ECC (R312). -/
def csiWord (vc dt wc : Nat) : Nat := let d := vc * 2 ^ 6 + dt + wc * 2 ^ 8; d + csiEcc d * 2 ^ 24
/-- A long packet of RAW8 pixels. -/
def csiPacket (px : List Byte) : List Byte := bytesLE 4 (csiWord 0 0x2A px.length) ++ px ++ bytesLE 2 (csiCrc px)

set_option maxRecDepth 8000 in
theorem test_csi_header : csiHeader (csiWord 3 0x2B 40) = some ⟨3, 0x2B, 40⟩ ∧ csiHeader (csiWord 3 0x2B 40 ^^^ 0x100) = some ⟨3, 0x2B, 40⟩ ∧
    csiHeader (csiWord 3 0x2B 40 ^^^ 0x300) = none := by decide +kernel

theorem witness_FramesAndPoses :
    (∀ vc ∈ [0, 1, 2, 3], let s := camRun { edges := [7] } [(cm_CCFG_VC, 0, 0, vc), (cm_FSWIN, 0, 0, 1)];
      camUp s 0 = true ∧ camState s 0 = 1 ∧ rd s cm_CCFG_VC 0 = vc ∧ (camOf s 0).frame = none ∧
        (camOf s 0).edges.filter (fun e => decide (now s ≤ rd s cm_FSWIN 0 * 8000 + e.toNat)) = [7] ∧
        (∀ dt ∈ [0, 1, 2], csiHeader (csiWord vc dt 0) = some ⟨vc, dt, 0⟩)) ∧
    (let bs := csiPacket [1, 2, 3]; csiHeader (ofBytesLE (bs.take 4)) = some ⟨0, 0x2A, 3⟩ ∧ csiPayload 3 bs = some [1, 2, 3] ∧ csiPayload 3 [] = none) ∧
    (let s := camRun { frame := some (frameOf 0), fit := some (frameOf 1) } [];
      (camOf s 0).frame ≠ none ∧ (camOf s 0).fit ≠ none ∧ (frameOf 0).lines.length < (frameOf 0).r.roih ∧ (frameOf 0).r.roiy ≤ (frameOf 0).y ∧
        (frameOf 0).y + 1 < (frameOf 0).r.roiy + (frameOf 0).r.roih) ∧
    (let s := setProd (camRun { fit := some (frameOf 1) } [(qx_ROLE, 0, 0, 1), (qx_OWNER, 0, 0, 0x41), (qx_ENGINE, 0, 0, 0x3000)]) 0 { pfree := 64 };
      (camOf s 0).fit = some (frameOf 1) ∧ poseEpOk s 0 = true ∧ enginePushOk s (rd s cm_POSEEP 0) 28 = true) ∧
    (let s := camRun { fit := some (frameOf 1), frame := some { frameOf 1 with ended := true } } [];
      (camOf s 0).frame = some { frameOf 1 with ended := true }) ∧ (0, 0, 0) ∈ placements := by decide +kernel

/-! ### Timebase -/

theorem witness_TimebaseKeepsTime :
    State.reset.pow.deep = false ∧ rd (portRuns 4) ax_PSTATE 0 = 4 ∧ (∀ p, p < 64 → rd State.reset ax_PSTATE p ≠ 4) ∧
    (∀ v ∈ [0, 7, 8, 9], let s : State := { stOf [(tb_ALM_EN, 0, 7, 1), (tb_ALMT, 0, 7, v)] with tb := { State.reset.tb with count := 8, runs := true } };
      rd s tb_ALM_EN 0 7 = 1 ∧ now s = 8 ∧ rd s tb_ALMT 0 7 = v ∧ s.tb.runs = true) ∧
    (∀ o ∈ [(-1 : Int), 0, 1], let s : State := { portRuns 4 with tb := { runs := true, owed := o } }; s.tb.runs = true ∧ s.tb.owed = o ∧ s.tb.slewIn = 0) ∧
    (State.reset.pending = [] ∧ State.reset.held = [] ∧ State.reset.pow.want = none ∧ State.reset.lc.writing = false) ∧
    rd (stOf [(tb_TBSTAT_LOCK, 0, 0, 1)]) tb_TBSTAT_LOCK = 1 := by decide

theorem witness_TimeExchanges :
    (let s : State := { stOf [(tb_TBSRC, 0, 0, 11), (lk_LSTATE, 11, 0, 2)] with tb := { State.reset.tb with runs := true } };
      s.tb.runs = true ∧ rd s tb_TBSRC = 11 ∧ rd s lk_LSTATE 11 = 2) ∧
    (∀ a ∈ [0, 1_000_000], let s : State := { State.reset with tb := { runs := true, age := some a, outs := [(some 5, 4 * a), (none, 4_000_000)] } };
      s.tb.age = some a ∧ (a < exchangeEvery s ↔ a = 0) ∧ ∃ o ∈ s.tb.outs, 4 * exchangeEvery s ≤ o.2) ∧
    (∀ tt ∈ [9, 10], (linkOf (setLink State.reset 0 { outTime := [⟨tt, bytesLE 8 0⟩] }) 0).outTime = [⟨tt, bytesLE 8 0⟩] ∧ (⟨tt, bytesLE 8 0⟩ : Msg).tt = tt) ∧
    (let s := setLink State.reset 0 { timeMsgs := [⟨⟨9, bytesLE 8 5⟩, 7⟩] }; (linkOf s 0).timeMsgs = [⟨⟨9, bytesLE 8 5⟩, 7⟩] ∧ bits 9 3 0 = 9) ∧
    (∀ h ∈ [(0 : Nat), 14, 15], bits (0xA + h * 2 ^ 112) 3 0 = 0xA ∧ bits (0xA + h * 2 ^ 112) 115 112 = h) ∧
    rd (stOf [(tb_LOCKTHR, 0, 0, 100)]) tb_LOCKTHR = 100 := by decide

/-! ### Jalari links -/

/-- Link 0 in a state. -/
def linkAt (n : Nat) (x : Link) (l : List (Fld × Nat × Nat × Nat)) : State := setLink (stOf ((lk_LSTATE, 0, 0, n) :: l)) 0 x

theorem witness_LinkStates :
    blockOpen State.reset (linkDom 0) false ∧ linkFenced (stOf [(ts_FENCEL, 0, 0, 1)]) 0 = true ∧ linkFenced State.reset 0 = false ∧
    (∀ n ∈ [0, 1, 2, 3], linkState (linkAt n {} []) 0 = n ∧ linkOn (linkAt n {} []) 0 = true) ∧
    rd (linkAt 3 {} [(lk_LCFG_AUTO, 0, 0, 1)]) lk_LCFG_AUTO 0 = 1 ∧
    (fawnOf (setFawn State.reset 144 { st := .stopped }) 144).st = .stopped ∧ (fawnOf State.reset 144).st ≠ .stopped ∧
    (∀ d ∈ [999, 1000], let s := linkAt 2 { dry := d } [(rt_LSTALLTO, 0, 0, 1)];
      rd s rt_LSTALLTO ≠ 0 ∧ (linkOf s 0).dry = d ∧ (rd s rt_LSTALLTO * 1000 ≤ (linkOf s 0).dry ↔ d = 1000)) ∧
    (∀ n ∈ [999_999, 50_000_000], (linkOf (linkAt 1 { age := n } []) 0).age = n) := by unfold blockOpen; decide

/-- A training frame in READY of node 5, link 1. -/
def readyFrame (reseq : Bool) : TFrame := ⟨0, 2, 0, 0, 0, 0, reseq, 5, 1⟩

/-- A frame as it comes up a lane, with zeros for its PRBS13. -/
def onLane (f : TFrame) : BitVec 1360 := BitVec.ofNat 1360 (f.word + 2 ^ 64 * crc16 (bytesLE 8 f.word))

set_option maxRecDepth 8000 in
theorem witness_TrainingFramesTrain :
    (∀ ph ∈ [0, 1, 2], let s := linkAt 1 { ready := [7, 8, 8, 8] } [(lk_TPHASE, 0, 0, ph)];
      linkOn s 0 = true ∧ linkState s 0 = 1 ∧ rd s lk_TPHASE 0 = ph) ∧
    trainFrame 0 = none ∧ (∀ r ∈ [false, true], trainFrame (onLane (readyFrame r)) = some (readyFrame r, false)) ∧
    trainFrame (~~~ onLane (readyFrame true)) = some (readyFrame true, true) ∧
    (let s := linkAt 1 {} [(lk_LCFG_PEERCHK, 0, 0, 1), (lk_EXPPEER, 0, 0, 5), (lk_EXPLINK, 0, 0, 1)];
      rd s lk_LCFG_PEERCHK 0 = 1 ∧ (readyFrame true).node.toNat = rd s lk_EXPPEER 0 ∧ (readyFrame true).linkNum.toNat = rd s lk_EXPLINK 0) ∧
    (∀ b ∈ [false, true], let s := linkAt 1 { sentReady := b, ready := [8, 8, 8, 8], has := true } [(lk_TPHASE, 0, 0, 2)];
      linkState s 0 = 1 ∧ rd s lk_TPHASE 0 = 2 ∧ (linkOf s 0).sentReady = b ∧ (∀ n ∈ (linkOf s 0).ready, 8 ≤ n) ∧ (linkOf s 0).has = true ∧
        (linkOf s 0).peerReseq = false) ∧
    Claims.frameOk (readyFrame true) ∧ (2 ^ 0 ||| 0xE : Nat) = 0xF := by unfold Claims.frameOk; decide +kernel

/-- A codeword with one flit of type ty that carries no message, and nine idle ones. -/
def cwOf (marker ty : Nat) : CwData := ⟨marker, 0, flitBytes ty 0 0 false 0 0 [] :: List.replicate 9 (flitBytes 0 0 0 false 0 0 [])⟩

theorem test_codeword_received : decodeLanes 0 (cwOf 0x2E5 1).lanes = some (cwOf 0x2E5 1, false) := by decide +kernel
set_option maxRecDepth 20000 in
theorem witness_CodewordsTaken :
    (linkOn (linkAt 2 { has := true } []) 0 = true ∧ linkState (linkAt 2 { has := true } []) 0 = 2 ∧
      (linkOf (linkAt 2 { has := true } []) 0).rxSeq = 0 ∧ (linkAt 2 { has := true } []).flip = none ∧ (linkAt 2 { has := true } []).regs ≠ []) ∧
    (decodeLanes 0 []).map (fun r => r.1.marker) = some 0 ∧
    ((cwOf 0x2E5 1).marker = 0x2E5 ∧ (cwOf 0x2E5 1).seq = (linkOf State.reset 0).cwseq ∧ (cwOf 0x2E5 1).flits.length = 10 ∧
      (∀ f ∈ (cwOf 0x2E5 1).flits, f.length = 64)) ∧
    (∀ ty ∈ [0, 1], Claims.flitIs (flitBytes ty 0 0 false 0 0 []) ty 0) := by unfold Claims.flitIs; decide +kernel

/-- A message header with a type, a TTL, the destination and the source node. -/
def headerOf (tt ttl dst src : Nat) : Nat := tt + ttl * 2 ^ 14 + src * 2 ^ 32 + dst * 2 ^ 48

set_option maxRecDepth 8000 in
theorem witness_LinkMessages :
    (∀ tt ∈ [1, 2, 3, 4, 5], headMsg { State.reset with localMsgs := [⟨headerOf tt 3 0 0, []⟩] } none true = some ⟨headerOf tt 3 0 0, []⟩ ∧
      bits (headerOf tt 3 0 0) 3 0 = tt ∧ bit (headerOf tt 3 0 0) 13 = false ∧ bits (headerOf tt 3 0 0) 19 14 = 3) ∧
    (∀ tt ∈ [6, 7, 8], headMsg (linkAt 2 { rspMsgs := [⟨headerOf tt 0 9 0, []⟩] } []) (some 0) false = some ⟨headerOf tt 0 9 0, []⟩ ∧
      bits (headerOf tt 0 9 0) 3 0 = tt ∧ bits (headerOf tt 0 9 0) 63 48 = 9 ∧ bits (headerOf tt 0 9 0) 19 14 = 0) ∧
    rd State.reset rt_NODEID = 0 ∧ role State.reset 0 ≠ 2 ∧
    (let s := setProd (stOf [(qx_ROLE, 0, 0, 1)]) 0 { pfree := 8 };
      role s 0 = 1 ∧ rd s qx_PEERNODE 0 = 0 ∧ epOpen s 0 = true ∧ bit (ofBytesLE (bytesLE 4 16)) 31 = false) ∧
    alGet State.reset.reqs 5 = none ∧
    (∀ d ∈ [false, true], let s : State := { State.reset with reqs := [(5, { ag := .kid 0, h := 0, link := 0, ret := .none, dead := d, timed := false, came := false })] };
      alGet s.reqs 5 = some { ag := .kid 0, h := 0, link := 0, ret := .none, dead := d, timed := false, came := false }) := by decide

/-! ### Host and boot -/

/-- The host's link is up. -/
def hostUp (l : List (Fld × Nat × Nat × Nat)) : State := { stOf l with host := { State.reset.host with perst := true, cfgOk := true } }
/-- A device in DEEP. -/
def deepAt (l : List (Fld × Nat × Nat × Nat)) : State := { stOf l with pow := { State.reset.pow with deep := true } }
/-- A boot phase. -/
def phaseAt (n : Nat) (l : List (Fld × Nat × Nat × Nat)) : State := stOf ((hb_BOOTSTAT_PHASE, 0, 0, n) :: l)

theorem test_bar_write_himglen : nextIs (exec (.barWrite false 8 (bytesLE 4 0x1234567)) (hostUp [])) (fun t => rd t hb_HIMGLEN == 0x1234567) = true := by
  decide
theorem test_bar2_invalid_aperture : nextIs (exec (.barRead true 0x10000000 4) (hostUp [])) (fun t => decide (t.reply = .ur)) = true := by decide

theorem witness_HostAndRegisterAccesses :
    blockOpen State.reset 147 false ∧ pcieUp State.reset = false ∧ pcieUp (hostUp []) = true ∧
    rd (hostUp [(hb_MSIXMASK, 0, 63, 0)]) hb_MSIXMASK 0 63 ≠ 1 ∧ rd (hostUp [(hb_MSIXMASK, 0, 4, 1)]) hb_MSIXMASK 0 4 = 1 ∧
    ((deepAt []).pow.deep = true ∧ rd (deepAt []) pm_PMSTAT_STATE ≠ 4 ∧ (deepAt []).host.perst = false) ∧
    (let s : State := { phaseAt 2 [] with host := { State.reset.host with perst := true } };
      s.host.cfgOk = false ∧ 2 ≤ rd s hb_BOOTSTAT_PHASE ∧ s.pow.deep = false) ∧
    (∀ n ∈ [0, 400_000], let s : State := { State.reset with host := { State.reset.host with reads := [⟨0, true, 8, 4, [], n⟩] } };
      s.host.reads = [⟨0, true, 8, 4, [], n⟩] ∧ (hrdtoPeriods s ≤ n ↔ n = 400_000)) ∧
    (∀ t ∈ [0, 20_000_000], since { State.reset with clk := { State.reset.clk with ticks := t } } .perst = t) ∧
    (hostUp []).held = [] ∧ rd (hostUp []) hb_APVALID 0 15 ≠ 1 ∧
    (wayOf State.reset (.kid 0) 0x1400480000 ≠ none ∧ kidRefused State.reset (.kid 0) 0x1400480000 = true ∧
      wayOf State.reset .tap 0x1400480004 ≠ none ∧ kidRefused State.reset .tap 0x1400480004 = false) ∧
    placeOf 0x1480_0000_0000 = .hole ∧ blockOpen State.reset 149 false := by unfold blockOpen; decide

/-! Register writes: an RW field takes its value, a 1 in a reserved bit sets RSVW, an RO field stays, a W1C bit is cleared. -/
theorem test_register_write_rw : nextIs (exec (.registerWrite .tap 0x1400480004 .b4 0x15) State.reset)
    (fun t => rd t mi_MICTRL_RPTTHR == 5 && rd t mi_MIFAULT_RSVW == 1) = true := by decide
theorem test_register_write_ro : nextIs (exec (.registerWrite .tap 0x1400480008 .b4 0xFF) (stOf [(mi_CECOUNT, 0, 0, 77)]))
    (fun t => rd t mi_CECOUNT == 77) = true := by decide
theorem test_register_write_w1c : nextIs (exec (.registerWrite .tap 0x1400480000 .b4 0x4) (stOf [(mi_MIFAULT_LOGOVF, 0, 0, 1), (mi_MIFAULT_RSVW, 0, 0, 1)]))
    (fun t => rd t mi_MIFAULT_LOGOVF == 0 && rd t mi_MIFAULT_RSVW == 1) = true := by decide

set_option maxRecDepth 8000 in
theorem witness_ResetsAndBootPhases :
    (∀ n ∈ [1, 2, 3, 4, 5, 6, 8], rd (phaseAt n []) hb_BOOTSTAT_PHASE = n ∧ rd (phaseAt n []) pm_PMSTAT_STATE ≠ 4 ∧ (phaseAt n []).pow.deep = false) ∧
    State.reset.pins.pg = 0x3FF ∧ rd State.reset tb_TBSTAT_LOCK ≠ 1 ∧
    (∀ c ∈ [1, 5, 6, 7], rd (phaseAt 3 [(rs_LASTRST, 0, 0, c)]) rs_LASTRST = c) ∧
    (phaseAt 4 []).host.hostBoot = false ∧ rdb (phaseAt 4 [(hb_BOOTSTAT_SLOT, 0, 0, 1)]) hb_BOOTSTAT_SLOT = true ∧
    locatorOk [] = false ∧ blockOpen State.reset 147 false ∧ rd State.reset hb_HIMGLEN = 0 ∧
    rd (phaseAt 8 [(hb_HIMGLEN, 0, 0, 512), (hb_BOOTSTAT_SEL, 0, 0, 1)]) hb_HIMGLEN = 512 ∧
    (stagedImage (phaseAt 5 [])).1 ≠ none ∧ (stagedImage { phaseAt 5 [] with words := [(0, ⟨true, true, 3⟩)] }).1 = none ∧ (phaseAt 5 []).host.flashTry = false := by unfold blockOpen; decide

/-! ### Lifecycle -/

/-- A request that runs. -/
def requestAt (r : LcReq) (b : List Byte) (st : Nat) : State :=
  { otpAt st [] with lc := { State.reset.lc with busy := some (r, b) } }

theorem witness_LifecycleRequests :
    (∀ r ∈ [LcReq.claim, .advance, .revoke, .debug, .attest], (requestAt r [] 2).lc.busy = some (r, []) ∧ (requestAt r [] 2).pow.want = none ∧
      (requestAt r [] 2).otp.pend = none) ∧
    (∀ r ∈ [LcReq.claim, .advance, .revoke, .debug], reqCheck (requestAt r [] 2) r [] ≠ 0) ∧
    blockOpen State.reset 148 false ∧ (otpAt 0 [(lc_VKEYHASH, 0, 0, 5)]).otp.lcstate = 0 ∧ rd (otpAt 0 [(lc_VKEYHASH, 0, 0, 5)]) lc_VKEYHASH = 5 ∧
    rd (otpAt 0 []) lc_VKEYHASH = 0 ∧ State.reset.otp.devKey ≠ none := by unfold blockOpen; decide

/-! ### Resets of herds and domains -/

theorem witness_ResetsOfHerdsAndDomains :
    State.reset.pow.deep = false ∧ (∀ n ∈ [7, 8], rd (phaseAt n []) hb_BOOTSTAT_PHASE = n ∧ (phaseAt n []).otp.pend = none) ∧
    rd (stOf [(rs_RSTHERD, 0, 0, 511)]) rs_RSTHERD = 511 ∧ widerHerd (bootedAt []) 511 = false ∧ widerHerd State.reset 511 = true ∧
    (let s : State := { bootedAt [] with rst := { herds := [7], doms := [], inReset := false } };
      7 ∈ s.rst.herds ∧ pstate s (herdDom 7) = 0 ∧ herdDom 7 ∉ s.rst.doms ∧ s.rst.inReset = false ∧ s.held = []) ∧
    rd (stOf [(rs_RSTDOM, 0, 0, 143)]) rs_RSTDOM = 143 ∧ domGoOk 143 = true ∧ domGoOk 32 = false ∧ domGoOk 144 = false ∧
    (let s : State := { stOf [(pd_DSTAT_PSTATE, 35, 0, 3)] with rst := { herds := [], doms := [35], inReset := false } };
      35 ∈ s.rst.doms ∧ pstate s 35 = 3 ∧ s.held = [] ∧ rd s pd_DSTAT_TRIMFAIL 35 ≠ 1 ∧ s.pow.trip = false) ∧
    rd (stOf [(pd_DSTAT_TRIMFAIL, 35, 0, 1)]) pd_DSTAT_TRIMFAIL 35 = 1 := by decide

/-! ### Power and margins -/

/-- A device state. -/
def powerAt (n : Nat) (l : List (Fld × Nat × Nat × Nat)) : State := stOf ((pm_PMSTAT_STATE, 0, 0, n) :: l)

theorem test_doze : nextIs (exec .reqDoze (powerAt 0 [])) (fun t => rd t pm_PMSTAT_STATE == 1 && rd t pm_PMSTAT_RES == 1) = true := by decide

theorem witness_DeviceStatesAsked :
    State.reset.pow.deep = false ∧ rd (powerAt 0 [(pm_PMSTAT_BUSY, 0, 0, 1)]) pm_PMSTAT_BUSY = 1 ∧
    (∀ n ∈ [0, 1, 2, 4], rd (powerAt n []) pm_PMSTAT_STATE = n ∧ rd (powerAt n []) pm_PMSTAT_BUSY ≠ 1) ∧ (powerAt 2 []).pins.pg = 0x3FF ∧
    ({ powerAt 2 [] with pins := { State.reset.pins with pg := 0x1FF } } : State).pins.pg ≠ 0x3FF ∧
    allQuiet (powerAt 0 [(ax_PSTATE, 0, 0, 4)]) = false ∧ allQuiet (powerAt 0 []) = true ∧ State.reset.lc.busy = none ∧ (requestAt .claim [] 2).lc.busy ≠ none := by decide

theorem witness_PowerAndMargins :
    (pstate (stOf [(pd_DSTAT_PSTATE, 7, 0, 2)]) 7 = 2 ∧ (stOf [(pd_DSTAT_PSTATE, 7, 0, 2)]).held = [] ∧ wakeBanksOk 7 [] = true) ∧
    (rd (powerAt 2 []) pm_PMSTAT_STATE = 2 ∧ (∀ i, i < 16 → rd (powerAt 2 []) pm_WSEL 0 i = 0) ∧
      (let s := powerAt 2 [(pm_WSEL, 0, 15, 2), (pm_WIDX, 0, 15, 4), (pm_WHI, 0, 15, 10)];
        rd s pm_WSEL 0 15 = 2 ∧ rd s pm_WREL 0 15 ≠ 1 ∧ rd s pm_WIDX 0 15 = 4 ∧ sext 32 (rd s pm_WHI 0 15) = 10)) ∧
    (bit (rd (deepAt [(pm_DEEPWAKE, 0, 0, 0x8000)]) pm_DEEPWAKE) 15 = true ∧ (deepAt []).host.perst = false) ∧
    (let s : State := { phaseAt 1 [] with pins := { State.reset.pins with pg := 0x1FF } }; bit s.pins.pg 9 = false ∧ rd s hb_BOOTSTAT_PHASE = 1) ∧
    (warns State.reset 8 = false ∧ warns { State.reset with pow := { State.reset.pow with warn := [(8, 5)] } } 8 = true) ∧
    (let s : State := { State.reset with pow := { State.reset.pow with warn := [(8, 5)], brown := [8] } }; s.pow.brown = [8]) ∧
    (8 ∈ ({ State.reset with pow := { State.reset.pow with back := [8] } } : State).pow.back) ∧
    ((rd State.reset pm_TWARN * 4 : Nat) < ((0x7FFF : BitVec 16)).toInt ∧
      ((0x8000 : BitVec 16)).toInt ≤ (rd State.reset pm_TWARN : Int) * 4 - 12) ∧
    State.reset.pow.trip = false ∧ State.reset.pow.tries = [] ∧ rd (stOf [(pd_DSTAT_TRIMFAIL, 7, 0, 1)]) pd_DSTAT_TRIMFAIL 7 = 1 ∧
    leastSlack ⟨7, [0], 0, 0, 0⟩ = 0 := by decide

theorem witness_gate : canGate { phaseAt 7 [(pd_DCTL_IDLE, 147, 0, 16)] with clk := { ticks := 16_000, idles := [(147, 16)] } } 147 = true := by decide

/-! ### Test and service -/

theorem test_extest_refused : nextIs (Sys2Proof.Machine.execExtest [] State.reset) (fun t => decide (t.tap.ir = 0xFF) && rd t ts_TSTFAULT_TAPREF == 1) = true := by
  decide

theorem witness_HerdService :
    blockOpen State.reset (herdDom 0) (State.reset.rst.herds.contains 0) ∧
    (∀ n ∈ [0, 1, 2], let s := stOf [(hf_HSTAT_FENCE, 0, 0, n), (kc_KSTAT_STATE, 5, 0, 1)];
      rd s hf_HSTAT_FENCE 0 = n ∧ kstate s 5 = 1 ∧ s.held = [] ∧ rd s hf_HSTAT_BISTRUN 0 ≠ 1) ∧
    rd (stOf [(hf_HSTAT_BISTRUN, 0, 0, 1)]) hf_HSTAT_BISTRUN 0 = 1 ∧
    ((∀ k : KidId, k.val / 64 = 0 → 2 ≤ kstate (stOf [(hf_HSTAT_FENCE, 0, 0, 1)]) k) ∧ (oryxOf (stOf [(hf_HSTAT_FENCE, 0, 0, 1)]) 0).fifo = [] ∧
      (stOf [(hf_HSTAT_FENCE, 0, 0, 1)]).reqs = []) ∧
    blockOpen State.reset 149 false ∧ rd (stOf [(ts_SUBBUSY, 0, 0, 1)]) ts_SUBBUSY = 1 ∧ rd State.reset ts_SUBBUSY ≠ 1 ∧
    (∀ c ∈ [0, 4, 7], ({ stOf [(ts_SUBBUSY, 0, 0, 1)] with sub := some (5, 1, c) } : State).sub = some (5, 1, c)) ∧
    subRes (stOf [(kc_KSTAT_STATE, 5, 0, 0)]) 5 1 = 2 ∧ 2 ≤ kstate State.reset 5 ∧
    (bit (spareBad State.reset 0) 1 = false → subRes State.reset 5 1 = 0) := by
  refine ⟨by unfold blockOpen; decide, by decide, by decide, ⟨?_, by decide, by decide⟩, by unfold blockOpen; decide, by decide, by decide, by decide,
    by decide, by decide, fun h => ?_⟩
  · intro k _
    simp [kstate, rd, stOf, regsOf, alGet, Fld.key, hf_HSTAT_FENCE, kc_KSTAT_STATE, Fld.reset]
  · show (if bit (spareBad State.reset 0) 1 = true then 4 else 0) = 0
    rw [h]; rfl

theorem witness_UnitFencesAndTap :
    blockOpen State.reset 149 false ∧ bit (rd State.reset ts_FENCEP) 63 = false ∧ bit (0x8000_0000_0000_0000 : Nat) 63 = true ∧
    ((fawnOf (setFawn State.reset 126 { st := .running }) (2 * 63)).st ≠ .off) ∧
    (rd (stOf [(ts_FPSEL, 0, 0, 168)]) ts_FPSEL = 168 ∧ fawnFenced State.reset 0 = false ∧ fawnFenced (stOf [(ts_FENCEP, 0, 0, 1)]) 0 = true ∧
      fawnFenced (stOf [(ts_FENCEL, 0, 0, 0x800)]) 167 = true) ∧
    (let s := stOf [(ts_HBMFMASK, 0, 0, 0x8000_0000), (ts_HBMFST, 0, 0, 0)];
      rd s ts_HBMFSTK = 0 ∧ bit (rd s ts_HBMFMASK) 31 = true ∧ bit (rd s ts_HBMFST) 31 = false ∧ s.merges = []) ∧
    State.reset.pow.deep = false ∧ State.reset.lc.dbg < 2 ∧ (∀ n ∈ [0, 1, 2], ({ State.reset with lc := { State.reset.lc with dbg := n } } : State).lc.dbg = n) ∧
    rd (stOf [(ts_HBMFST, 0, 0, 0xFFFF_FFFF)]) ts_HBMFST = 0xFFFF_FFFF ∧ bits (2 * 2 + (0x14_0050_0000 + 4) * 16) 43 4 = 0x14_0050_0004 := by
  unfold blockOpen; decide

end Sys2Proof.Tests
end

section
/-!
PROOFS. O60: the registers that a reset drops, host interrupts and error counters, PERST_N, configuration, the read timeout.
-/

namespace Sys2Proof.Machine

/-! ### Registers that a reset drops or keeps -/

/-- Filtering a map by its keys hides the keys that the filter drops. -/
theorem alGet_filter_of_dropped {κ α : Type} [DecidableEq κ] (m : List (κ × α)) (p : κ → Bool) {k : κ} (h : p k = false) :
    alGet (m.filter (fun e => p e.1)) k = none := by
  induction m with
  | nil => rfl
  | cons e m ih =>
    by_cases he : p e.1 = true
    · have hk : e.1 ≠ k := fun hk => by simp [hk, h] at he
      simp [he, alGet, hk, ih]
    · simp [he, ih]

/-- A dropped register reads as its Reset column. -/
theorem rd_dropRegs_of_dropped {s : State} {p : RegKey → Bool} {F : Fld} {n i : Nat} (h : p (F.key n i) = true) :
    rd (dropRegs s p) F n i = F.reset i := by
  have := alGet_filter_of_dropped s.regs (fun k => !p k) (k := F.key n i) (by simp [h])
  simp [rd, dropRegs, this]

/-- A register that a device-wide reset does not keep reads as its Reset column. -/
theorem rd_deviceReset_of_not_kept {s : State} {keep : RegKey → Bool} {F : Fld} {n i : Nat} (h : keep (F.key n i) = false) :
    rd (deviceReset s keep) F n i = F.reset i := by
  simp [rd, deviceReset, alGet_filter_of_dropped s.regs keep h]

/-! ### Interrupts and counters of the host (R365, R367) -/

/-- Registers at different offsets have different places. -/
theorem Fld.key_ne_of_off {F G : Fld} (h : G.off ≠ F.off) (n i m j : Nat) : G.key m j ≠ F.key n i :=
  fun e => h (congrArg RegKey.off e)
/-- So have fields with different low bits. -/
theorem Fld.key_ne_of_lo {F G : Fld} (h : G.lo ≠ F.lo) (n i m j : Nat) : G.key m j ≠ F.key n i :=
  fun e => h (congrArg RegKey.lo e)

/-- A vector changes no register but the Pending Bit Array. -/
theorem rd_msix {F : Fld} (h : F.off ≠ hb_MSIXPBA.off) (s : State) (v n i : Nat) : rd (msix s v) F n i = rd s F n i := by
  unfold msix
  split
  · rfl
  · split
    · exact rd_wr_other _ _ (Fld.key_ne_of_off h _ _ _ _)
    · rfl

/-- Of the host's record a vector changes the messages alone. -/
theorem msix_host (s : State) (v : Nat) : (msix s v).host = { s.host with msgs := (msix s v).host.msgs } := by
  unfold msix
  split
  · rfl
  · split <;> rfl

/-- A host fault changes registers and the messages to the host. -/
theorem hfault_frame (s : State) (F : Fld) :
    hfault s F = { s with regs := (hfault s F).regs, host := { s.host with msgs := (hfault s F).host.msgs } } := by
  unfold hfault
  split
  · rfl
  · rw [msix_frame, msix_host]; rfl

/-- A host fault sets its bit. -/
theorem rd_hfault_same {F : Fld} (h : F.off ≠ hb_MSIXPBA.off) (hw : F.w = 1) (s : State) : rd (hfault s F) F = 1 := by
  unfold hfault
  split
  · next h1 => simpa [rdb] using h1
  · exact (rd_msix h _ _ _ _).trans ((rd_wr_same s F 0 1 0).trans (by simp [hw]))

/-- It changes no register elsewhere but the Pending Bit Array. -/
theorem rd_hfault_other {F G : Fld} (h : G.off ≠ hb_MSIXPBA.off) (hF : G.off ≠ F.off) (s : State) (n i : Nat) :
    rd (hfault s F) G n i = rd s G n i := by
  unfold hfault
  split
  · rfl
  · rw [rd_msix h, rd_wr_other _ _ (Fld.key_ne_of_off hF _ _ _ _)]

theorem rd_hostErr_count (s : State) (off : Nat) : rd (hostErr s off) hb_HERRCNT = (rd s hb_HERRCNT + 1) % 2 ^ 32 := by
  unfold hostErr incr
  rw [rd_wr_other _ _ (Fld.key_ne_of_off (by decide) _ _ _ _), rd_wr_same]; rfl

theorem rd_hostErr_last (s : State) (off : Nat) : rd (hostErr s off) hb_HERRLAST = off % 2 ^ 64 := rd_wr_same _ _ _ _ _

theorem rd_hostErr_other {F : Fld} (h1 : F.off ≠ hb_HERRCNT.off) (h2 : F.off ≠ hb_HERRLAST.off) (s : State) (off n i : Nat) :
    rd (hostErr s off) F n i = rd s F n i := by
  unfold hostErr incr
  rw [rd_wr_other _ _ (Fld.key_ne_of_off h2 _ _ _ _), rd_wr_other _ _ (Fld.key_ne_of_off h1 _ _ _ _)]

/-! ### HOSTRING (R367) -/

theorem execHostring_open {s : State} (h : blockOpen s 147 false) (v : BitVec 6) :
    exec (.hostring v) s = .next { hostRing s v.toNat with reply := .done } :=
  atBlock_open (act := fun s => hostRing s v.toNat) h

theorem hostRing_reserved {v : Nat} (h : v < 4) (s : State) : hostRing s v = hfault s hb_HFAULT_RSVV := if_pos h
theorem hostRing_vector {v : Nat} (h : 4 ≤ v) (s : State) : hostRing s v = msix s v := if_neg (by omega)

theorem msix_down {s : State} (h : pcieUp s = false) (v : Nat) : msix s v = s := by simp [msix, h]

theorem msix_unmasked {s : State} (h : pcieUp s = true) {v : Nat} (hm : rd s hb_MSIXMASK 0 v ≠ 1) :
    msix s v = { s with host := { s.host with msgs := s.host.msgs ++ [v] } } := by simp [msix, h, rdb, hm]

theorem msix_masked {s : State} (h : pcieUp s = true) {v : Nat} (hm : rd s hb_MSIXMASK 0 v = 1) :
    msix s v = wr s hb_MSIXPBA 0 1 v := by simp [msix, h, rdb, hm]

/-! ### PERST_N and configuration (R362, R368, R404) -/

/-- The MSI-X table and the Pending Bit Array read as their Reset columns after PERST_N has fallen. -/
theorem rd_pcieReset {F : Fld} (hb : F.blk = .hostBoot) (h : 0x8000 ≤ F.off) (s : State) (n i : Nat) :
    rd (pcieReset s) F n i = F.reset i :=
  rd_dropRegs_of_dropped (s := s) (p := fun k => decide (k.blk = .hostBoot) && decide (0x8000 ≤ k.off)) (by simp [Fld.key, hb, h])

theorem perstOp_low (s : State) : perstOp s false = pcieReset { s with host := { s.host with perst := false } } := rfl

/-- PERST_N rises outside DEEP: the level is noted, and its time where it was low. -/
theorem perstOp_high {s : State} (hd : s.pow.deep = false) :
    perstOp s true = { s with host := { s.host with perst := true }, clk := (perstOp s true).clk } := by
  cases hp : s.host.perst <;> simp [perstOp, hd, hp, stampAt]

theorem since_stampAt (s : State) (m : Mark) : since (stampAt s m) m = 0 := by simp [since, stampAt]

theorem since_perstOp_high {s : State} (hd : s.pow.deep = false) (hp : s.host.perst = false) : since (perstOp s true) .perst = 0 := by
  have h : perstOp s true = stampAt { s with host := { s.host with perst := true } } .perst := by simp [perstOp, hp, hd, stampAt]
  rw [h, since_stampAt]

/-- PERST_N rises in DEEP outside FAULT-HOLD: the device wakes. -/
theorem perstOp_deep {s : State} (hd : s.pow.deep = true) (hh : rd s pm_PMSTAT_STATE ≠ 4) (hp : s.host.perst = false) :
    perstOp s true = deepWake (stampAt { s with host := { s.host with perst := true } } .perst) := by
  have h : inHold s = false := by simpa [inHold] using hh
  simp [perstOp, hp, hd, h]

theorem rd_deepWake_lastrst (s : State) : rd (deepWake s) rs_LASTRST = 5 := by
  show rd (incrSat (wr _ rs_LASTRST 0 5) rs_COLDS) rs_LASTRST = 5
  rw [incrSat, rd_wr_other _ _ (Fld.key_ne_of_off (by decide) _ _ _ _), rd_wr_same]; rfl

theorem rd_deepWake_phase (s : State) : rd (deepWake s) hb_BOOTSTAT_PHASE = 1 := by
  show rd (incrSat (wr _ rs_LASTRST 0 5) rs_COLDS) hb_BOOTSTAT_PHASE = 1
  rw [incrSat, rd_wr_other _ _ (by decide), rd_wr_other _ _ (by decide)]
  exact rd_deviceReset_of_not_kept (s := s) (keep := keptCold) (by decide)

theorem execPcieConfigReady_eq {s : State} (hp : s.host.perst = true) (hc : s.host.cfgOk = false) (hb : 2 ≤ rd s hb_BOOTSTAT_PHASE)
    (hd : s.pow.deep = false) :
    exec .pcieConfigReady s =
      due s (decide (20_000_000 ≤ since s .perst)) { s with host := { s.host with cfgOk := true } } := by
  show due s _ _ = _
  simp [hp, hc, hb, hd]

/-! ### The read timeout (R366) -/

theorem execHrdto_cons {s : State} {r : HostRead} {rest : List HostRead} (h : s.host.reads = r :: rest) :
    exec .hrdto s = due s (decide (hrdtoPeriods s ≤ r.age)) (hrdtoOp s r) := by
  show execHrdto s = _
  simp [execHrdto, h]

theorem hrdtoOp_host {s : State} {r : HostRead} {rest : List HostRead} (h : s.host.reads = r :: rest) :
    (hrdtoOp s r).host.reads = rest ∧ (hrdtoOp s r).host.aerCa = true := by
  simp [hrdtoOp, failRead, hostErr, incr, endRead, h]

theorem rd_hrdtoOp_timeouts (s : State) (r : HostRead) : rd (hrdtoOp s r) hb_HTOCNT = (rd s hb_HTOCNT + 1) % 2 ^ 32 := by
  show rd (hostErr _ _) hb_HTOCNT = _
  rw [rd_hostErr_other (by decide) (by decide)]
  exact rd_wr_same s hb_HTOCNT 0 _ 0

theorem rd_hrdtoOp_errors (s : State) (r : HostRead) : rd (hrdtoOp s r) hb_HERRCNT = (rd s hb_HERRCNT + 1) % 2 ^ 32 := by
  have h : rd (incr s hb_HTOCNT) hb_HERRCNT = rd s hb_HERRCNT := rd_wr_other s _ (Fld.key_ne_of_off (by decide) _ _ _ _)
  rw [← h]
  exact rd_hostErr_count _ _

end Sys2Proof.Machine
end

section
/-!
PROOFS. O60: an access to a register of the service die that no boundary keeps, and BAR requests.
-/

namespace Sys2Proof.Machine

/-! ### Accesses that no boundary keeps -/

/-- With nothing at a boundary there is nothing to make again. -/
theorem replay_of_none_held {s : State} (h : s.held = []) : replay s = s := by
  cases s
  cases h
  rfl

/-- A size that an access may have (R29). -/
def naturalSize (n : Nat) : Prop := n = 1 ∨ n = 2 ∨ n = 4 ∨ n = 8

/-- An access of the host or the TAP, of natural size and alignment, to offset o of block b of the service die: it has the right to
go there, and domain d is open. -/
structure ServiceAccess (s : State) (q : BusReq) (b : Blk) (d o : Nat) : Prop where
  outside : q.outside = true
  die : 0x14_0000_0000 ≤ q.a
  size : naturalSize q.n
  aligned : q.a % q.n = 0
  place : placeOf q.a = .reg b 0 o
  dom : domOf q.a = some d
  isOpen : blockOpen s d false
  plain : ttOf q = 0
  right : refusedTo s q = false
  wakeless : wakesWatch q = false

/-- No herd, no kid view and no HBM channel lies on the service die. -/
theorem herdAt_serviceDie {a : Nat} (h : 0x14_0000_0000 ≤ a) : herdAt a = none := by
  rw [herdAt, if_neg (by omega), if_neg (by omega), if_neg (by omega)]
theorem slotAddr_serviceDie {a : Nat} (h : 0x14_0000_0000 ≤ a) : slotAddr a = none := if_neg (by omega)
theorem hbmShut_serviceDie (s : State) {a : Nat} (h : 0x14_0000_0000 ≤ a) : hbmShut s a = false := by
  have : ¬ a < 0x10_0000_0000 := by omega
  simp [hbmShut, this]

/-- The host and the TAP are in no herd. -/
theorem herdOfAgent_outside {q : BusReq} (h : q.outside = true) : herdOfAgent q.ag = none := by
  cases hag : q.ag with
  | kid k => simp [BusReq.outside, hag] at h
  | _ => rfl

namespace ServiceAccess

variable {s : State} {q : BusReq} {b : Blk} {d o : Nat}

theorem not_mustWait (h : ServiceAccess s q b d o) : mustWait s q = false := by
  obtain ⟨-, -, hp, -⟩ := h.isOpen
  have hdie := h.die
  have hboot : bootHolds s q = false := by
    simp [bootHolds, show ¬ q.a < 0x14_0000_0000 by omega, show ¬ q.a < 0x10_0000_0000 by omega]
  have hfence : fenceHolds s q = false := by
    simp [fenceHolds, herdOfAgent_outside h.outside, herdAt_serviceDie hdie]
  simp [mustWait, hboot, hfence, h.dom, hp, herdAt_serviceDie hdie, hbmShut_serviceDie s hdie, h.wakeless]

/-- The access reaches its place. -/
theorem busOp_eq_serve (h : ServiceAccess s q b d o) : busOp s q = serve s q := by
  obtain ⟨-, ht, -, -⟩ := h.isOpen
  have htrim : trimHeld s q = false := by simp [trimHeld, h.dom, ht]
  simp [busOp, streamMsg, h.plain, h.right, h.place, htrim, h.wakeless, h.not_mustWait]

theorem shapeOk (h : ServiceAccess s q b d o) : shapeOk q = true := by
  have hs : (q.n == 1 || q.n == 2 || q.n == 4 || q.n == 8) = true := by simpa [naturalSize, or_assoc] using h.size
  simp [Machine.shapeOk, h.place, hs, h.aligned]

theorem not_slotRefused (h : ServiceAccess s q b d o) : slotRefused s q = false := by
  simp [slotRefused, slotAddr_serviceDie h.die]

/-- A read gives the bytes of the block. -/
theorem busOp_read (h : ServiceAccess s q b d o) (hb : b ≠ .oryxSlot) (hw : q.wr = none) :
    busOp s q = { s with reply := .data (regRead s b 0 o q.n) } := by
  have hwait : waitRead s q b 0 o = false := by simp [waitRead, hb]
  rw [h.busOp_eq_serve]
  simp [serve, h.shapeOk, h.not_slotRefused, h.place, h.plain, hw, regLoad, hwait]

/-- A write writes the block. -/
theorem busOp_write (h : ServiceAccess s q b d o) {v : Nat} (hw : q.wr = some v) :
    busOp s q = regWrite s b 0 o q.n v q.ag := by
  rw [h.busOp_eq_serve]
  simp [serve, h.shapeOk, h.not_slotRefused, h.place, h.plain, hw]

end ServiceAccess

/-- An access that is made at once is answered with its reply. -/
theorem access_answered {s t : State} {q : BusReq} {r : Reply} (h : busOp (noteHost s q) q = t) (hr : t.reply = r) (hw : r ≠ .waits) :
    access s q = answer t q r := by
  subst hr
  rw [access, h]
  exact if_neg hw

/-- An access to a reserved range is answered at once, as refused or as a reserved address; nothing changes. -/
theorem busOp_hole {s : State} {q : BusReq} (hm : streamMsg q = false) (hp : placeOf q.a = .hole) :
    busOp s q = { s with reply := .refused } ∨ busOp s q = { s with reply := .reserved } := by
  by_cases hr : refusedTo s q = true
  · exact .inl (by simp [busOp, hm, hr])
  · exact .inr (by simp [busOp, hm, hr, hp])

/-! ### The number of a BAR request -/

theorem le_foldl_max (l : List Nat) (m : Nat) : m ≤ l.foldl (fun m i => max m (i + 1)) m := by
  induction l generalizing m with
  | nil => exact Nat.le_refl m
  | cons i l ih => exact Nat.le_trans (Nat.le_max_left _ _) (ih _)

theorem lt_foldl_max {l : List Nat} {i : Nat} (h : i ∈ l) (m : Nat) : i < l.foldl (fun m i => max m (i + 1)) m := by
  induction l generalizing m with
  | nil => cases h
  | cons j l ih =>
    rcases List.mem_cons.1 h with rfl | h
    · exact Nat.lt_of_lt_of_le (by omega : i < max m (i + 1)) (le_foldl_max _ _)
    · exact ih h _

/-- The number of a new request is that of no read that waits, of no read completed, and not that of the latest failed write. -/
theorem read_id_ne_freshId {h : HostSt} {r : HostRead} (hr : r ∈ h.reads) : r.id ≠ freshId h :=
  Nat.ne_of_lt (lt_foldl_max (by simp only [List.mem_append, List.mem_map]; exact .inl (.inl ⟨r, hr, rfl⟩)) _)
theorem end_id_ne_freshId {h : HostSt} {e : Nat × HostEnd} (he : e ∈ h.ends) : e.1 ≠ freshId h :=
  Nat.ne_of_lt (lt_foldl_max (by simp only [List.mem_append, List.mem_map]; exact .inl (.inr ⟨e, he, rfl⟩)) _)
theorem failed_ne_freshId (h : HostSt) : h.failed ≠ some (freshId h) := fun e =>
  Nat.lt_irrefl (freshId h) (lt_foldl_max (by simp [e]) _)

/-! ### Answers to the host (R365) -/

/-- The read that BAR_READ notes. -/
def newRead (s : State) (bar2 : Bool) (off n : Nat) : HostRead := ⟨freshId s.host, bar2, off, n, [], 0⟩

/-- The state that the access of a BAR read starts from. -/
def notedRead (s : State) (r : HostRead) : State :=
  { s with host := { s.host with reads := s.host.reads ++ [r], nextId := r.id + 1 } }

section
variable {l : List HostRead} {r : HostRead}

/-- The read noted last is found by its number where no other has it. -/
theorem find_noted (h : ∀ x ∈ l, x.id ≠ r.id) : (l ++ [r]).find? (fun x => x.id == r.id) = some r := by
  have : l.find? (fun x => x.id == r.id) = none := by simpa using h
  simp [this]

theorem map_noted (h : ∀ x ∈ l, x.id ≠ r.id) (y : HostRead) :
    (l ++ [r]).map (fun x => if x.id = r.id then y else x) = l ++ [y] := by
  have hl : l.map (fun x => if x.id = r.id then y else x) = l :=
    (List.map_congr_left fun x hx => if_neg (h x hx)).trans (List.map_id' l)
  simp [hl]

theorem erase_noted (h : ∀ x ∈ l, x.id ≠ r.id) : (l ++ [r]).erase r = l := by
  rw [List.erase_append_right _ (fun hr => h r hr rfl)]
  simp

/-- All bytes of the read noted last have come: it ends with them, and the others wait on. -/
theorem answerHost_data {s : State} {id n : Nat} (hs : s.host.reads = l ++ [r]) (hid : r.id = id) (h : ∀ x ∈ l, x.id ≠ id)
    (hg : r.got = []) (hn : r.n = n) (bar2 : Bool) (off v : Nat) :
    answerHost s bar2 off id 0 n false (.data v) =
      { s with host := { s.host with reads := l, ends := s.host.ends ++ [(id, .data v)] } } := by
  subst hid hn
  have he : (l ++ [{ r with got := [(0, r.n, v)] }]).erase { r with got := [(0, r.n, v)] } = l := erase_noted (r := { r with got := _ }) h
  simp [answerHost, hs, find_noted h, readRun, map_noted h, hg, endRead, he]

/-- The read noted last fails at an address that is not there. -/
theorem answerHost_reserved {s : State} {id : Nat} (hs : s.host.reads = l ++ [r]) (hid : r.id = id) (h : ∀ x ∈ l, x.id ≠ id)
    (bar2 : Bool) (off i n : Nat) :
    answerHost s bar2 off id i n false .reserved =
      hostErr { s with host := { s.host with reads := l, ends := s.host.ends ++ [(id, .ur)], aerUr := true } }
        (barOff r.bar2 r.off) := by
  subst hid
  have he : (HostEnd.ur == HostEnd.ca) = false := rfl
  simp [answerHost, hs, find_noted h, failRead, endRead, erase_noted h, he]

end

/-- What a register block reads as does not depend on the host's record. -/
theorem regRead_host (s : State) (h : HostSt) (b : Blk) (n o nb : Nat) :
    regRead { s with host := h } b n o nb = regRead s b n o nb := by
  have hd : ∀ (F : Fld) (i : Nat), derived { s with host := h } F n i = derived s F n i := by
    intro F i
    unfold derived
    cases F.blk <;> rfl
  have hv : ∀ (F : Fld) (i : Nat), fieldVal { s with host := h } F n i = fieldVal s F n i := by
    intro F i
    unfold fieldVal
    rw [hd]; rfl
  simp [regRead, regByte, hv]

/-! ### BAR requests (R363 to R366) -/

/-- A request of a natural size is one access. -/
theorem barRuns_natural {n : Nat} (h : naturalSize n) (s : State) (bar2 : Bool) (off : Nat) : barRuns s bar2 off n = [(0, n)] :=
  if_pos h

theorem barTo_bar0 (s : State) (off : Nat) : barTo s false off = .here (blkBase .hostBoot 0 + off) := rfl

theorem barTo_invalid {s : State} {off : Nat} (h : rd s hb_APVALID 0 (off / 2 ^ 28) ≠ 1) : barTo s true off = .invalid := by
  simp only [Nat.reducePow] at h
  simp [barTo, rdb, h]

/-- A request is due while the link is up, where it leads to this node or to no valid aperture. -/
theorem barDue_up {s : State} (hu : pcieUp s = true) (hd : s.pow.deep = false) {bar2 : Bool} {off : Nat}
    (h : ∀ node a, barTo s bar2 off ≠ .there node a) (n : Nat) : barDue s bar2 off n = true := by
  cases ht : barTo s bar2 off with
  | there node a => exact absurd ht (h node a)
  | here a => simp [barDue, hu, hd, ht]
  | invalid => simp [barDue, hu, hd, ht]

/-- What the host is answered when a read ends. -/
def HostEnd.reply : HostEnd → Reply
  | .data v => .data v
  | .ur => .ur
  | .ca => .ca

/-- A read completed last is answered with its end. -/
theorem readReply_last {s : State} {l : List (Nat × HostEnd)} {id : Nat} {e : HostEnd} (hs : s.host.ends = l ++ [(id, e)])
    (h : ∀ x ∈ l, x.1 ≠ id) : readReply s id = e.reply := by
  have : l.find? (fun x => x.1 == id) = none := by simpa using h
  cases e <;> simp [readReply, hs, this, HostEnd.reply]

/-- A BAR read whose one access has ended it is answered with that end. -/
theorem barRead_of_ended {s u : State} {bar2 : Bool} {off n : Nat} {e : HostEnd} (hn : naturalSize n)
    (ha : barAccess (notedRead s (newRead s bar2 off n)) bar2 off (freshId s.host) 0 n none = u)
    (he : u.host.ends = s.host.ends ++ [(freshId s.host, e)]) : barRead s bar2 off n = { u with reply := e.reply } := by
  subst ha
  rw [← readReply_last he (fun _ hx => end_id_ne_freshId hx)]
  simp [barRead, barRuns_natural hn, notedRead, newRead]

/-- The state that the access of a BAR write starts from. -/
def notedWrite (s : State) : State := { s with host := { s.host with nextId := freshId s.host + 1 } }

/-- A BAR write of one access. -/
theorem barWrite_natural {bs : List Byte} (hn : naturalSize bs.length) (s : State) (bar2 : Bool) (off : Nat) :
    barWrite s bar2 off bs =
      { barAccess (notedWrite s) bar2 off (freshId s.host) 0 bs.length (some (ofBytesLE bs)) with reply := .done } := by
  unfold barWrite notedWrite
  dsimp only
  rw [barRuns_natural hn]
  simp only [List.foldl_cons, List.foldl_nil, List.drop_zero, List.take_length]

theorem barAccess_here {s : State} {bar2 : Bool} {start a : Nat} (h : barTo s bar2 start = .here a) (id n : Nat) (v : Option Nat) :
    barAccess s bar2 start id 0 n v = access s ⟨.host, a, n, v, .host bar2 start id 0⟩ := by
  unfold barAccess
  dsimp only
  rw [Nat.add_zero, h]

theorem answer_host (s : State) (a n : Nat) (v : Option Nat) (bar2 : Bool) (off id i : Nat) (r : Reply) :
    answer s ⟨.host, a, n, v, .host bar2 off id i⟩ r =
      { answerHost s bar2 off id i n v.isSome r with reply := hostReply v.isSome r } := rfl

/-! ### An aperture that is not valid (R363, R365) -/

/-- An access through an aperture that is not valid fails at once. -/
theorem barAccess_invalid {s : State} {start : Nat} (h : rd s hb_APVALID 0 (start / 2 ^ 28) ≠ 1) (id n : Nat) (v : Option Nat) :
    barAccess s true start id 0 n v = answer (hfault s hb_HFAULT_APINV) ⟨.host, 0, n, v, .host true start id 0⟩ .reserved := by
  unfold barAccess
  dsimp only
  rw [Nat.add_zero, barTo_invalid h]

/-- What such a request leaves: HFAULT.APINV is set, and HERRCNT counts it. -/
def apertureFails (s t : State) : Prop :=
  rd t hb_HFAULT_APINV = 1 ∧ rd t hb_HERRCNT = (rd s hb_HERRCNT + 1) % 2 ^ 32 ∧ t.mem = s.mem ∧ t.held = s.held

theorem apertureFails_hostErr {s u v : State} (hu : u.regs = s.regs ∧ u.mem = s.mem ∧ u.held = s.held) (off : Nat)
    (hv : v.regs = (hfault u hb_HFAULT_APINV).regs ∧ v.mem = u.mem ∧ v.held = u.held) : apertureFails s (hostErr v off) := by
  obtain ⟨hreg, hmem, hheld⟩ := hu
  obtain ⟨hreg', hmem', hheld'⟩ := hv
  have hcount : rd v hb_HERRCNT = rd s hb_HERRCNT := by
    rw [rd_congr hreg', rd_hfault_other (by decide) (by decide), rd_congr hreg]
  refine ⟨?_, by rw [rd_hostErr_count, hcount], hmem'.trans hmem, hheld'.trans hheld⟩
  rw [rd_hostErr_other (by decide) (by decide), rd_congr hreg', rd_hfault_same (by decide) rfl]

theorem hfault_mem (s : State) (F : Fld) : (hfault s F).mem = s.mem := by rw [hfault_frame]
theorem hfault_held (s : State) (F : Fld) : (hfault s F).held = s.held := by rw [hfault_frame]
theorem hfault_host (s : State) (F : Fld) : (hfault s F).host = { s.host with msgs := (hfault s F).host.msgs } := by
  rw [hfault_frame]

/-- A read through an aperture that is not valid ends as Unsupported Request. -/
theorem barRead_invalid {s : State} {off n : Nat} (hn : naturalSize n) (h : rd s hb_APVALID 0 (off / 2 ^ 28) ≠ 1) :
    (barRead s true off n).reply = .ur ∧ (barRead s true off n).host.reads = s.host.reads ∧
      (barRead s true off n).host.aerUr = true ∧ apertureFails s (barRead s true off n) := by
  have hh := hfault_host (notedRead s (newRead s true off n)) hb_HFAULT_APINV
  have hans := answerHost_reserved (r := newRead s true off n) (id := freshId s.host) (congrArg HostSt.reads hh) rfl
    (fun _ hx => read_id_ne_freshId hx) true off 0 n
  have ha := barAccess_invalid (s := notedRead s (newRead s true off n)) h (freshId s.host) n none
  rw [answer_host, Option.isSome_none, hans] at ha
  rw [barRead_of_ended (e := .ur) hn ha (by rw [hh]; rfl)]
  exact ⟨rfl, rfl, rfl, apertureFails_hostErr (u := notedRead s (newRead s true off n)) ⟨rfl, rfl, rfl⟩ _
    ⟨rfl, hfault_mem _ _, hfault_held _ _⟩⟩

/-- A failed access of a posted write is counted. -/
theorem answerHost_write {s : State} {id : Nat} (h : s.host.failed ≠ some id) (bar2 : Bool) (off i n : Nat) :
    answerHost s bar2 off id i n true .reserved =
      hostErr { s with host := { s.host with failed := some id } } (barOff bar2 off) := by
  simp [answerHost, failWrite, h]

/-- A write through an aperture that is not valid is counted; the host is not answered. -/
theorem barWrite_invalid {s : State} {off : Nat} {bs : List Byte} (hn : naturalSize bs.length)
    (h : rd s hb_APVALID 0 (off / 2 ^ 28) ≠ 1) :
    (barWrite s true off bs).reply = .done ∧ apertureFails s (barWrite s true off bs) := by
  have hid : (hfault (notedWrite s) hb_HFAULT_APINV).host.failed ≠ some (freshId s.host) := by
    rw [hfault_host]; exact failed_ne_freshId s.host
  rw [barWrite_natural hn, barAccess_invalid (s := notedWrite s) h, answer_host, Option.isSome_some, answerHost_write hid]
  exact ⟨rfl, apertureFails_hostErr (u := notedWrite s) ⟨rfl, rfl, rfl⟩ _ ⟨rfl, hfault_mem _ _, hfault_held _ _⟩⟩

/-! ### BAR0: the host and boot block (R364) -/

theorem placeOf_hostBoot {off : Nat} (h : off < 0x1_0000) : placeOf (blkBase .hostBoot 0 + off) = .reg .hostBoot 0 off := by
  show placeOf (0x14_0030_0000 + off) = _
  have h1 : (0x14_0030_0000 + off - 0x14_0000_0000) / 0x10_0000 = 3 := by omega
  have h2 : (0x14_0030_0000 + off - 0x14_0000_0000) % 0x10_0000 = off := by omega
  unfold placeOf
  rw [if_neg (by omega), if_neg (by omega), if_neg (by omega), if_neg (by omega), if_neg (by omega), if_neg (by omega),
    if_neg (by omega), if_pos (by omega)]
  simp only [placeService, h1, h2]
  rfl

theorem domOf_hostBoot {off : Nat} (h : off < 0x1_0000) : domOf (blkBase .hostBoot 0 + off) = some 147 := by
  show domOf (0x14_0030_0000 + off) = _
  have h1 : (0x14_0030_0000 + off - 0x14_0000_0000) / 0x10_0000 = 3 := by omega
  unfold domOf
  rw [if_neg (by omega), if_neg (by omega), if_neg (by omega), if_neg (by omega), if_neg (by omega), if_neg (by omega),
    if_neg (by omega), if_neg (by omega), h1]
  rfl

/-- The host's access to the host and boot block through BAR0. -/
theorem hostBoot_access {s : State} (hopen : blockOpen s 147 false) {off n : Nat} (hn : naturalSize n) (ho : off < 0x1_0000)
    (hal : off % n = 0) (w : Option Nat) (start id i : Nat) :
    ServiceAccess s ⟨.host, blkBase .hostBoot 0 + off, n, w, .host false start id i⟩ .hostBoot 147 off where
  outside := rfl
  die := by show 0x14_0000_0000 ≤ 0x14_0030_0000 + off; omega
  size := hn
  aligned := by
    show (0x14_0030_0000 + off) % n = 0
    rcases hn with rfl | rfl | rfl | rfl <;> omega
  place := placeOf_hostBoot ho
  dom := domOf_hostBoot ho
  isOpen := hopen
  plain := rfl
  right := rfl
  wakeless := by simp [wakesWatch, placeOf_hostBoot ho]

/-- A read of the host and boot block gives its bytes and changes no register. -/
theorem barRead_hostBoot {s : State} (hopen : blockOpen s 147 false) {off n : Nat} (hn : naturalSize n) (ho : off < 0x1_0000)
    (hal : off % n = 0) :
    (barRead s false off n).reply = .data (regRead s .hostBoot 0 off n) ∧ (barRead s false off n).regs = s.regs ∧
      (barRead s false off n).mem = s.mem ∧ (barRead s false off n).held = s.held ∧
      (barRead s false off n).host.reads = s.host.reads := by
  let q : BusReq := ⟨.host, blkBase .hostBoot 0 + off, n, none, .host false off (freshId s.host) 0⟩
  have hread := (hostBoot_access (s := noteHost (notedRead s (newRead s false off n)) q) hopen hn ho hal none off
    (freshId s.host) 0).busOp_read (by decide) rfl
  rw [show regRead (noteHost (notedRead s (newRead s false off n)) q) .hostBoot 0 off n = regRead s .hostBoot 0 off n from
    regRead_host s _ _ _ _ _] at hread
  have ha := (barAccess_here (barTo_bar0 (notedRead s (newRead s false off n)) off) (freshId s.host) n none).trans
    (access_answered (r := .data (regRead s .hostBoot 0 off n)) hread rfl (by simp))
  have hans := answerHost_data (l := s.host.reads) (r := newRead s false off n) (id := freshId s.host) (n := n)
    (s := { noteHost (notedRead s (newRead s false off n)) q with reply := .data (regRead s .hostBoot 0 off n) })
    rfl rfl (fun _ hx => read_id_ne_freshId hx) rfl rfl
  rw [answer_host, Option.isSome_none, hans] at ha
  rw [barRead_of_ended (e := .data (regRead s .hostBoot 0 off n)) hn ha rfl]
  exact ⟨rfl, rfl, rfl, rfl, rfl⟩

end Sys2Proof.Machine
end

section
/-!
PROOFS. O60: what a write of a register block does field by field, and register writes of every agent.
-/

namespace Sys2Proof.Machine

/-! ### Blocks whose fields are always there -/

/-- No role and no lifecycle state makes a field of the block reserved. -/
def alwaysThere (b : Blk) : Prop := ∀ F ∈ fieldsOf b, F.blk ≠ .epConfig ∧ F.blk ≠ .lifecycle

theorem alwaysThere_integrity : alwaysThere .integrity := by unfold alwaysThere; decide
theorem alwaysThere_hostBoot : alwaysThere .hostBoot := by unfold alwaysThere; decide

theorem absent_of_alwaysThere {b : Blk} (hb : alwaysThere b) (s : State) {F : Fld} (hF : F ∈ fieldsOf b) (n : Nat) :
    absent s F n = false := by
  obtain ⟨h1, h2⟩ := hb F hF
  have hv : F ≠ lc_VKEYHASH := fun e => h2 (e ▸ rfl)
  have hp : F ≠ lc_PROVGO := fun e => h2 (e ▸ rfl)
  simp [absent, roleShut, blankOnly, h1, hv, hp]

theorem mem_fieldsOf_of_mem_fieldsAt {b : Blk} {o : Nat} {f : Fld × Nat} (h : f ∈ fieldsAt b o) : f.1 ∈ fieldsOf b := by
  obtain ⟨F, hF, he⟩ := List.mem_filterMap.1 h
  obtain ⟨i, -, rfl⟩ := Option.map_eq_some_iff.1 he
  exact hF

theorem mem_fieldsOf_of_mem_fieldsInWrite {b : Blk} {o nb : Nat} {f : Fld × Nat} (h : f ∈ fieldsInWrite b o nb) : f.1 ∈ fieldsOf b := by
  rw [fieldsInWrite, List.mem_eraseDups] at h
  obtain ⟨l, hl, hf⟩ := List.mem_flatten.1 h
  obtain ⟨j, -, rfl⟩ := List.mem_map.1 hl
  exact mem_fieldsOf_of_mem_fieldsAt hf

/-! ### Reserved bits (R15) -/

/-- The bits of byte o that fields of the block have. -/
def listedBits (b : Blk) (o : Nat) : Nat := (fieldsAt b o).foldl (fun m f => m ||| f.1.maskAt f.2 o) 0

theorem setsReserved_eq {b : Blk} (hb : alwaysThere b) (s : State) (n o byte : Nat) :
    setsReserved s b n o byte = (byte &&& (255 - listedBits b o) != 0) := by
  have hf : (fieldsAt b o).filter (fun f => !absent s f.1 n) = fieldsAt b o :=
    List.filter_eq_self.2 fun f h => by simp [absent_of_alwaysThere hb s (mem_fieldsOf_of_mem_fieldsAt h)]
  simp [setsReserved, hf, listedBits]

/-- Whether a write carries a 1 for a bit that no field has. -/
def reservedOnes (b : Blk) (o nb v : Nat) : Bool :=
  (List.range nb).any (fun j => v / 2 ^ (8 * j) % 256 &&& (255 - listedBits b (o + j)) != 0)

theorem reservedWrite_eq {b : Blk} (hb : alwaysThere b) (s : State) (n o nb v : Nat) :
    reservedWrite s b n o nb v = if reservedOnes b o nb v then faultBit s (rsvwOf b n) else s := by
  simp only [reservedWrite, setsReserved_eq hb]
  rfl

/-- Of a byte whose low w bits have fields, a write reaches a reserved bit just where it is 2 ^ w or more. -/
theorem and_reserved_ne_zero {w x : Nat} (hw : w ≤ 8) (hx : x < 256) :
    (x &&& (255 - (2 ^ w - 1)) != 0) = decide (2 ^ w ≤ x) := by
  have hp : 0 < 2 ^ w := Nat.two_pow_pos w
  have hy : 255 - (2 ^ w - 1) = (2 ^ (8 - w) - 1) * 2 ^ w := by
    rw [Nat.sub_mul, ← Nat.pow_add, Nat.sub_add_cancel hw]; omega
  have hlow : (x &&& (255 - (2 ^ w - 1))) % 2 ^ w = 0 := by rw [Nat.and_mod_two_pow, hy, Nat.mul_mod_left, Nat.and_zero]
  have hhigh : (x &&& (255 - (2 ^ w - 1))) / 2 ^ w = x / 2 ^ w := by
    rw [Nat.and_div_two_pow, hy, Nat.mul_div_cancel _ hp, Nat.and_two_pow_sub_one_eq_mod]
    refine Nat.mod_eq_of_lt (Nat.div_lt_of_lt_mul ?_)
    rw [← Nat.pow_add, Nat.add_sub_cancel' hw]
    exact hx
  have hdiv := Nat.div_add_mod (x &&& (255 - (2 ^ w - 1))) (2 ^ w)
  rw [hlow, hhigh, Nat.add_zero] at hdiv
  have hne : 2 ^ w * (x / 2 ^ w) ≠ 0 ↔ 2 ^ w ≤ x := by
    rw [← Nat.pos_iff_ne_zero, Nat.mul_pos_iff_of_pos_left hp, Nat.div_pos_iff]
    exact and_iff_right hp
  rw [← hdiv, bne, Bool.eq_iff_iff, Bool.not_eq_true', beq_eq_false_iff_ne, decide_eq_true_iff]
  exact hne

/-- The reserved bits of a 4-byte write to bytes whose fields lie at their low bits. -/
theorem reservedOnes_four {b : Blk} {o w0 w1 w2 w3 : Nat} (v : Nat) (hw : w0 ≤ 8 ∧ w1 ≤ 8 ∧ w2 ≤ 8 ∧ w3 ≤ 8)
    (h : listedBits b o = 2 ^ w0 - 1 ∧ listedBits b (o + 1) = 2 ^ w1 - 1 ∧ listedBits b (o + 2) = 2 ^ w2 - 1 ∧
      listedBits b (o + 3) = 2 ^ w3 - 1) :
    reservedOnes b o 4 v = true ↔
      2 ^ w0 ≤ v % 256 ∨ 2 ^ w1 ≤ v / 2 ^ 8 % 256 ∨ 2 ^ w2 ≤ v / 2 ^ 16 % 256 ∨ 2 ^ w3 ≤ v / 2 ^ 24 % 256 := by
  obtain ⟨hw0, hw1, hw2, hw3⟩ := hw
  obtain ⟨h0, h1, h2, h3⟩ := h
  have hb : ∀ x, x % 256 < 256 := fun x => Nat.mod_lt x (by decide)
  have hr : List.range 4 = [0, 1, 2, 3] := rfl
  simp only [reservedOnes, hr, List.any_cons, List.any_nil, Nat.add_zero, h0, h1, h2, h3, and_reserved_ne_zero hw0 (hb _),
    and_reserved_ne_zero hw1 (hb _), and_reserved_ne_zero hw2 (hb _), and_reserved_ne_zero hw3 (hb _), Bool.or_false, Bool.or_eq_true,
    decide_eq_true_eq, Nat.mul_zero, Nat.pow_zero, Nat.div_one]

/-- A write without W1P fields: RSVW where a reserved bit is written 1, then the fields, in ascending order. -/
theorem regWrite_eq {b : Blk} {o nb : Nat} (hb : alwaysThere b) (hp : ∀ f ∈ fieldsInWrite b o nb, f.1.acc ≠ .w1p) (s : State)
    (n v : Nat) (ag : Agent) :
    regWrite s b n o nb v ag =
      (fieldsInWrite b o nb).foldl (fun s f => fieldWrite s f.1 n f.2 (carried f.1 f.2 o nb v) ag)
        (if reservedOnes b o nb v then faultBit { s with reply := .done } (rsvwOf b n) else { s with reply := .done }) := by
  have hf (t : State) : (fieldsInWrite b o nb).filter (fun f => !absent t f.1 n) = fieldsInWrite b o nb :=
    List.filter_eq_self.2 fun f h => by simp [absent_of_alwaysThere hb t (mem_fieldsOf_of_mem_fieldsInWrite h)]
  have hnone : ∀ (l : List (Fld × Nat)) (t : State), (∀ f ∈ l, f.1.acc ≠ .w1p) →
      l.foldl (fun t f => if f.1.acc = .w1p ∧ onesOf (carried f.1 f.2 o nb v) ≠ 0 then
        pulse t f.1 n f.2 (onesOf (carried f.1 f.2 o nb v)) ag else t) t = t := by
    intro l t hl
    induction l with
    | nil => rfl
    | cons f l ih =>
      rw [List.foldl_cons, if_neg (fun h => hl f (List.mem_cons_self ..) h.1)]
      exact ih fun g hg => hl g (List.mem_cons_of_mem _ hg)
  unfold regWrite
  dsimp only
  rw [hf, reservedWrite_eq hb]
  exact hnone _ _ hp

/-- The bits that a write carries replace those of a field that lies in the write whole. -/
theorem mergeBits_whole (old w x : Nat) : mergeBits old (0, w, x) % 2 ^ w = x % 2 ^ w := by
  simp [mergeBits, Nat.mod_one]

/-! ### The memory-integrity block (R13) -/

/-- A write to a field of this block that is RO, RW, W1C or W1P changes registers alone. -/
theorem fieldWrite_integrity_frame {F : Fld} (hb : F.blk = .integrity) (ha : F.acc ≠ .wo ∧ F.acc ≠ .img ∧ F.acc ≠ .nrw) (s : State)
    (n i : Nat) (c : Nat × Nat × Nat) (ag : Agent) :
    fieldWrite s F n i c ag = { s with regs := (fieldWrite s F n i c ag).regs } := by
  obtain ⟨hwo, himg, hnrw⟩ := ha
  unfold fieldWrite
  split
  · rfl
  · rfl
  · next h => exact absurd h hwo
  · unfold rwField; rw [hb]; rfl
  · simp only [hb, reduceCtorEq, false_and, if_false]
    split <;> rfl
  · next h => exact absurd h himg
  · next h => exact absurd h hnrw

theorem foldl_regs_frame {α : Type} (f : State → α → State) (l : List α) (h : ∀ x ∈ l, ∀ s, f s x = { s with regs := (f s x).regs })
    (s : State) : l.foldl f s = { s with regs := (l.foldl f s).regs } := by
  induction l generalizing s with
  | nil => rfl
  | cons x l ih =>
    rw [List.foldl_cons, ih (fun y hy => h y (List.mem_cons_of_mem _ hy))]
    rw [h x (List.mem_cons_self ..) s]

/-- The access codes of the block are RO, RW, W1C and W1P. -/
theorem integrity_codes : ∀ F ∈ fieldsOf .integrity, F.blk = .integrity ∧ F.acc ≠ .wo ∧ F.acc ≠ .img ∧ F.acc ≠ .nrw := by decide

/-- A write to the block that pulses nothing changes registers alone, and is answered. -/
theorem regWrite_integrity_frame {o nb : Nat} (hp : ∀ f ∈ fieldsInWrite .integrity o nb, f.1.acc ≠ .w1p) (s : State) (n v : Nat)
    (ag : Agent) :
    regWrite s .integrity n o nb v ag = { s with regs := (regWrite s .integrity n o nb v ag).regs, reply := .done } := by
  rw [regWrite_eq alwaysThere_integrity hp, foldl_regs_frame _ _ fun f hf t =>
    let h := integrity_codes f.1 (mem_fieldsOf_of_mem_fieldsInWrite hf)
    fieldWrite_integrity_frame h.1 h.2 t n f.2 _ ag]
  split <;> rfl

/-- The flags of MIFAULT. -/
def mifaultFlags : List Fld := [mi_MIFAULT_RSVW, mi_MIFAULT_IMGW, mi_MIFAULT_LOGOVF, mi_MIFAULT_BUSYGO]

theorem fieldsInWrite_mifault : fieldsInWrite .integrity 0 4 = mifaultFlags.map (fun F => (F, 0)) := by decide
theorem fieldsInWrite_mictrl : fieldsInWrite .integrity 4 4 = [(mi_MICTRL_RPTTHR, 0)] := by decide
theorem fieldsInWrite_cecount : fieldsInWrite .integrity 8 4 = [(mi_CECOUNT, 0)] := by decide

/-- MIFAULT and MICTRL have four bits, CECOUNT has all. -/
theorem reservedOnes_mifault {v : Nat} (h : v < 16) : reservedOnes .integrity 0 4 v = false := by
  have := reservedOnes_four (b := .integrity) (o := 0) (w0 := 4) (w1 := 0) (w2 := 0) (w3 := 0) v (by decide) (by decide)
  rw [← Bool.not_eq_true, this]
  omega
theorem reservedOnes_mictrl {v : Nat} (h : v < 2 ^ 32) : reservedOnes .integrity 4 4 v = true ↔ 16 ≤ v := by
  rw [reservedOnes_four (w0 := 4) (w1 := 0) (w2 := 0) (w3 := 0) v (by decide) (by decide)]
  omega
theorem reservedOnes_cecount (v : Nat) : reservedOnes .integrity 8 4 v = false := by
  have := reservedOnes_four (b := .integrity) (o := 8) (w0 := 8) (w1 := 8) (w2 := 8) (w3 := 8) v (by decide) (by decide)
  rw [← Bool.not_eq_true, this]
  omega

/-- MICTRL: RPTTHR takes the low four bits, and a 1 above them sets RSVW. -/
theorem rd_regWrite_mictrl {v : Nat} (h : v < 2 ^ 32) (s : State) (ag : Agent) :
    rd (regWrite s .integrity 0 4 4 v ag) mi_MICTRL_RPTTHR = v % 16 ∧
      rd (regWrite s .integrity 0 4 4 v ag) mi_MIFAULT_RSVW = if 16 ≤ v then 1 else rd s mi_MIFAULT_RSVW := by
  have hc : carried mi_MICTRL_RPTTHR 0 4 4 v = (0, 4, v % 16) := by simp [carried, Fld.bitLo, mi_MICTRL_RPTTHR]
  rw [regWrite_eq alwaysThere_integrity (by rw [fieldsInWrite_mictrl]; decide), fieldsInWrite_mictrl, List.foldl_cons, List.foldl_nil, hc]
  constructor
  · exact (rd_wr_same _ mi_MICTRL_RPTTHR 0 _ 0).trans ((mergeBits_whole _ 4 _).trans (by omega))
  · refine (rd_wr_other _ _ (Fld.key_ne_of_off (by decide) _ _ _ _)).trans ?_
    by_cases hv : 16 ≤ v
    · rw [if_pos ((reservedOnes_mictrl h).2 hv), if_pos hv]
      exact rd_wr_same _ mi_MIFAULT_RSVW 0 1 0
    · rw [if_neg (mt (reservedOnes_mictrl h).1 hv), if_neg hv]
      rfl

/-- CECOUNT is RO: a write changes no register. -/
theorem regWrite_cecount (s : State) (v : Nat) (ag : Agent) : regWrite s .integrity 0 8 4 v ag = { s with reply := .done } := by
  rw [regWrite_eq alwaysThere_integrity (by rw [fieldsInWrite_cecount]; decide), fieldsInWrite_cecount, reservedOnes_cecount]
  rfl

/-! ### W1C flags -/

/-- A 1-bit W1C field of the first word of the block. -/
def isFlag (F : Fld) : Prop := F.blk = .integrity ∧ F.acc = .w1c ∧ F.off = 0 ∧ F.w = 1 ∧ F.lo < 32

/-- What a 4-byte write of v to that word does to field F. -/
def flagWrite (v : Nat) (ag : Agent) (s : State) (F : Fld) : State := fieldWrite s F 0 0 (carried F 0 0 4 v) ag

theorem flagWrite_eq {F : Fld} (hF : isFlag F) (s : State) (v : Nat) (ag : Agent) :
    flagWrite v ag s F = if bit v F.lo then wr s F 0 (rd s F - rd s F % 2) else s := by
  obtain ⟨hb, ha, ho, hw, hl⟩ := hF
  have hox : F ≠ ox_OXFAULT_RSVW ∧ F ≠ ox_OXFAULT_UECC :=
    ⟨fun e => by simp [e, ox_OXFAULT_RSVW] at hb, fun e => by simp [e, ox_OXFAULT_UECC] at hb⟩
  have hm : min (F.lo + 1) 32 - F.lo = 1 := by omega
  have hc : onesOf (carried F 0 0 4 v) = v / 2 ^ F.lo % 2 := by
    simp [onesOf, carried, Fld.bitLo, ho, hw, hm]
  unfold flagWrite fieldWrite
  rw [ha]
  simp only [hc, ownInst, hox, hb, reduceCtorEq, false_and, if_false, or_self]
  rcases Nat.mod_two_eq_zero_or_one (v / 2 ^ F.lo) with h | h
  · simp [h, bit, Nat.shiftRight_eq_div_pow]
  · simp [h, bit, Nat.shiftRight_eq_div_pow, Nat.and_one_is_mod]

/-- A 1 clears the flag; a 0 leaves it. -/
theorem rdb_flagWrite_same {F : Fld} (hF : isFlag F) (s : State) (v : Nat) (ag : Agent) :
    rdb (flagWrite v ag s F) F = (rdb s F && !bit v F.lo) := by
  rw [flagWrite_eq hF]
  split
  · next h =>
    obtain ⟨-, -, -, hw, -⟩ := hF
    have h0 : (rd s F - rd s F % 2) % 2 ^ F.w = 0 := by rw [hw]; omega
    simp [rdb, rd_wr_same, h0, h]
  · next h => simp [h]

theorem rdb_flagWrite_other {F G : Fld} (hF : isFlag F) (h : G.lo ≠ F.lo) (s : State) (v : Nat) (ag : Agent) :
    rdb (flagWrite v ag s F) G = rdb s G := by
  rw [flagWrite_eq hF]
  split
  · simp [rdb, rd_wr_other s _ (Fld.key_ne_of_lo h 0 0 0 0)]
  · rfl

/-- Flags that the write does not reach keep their value. -/
theorem rdb_foldl_flagWrite_other {l : List Fld} (hl : ∀ F ∈ l, isFlag F) {G : Fld} (h : ∀ F ∈ l, G.lo ≠ F.lo) (s : State) (v : Nat)
    (ag : Agent) : rdb (l.foldl (flagWrite v ag) s) G = rdb s G := by
  induction l generalizing s with
  | nil => rfl
  | cons F l ih =>
    rw [List.foldl_cons, ih (fun K hK => hl K (List.mem_cons_of_mem _ hK)) (fun K hK => h K (List.mem_cons_of_mem _ hK)),
      rdb_flagWrite_other (hl F (List.mem_cons_self ..)) (h F (List.mem_cons_self ..))]

/-- Of flags at different bits, each is cleared by its own 1. -/
theorem rdb_foldl_flagWrite {l : List Fld} (hl : ∀ F ∈ l, isFlag F) (hd : l.Pairwise (fun F G => F.lo ≠ G.lo)) {G : Fld} (hG : G ∈ l)
    (s : State) (v : Nat) (ag : Agent) : rdb (l.foldl (flagWrite v ag) s) G = (rdb s G && !bit v G.lo) := by
  induction l generalizing s with
  | nil => cases hG
  | cons F l ih =>
    obtain ⟨hF, hd⟩ := List.pairwise_cons.1 hd
    have hl' : ∀ K ∈ l, isFlag K := fun K hK => hl K (List.mem_cons_of_mem _ hK)
    rw [List.foldl_cons]
    rcases List.mem_cons.1 hG with rfl | hG
    · rw [rdb_foldl_flagWrite_other hl' hF, rdb_flagWrite_same (hl G (List.mem_cons_self ..))]
    · rw [ih hl' hd hG, rdb_flagWrite_other (hl F (List.mem_cons_self ..)) (hF G hG).symm]

/-- MIFAULT: each 1 of a write that reaches no reserved bit clears its flag. -/
theorem rdb_regWrite_mifault {v : Nat} (h : v < 16) {F : Fld} (hF : F ∈ mifaultFlags) (s : State) (ag : Agent) :
    rdb (regWrite s .integrity 0 0 4 v ag) F = (rdb s F && !bit v F.lo) := by
  have hflag : ∀ G ∈ mifaultFlags, isFlag G := by unfold isFlag; decide
  rw [regWrite_eq alwaysThere_integrity (by rw [fieldsInWrite_mifault]; decide), fieldsInWrite_mifault, reservedOnes_mifault h,
    List.foldl_map]
  exact rdb_foldl_flagWrite hflag (by decide) hF { s with reply := .done } v ag

/-! ### HIMGLEN through BAR0 (R371) -/

theorem fieldsInWrite_himglen : fieldsInWrite .hostBoot 8 4 = [(hb_HIMGLEN, 0)] := by decide

theorem reservedOnes_himglen {v : Nat} (h : v < 2 ^ 29) : reservedOnes .hostBoot 8 4 v = false := by
  have := reservedOnes_four (b := .hostBoot) (o := 8) (w0 := 8) (w1 := 8) (w2 := 8) (w3 := 5) v (by decide) (by decide)
  rw [← Bool.not_eq_true, this]
  omega

/-- A write of a length to HIMGLEN sets it, and changes nothing else. -/
theorem regWrite_himglen {v : Nat} (h : v < 2 ^ 29) (s : State) (ag : Agent) :
    ∃ x, x % 2 ^ hb_HIMGLEN.w = v ∧ regWrite s .hostBoot 0 8 4 v ag = wr { s with reply := .done } hb_HIMGLEN 0 x := by
  have hc : carried hb_HIMGLEN 0 8 4 v = (0, 29, v) := by
    simp only [carried, Fld.bitLo, hb_HIMGLEN]
    simpa using Nat.mod_eq_of_lt h
  refine ⟨_, (mergeBits_whole (rd s hb_HIMGLEN) 29 v).trans (Nat.mod_eq_of_lt h), ?_⟩
  rw [regWrite_eq alwaysThere_hostBoot (by rw [fieldsInWrite_himglen]; decide), fieldsInWrite_himglen, reservedOnes_himglen h,
    List.foldl_cons, List.foldl_nil, hc]
  rfl

theorem ofBytesLE_bytesLE (n v : Nat) : ofBytesLE (bytesLE n v) = v % 256 ^ n := by
  induction n generalizing v with
  | zero => simp [bytesLE, ofBytesLE, Nat.mod_one]
  | succ n ih =>
    rw [bytesLE, ofBytesLE, ih, BitVec.toNat_ofNat, show 256 ^ (n + 1) = 256 * 256 ^ n from Nat.pow_succ', Nat.mod_mul]

theorem bytesLE_length (n v : Nat) : (bytesLE n v).length = n := by
  induction n generalizing v with
  | zero => rfl
  | succ n ih => simp [bytesLE, ih]

/-- A BAR0 write of HIMGLEN. -/
theorem barWrite_himglen {s : State} (hopen : blockOpen s 147 false) {v : Nat} (h : v < 2 ^ 29) :
    (barWrite s false 8 (bytesLE 4 v)).reply = .done ∧ rd (barWrite s false 8 (bytesLE 4 v)) hb_HIMGLEN = v ∧
      (barWrite s false 8 (bytesLE 4 v)).mem = s.mem ∧ (barWrite s false 8 (bytesLE 4 v)).held = s.held := by
  have hn : naturalSize 4 := .inr (.inr (.inl rfl))
  have hv : ofBytesLE (bytesLE 4 v) = v := by rw [ofBytesLE_bytesLE]; omega
  have hlen : (bytesLE 4 v).length = 4 := bytesLE_length 4 v
  let q : BusReq := ⟨.host, blkBase .hostBoot 0 + 8, 4, some v, .host false 8 (freshId s.host) 0⟩
  obtain ⟨x, hx, hw⟩ := regWrite_himglen h (noteHost (notedWrite s) q) .host
  have hbus := (hostBoot_access (s := noteHost (notedWrite s) q) hopen (off := 8) hn (by decide) rfl (some v) 8
    (freshId s.host) 0).busOp_write rfl
  rw [hw] at hbus
  have ha := (barAccess_here (barTo_bar0 (notedWrite s) 8) (freshId s.host) 4 (some v)).trans
    (access_answered (r := .done) hbus rfl (by simp))
  rw [answer_host, Option.isSome_some] at ha
  rw [barWrite_natural (by rw [hlen]; exact hn), hlen, hv, ha]
  exact ⟨rfl, (rd_wr_same _ hb_HIMGLEN 0 x 0).trans hx, rfl, rfl⟩

/-! ### Register writes of every agent (R32, R365) -/

/-- A register write completes for an agent that has a way to the address, outside DEEP. -/
theorem exec_registerWrite {s : State} {ag : Agent} {a : Addr} {ret : Ret} (hd : s.pow.deep = false) (hw : wayOf s ag a.toNat = some ret)
    (sz : Size) (v : BitVec 64) :
    exec (.registerWrite ag a sz v) s = .next (busWrite s ag a.toNat sz.bytes (v.toNat % 256 ^ sz.bytes) ret) := by
  show execRegisterWrite ag a sz v s = _
  simp [execRegisterWrite, hw, due, hd]

/-- Such a write is answered to nobody, or is the host's. -/
theorem wayOf_ret {s : State} {ag : Agent} {a : Nat} {ret : Ret} (h : wayOf s ag a = some ret) :
    ret = .none ∨ ∃ bar2 off, ret = .host bar2 off 0 0 := by
  cases ag
  case host =>
    simp only [wayOf, hostWay] at h
    split at h
    · exact .inr ⟨_, _, (Option.some.inj h).symm⟩
    · obtain ⟨i, -, hi⟩ := Option.map_eq_some_iff.1 h
      exact .inr ⟨_, _, hi.symm⟩
  all_goals exact .inl (Option.some.inj h).symm

/-- The answer to a posted write of the host changes registers and the host's record. -/
theorem answerHost_write_frame (s : State) (bar2 : Bool) (off id i n : Nat) (r : Reply) :
    answerHost s bar2 off id i n true r =
      { s with regs := (answerHost s bar2 off id i n true r).regs, host := (answerHost s bar2 off id i n true r).host } := by
  have hf : failWrite s bar2 off id = { s with regs := (failWrite s bar2 off id).regs, host := (failWrite s bar2 off id).host } := by
    unfold failWrite
    split <;> rfl
  cases r with
  | data _ => rfl
  | done => rfl
  | _ => exact hf

/-- The answer to a write that waits for none, or is the host's: memory and kids stay, and the reply is the bus's or, to the host, that
a posted write is done. -/
theorem answer_write {s : State} {q : BusReq} (hret : q.ret = .none ∨ ∃ bar2 off, q.ret = .host bar2 off 0 0) (hw : q.wr.isSome = true)
    (r : Reply) :
    (answer s q r).mem = s.mem ∧ (answer s q r).kids = s.kids ∧ (answer s q r).held = s.held ∧
      ((answer s q r).reply = r ∨ (answer s q r).reply = hostReply true r) := by
  rcases hret with h | ⟨bar2, off, h⟩
  · have ha : answer s q r = { s with reply := r } := by unfold answer; rw [h]
    rw [ha]
    exact ⟨rfl, rfl, rfl, .inl rfl⟩
  · have ha : answer s q r = { answerHost s bar2 off 0 0 q.n true r with reply := hostReply true r } := by
      unfold answer
      rw [h, hw]
    rw [ha, answerHost_write_frame]
    exact ⟨rfl, rfl, rfl, .inr rfl⟩

/-- A write to a reserved range leaves memory and kids, and is answered. -/
theorem access_write_hole {s : State} {q : BusReq} (hret : q.ret = .none ∨ ∃ bar2 off, q.ret = .host bar2 off 0 0)
    (hw : q.wr.isSome = true) (hp : placeOf q.a = .hole) :
    (access s q).mem = s.mem ∧ (access s q).kids = s.kids ∧ (access s q).held = s.held ∧
      ((access s q).reply = .reserved ∨ (access s q).reply = .refused ∨ (access s q).reply = .done) := by
  have hnote : (noteHost s q).mem = s.mem ∧ (noteHost s q).kids = s.kids ∧ (noteHost s q).held = s.held := by
    unfold noteHost
    split <;> exact ⟨rfl, rfl, rfl⟩
  have hm : streamMsg q = false := by
    rcases hret with h | ⟨bar2, off, h⟩ <;> simp [streamMsg, ttOf, headOf, h, Msg.tt, bits]
  obtain ⟨hmem, hkids, hheld⟩ := hnote
  rcases busOp_hole (s := noteHost s q) hm hp with h | h
  · rw [access_answered (r := .refused) h rfl (by simp)]
    obtain ⟨h1, h2, h3, h4⟩ := answer_write (s := { noteHost s q with reply := .refused }) hret hw .refused
    exact ⟨h1.trans hmem, h2.trans hkids, h3.trans hheld, .inr h4⟩
  · rw [access_answered (r := .reserved) h rfl (by simp)]
    obtain ⟨h1, h2, h3, h4⟩ := answer_write (s := { noteHost s q with reply := .reserved }) hret hw .reserved
    exact ⟨h1.trans hmem, h2.trans hkids, h3.trans hheld, h4.imp_right .inr⟩

/-! ### Writes of the TAP to the memory-integrity block -/

theorem placeOf_integrity {o : Nat} (h : o < 0x4_0000) : placeOf (0x14_0048_0000 + o) = .reg .integrity 0 o := by
  have h1 : (0x14_0048_0000 + o - 0x14_0000_0000) / 0x10_0000 = 4 := by omega
  have h2 : (0x14_0048_0000 + o - 0x14_0000_0000) % 0x10_0000 = 0x8_0000 + o := by omega
  unfold placeOf
  rw [if_neg (by omega), if_neg (by omega), if_neg (by omega), if_neg (by omega), if_neg (by omega), if_neg (by omega),
    if_neg (by omega), if_pos (by omega)]
  simp only [placeService, h1, h2]
  simp [show ¬ 0x8_0000 + o < 0x4_0000 by omega, show 0x8_0000 + o < 0xC_0000 by omega]

theorem domOf_integrity {o : Nat} (h : o < 0x4_0000) : domOf (0x14_0048_0000 + o) = some 149 := by
  have h1 : (0x14_0048_0000 + o - 0x14_0000_0000) / 0x10_0000 = 4 := by omega
  unfold domOf
  rw [if_neg (by omega), if_neg (by omega), if_neg (by omega), if_neg (by omega), if_neg (by omega), if_neg (by omega),
    if_neg (by omega), if_neg (by omega), h1]
  simp only [placeOf_integrity h]

/-- The TAP's 4-byte write to an aligned offset of the block. -/
theorem integrity_access {s : State} (hopen : blockOpen s 149 false) {o : Nat} (ho : o < 0x4_0000) (hal : o % 4 = 0) (w : Option Nat) :
    ServiceAccess s ⟨.tap, 0x14_0048_0000 + o, 4, w, .none⟩ .integrity 149 o where
  outside := rfl
  die := by show 0x14_0000_0000 ≤ 0x14_0048_0000 + o; omega
  size := .inr (.inr (.inl rfl))
  aligned := by show (0x14_0048_0000 + o) % 4 = 0; omega
  place := placeOf_integrity ho
  dom := domOf_integrity ho
  isOpen := hopen
  plain := rfl
  right := rfl
  wakeless := rfl

/-- Where the write pulses nothing, REGISTER_WRITE is the write of the block. -/
theorem exec_tapWrite_integrity {s : State} (hopen : blockOpen s 149 false) (hheld : s.held = []) {a : Addr} {o : Nat}
    (ha : a.toNat = 0x14_0048_0000 + o) (ho : o < 0x4_0000) (hal : o % 4 = 0)
    (hp : ∀ f ∈ fieldsInWrite .integrity o 4, f.1.acc ≠ .w1p) (v : BitVec 32) :
    exec (.registerWrite .tap a .b4 (v.setWidth 64)) s = .next (regWrite s .integrity 0 o 4 v.toNat .tap) := by
  have hd := hopen.1
  have hv : (v.setWidth 64).toNat % 256 ^ Size.b4.bytes = v.toNat := by
    have := v.isLt
    simp only [BitVec.toNat_setWidth, Size.bytes]
    omega
  have hframe := regWrite_integrity_frame hp s 0 v.toNat .tap
  have hbus := (integrity_access hopen ho hal (some v.toNat)).busOp_write rfl
  rw [exec_registerWrite hd rfl, hv, ha]
  have hacc : access s ⟨.tap, 0x14_0048_0000 + o, 4, some v.toNat, .none⟩ = regWrite s .integrity 0 o 4 v.toNat .tap := by
    rw [access_answered (r := .done) hbus (by rw [hframe]) (by simp), hframe]
    rfl
  show Host.Outcome.next (replay (access s ⟨.tap, 0x14_0048_0000 + o, 4, some v.toNat, .none⟩)) = _
  rw [hacc, replay_of_none_held (by rw [hframe]; exact hheld)]

/-- Whoever has a way to the address: the write completes; a kid without SUP is refused; a reserved range takes nothing. -/
theorem registerWrite_completes (ag : Agent) (a : Addr) (sz : Size) (v : BitVec 64) (s : State) (hd : s.pow.deep = false)
    (hway : wayOf s ag a.toNat ≠ none) :
    ∃ t, exec (.registerWrite ag a sz v) s = .next t ∧
      (kidRefused s ag a.toNat = true → t = { s with reply := .refused }) ∧
      (kidRefused s ag a.toNat = false → s.held = [] → placeOf a.toNat = .hole → t.mem = s.mem ∧ t.kids = s.kids ∧
        (t.reply = .reserved ∨ t.reply = .refused ∨ t.reply = .done)) := by
  obtain ⟨ret, hret⟩ := Option.ne_none_iff_exists'.1 hway
  refine ⟨_, exec_registerWrite hd hret sz v, fun hk => by simp [busWrite, hk], fun hk hheld hp => ?_⟩
  obtain ⟨hmem, hkids, hheld', hreply⟩ := access_write_hole (s := s)
    (q := ⟨ag, a.toNat, sz.bytes, some (v.toNat % 256 ^ sz.bytes), ret⟩) (wayOf_ret hret) rfl hp
  simp only [busWrite, hk, Bool.false_eq_true, if_false]
  rw [replay_of_none_held (hheld'.trans hheld)]
  exact ⟨hmem, hkids, hreply⟩

theorem registerWrites : Claims.RegisterWrites := by
  refine ⟨registerWrite_completes, fun s v hopen hheld => ⟨?_, ?_, ?_⟩⟩
  · have hp : ∀ f ∈ fieldsInWrite .integrity 4 4, f.1.acc ≠ .w1p := by rw [fieldsInWrite_mictrl]; decide
    obtain ⟨hthr, hrsvw⟩ := rd_regWrite_mictrl v.isLt s .tap
    refine ⟨_, exec_tapWrite_integrity hopen hheld rfl (by decide) rfl hp v, ?_, hthr, hrsvw⟩
    rw [regWrite_integrity_frame hp]
  · have hp : ∀ f ∈ fieldsInWrite .integrity 8 4, f.1.acc ≠ .w1p := by rw [fieldsInWrite_cecount]; decide
    refine ⟨_, exec_tapWrite_integrity hopen hheld rfl (by decide) rfl hp v, ?_⟩
    rw [regWrite_cecount]
    exact ⟨rfl, rfl, rfl⟩
  · have hp : ∀ f ∈ fieldsInWrite .integrity 0 4, f.1.acc ≠ .w1p := by rw [fieldsInWrite_mifault]; decide
    refine ⟨_, exec_tapWrite_integrity hopen hheld (o := 0) rfl (by decide) rfl hp v, fun h => ?_⟩
    exact ⟨rdb_regWrite_mifault h (by decide) s .tap, rdb_regWrite_mifault h (by decide) s .tap,
      rdb_regWrite_mifault h (by decide) s .tap, rdb_regWrite_mifault h (by decide) s .tap⟩

/-! ### The host's pins and BARs -/

theorem naturalSize_of_mem {n : BitVec 13} (h : n ∈ [1#13, 2#13, 4#13, 8#13]) : naturalSize n.toNat := by
  unfold naturalSize
  simp only [List.mem_cons, List.not_mem_nil, or_false] at h
  rcases h with rfl | rfl | rfl | rfl <;> decide

theorem naturalSize_of_length {n : Nat} (h : n ∈ [1, 2, 4, 8]) : naturalSize n := by
  simpa [naturalSize] using h

/-- A BAR read that is due, where nothing waits at a boundary when it ends. -/
theorem execBarRead_due {s : State} {bar2 : Bool} {off : BitVec 32} {n : BitVec 13} (h : barDue s bar2 off.toNat n.toNat = true)
    (hheld : (barRead s bar2 off.toNat n.toNat).held = []) :
    exec (.barRead bar2 off n) s = .next (barRead s bar2 off.toNat n.toNat) :=
  (due_true h).trans (by rw [replay_of_none_held hheld])

theorem execBarWrite_due {s : State} {bar2 : Bool} {off : BitVec 32} {data : List Byte}
    (h : barDue s bar2 off.toNat data.length = true) (hheld : (barWrite s bar2 off.toNat data).held = []) :
    exec (.barWrite bar2 off data) s = .next (barWrite s bar2 off.toNat data) :=
  (due_true h).trans (by rw [replay_of_none_held hheld])

/-- HOSTRING at an open block (R367). -/
theorem hostring_acts {s : State} (hopen : blockOpen s 147 false) (v : BitVec 6) :
    (v.toNat < 4 → ∃ t, exec (.hostring v) s = .next t ∧ rd t hb_HFAULT_RSVV = 1 ∧ t.mem = s.mem) ∧
    (4 ≤ v.toNat → pcieUp s = false → exec (.hostring v) s = .next { s with reply := .done }) ∧
    (4 ≤ v.toNat → pcieUp s = true → rd s hb_MSIXMASK 0 v.toNat ≠ 1 →
      exec (.hostring v) s = .next { s with host := { s.host with msgs := s.host.msgs ++ [v.toNat] }, reply := .done }) ∧
    (4 ≤ v.toNat → pcieUp s = true → rd s hb_MSIXMASK 0 v.toNat = 1 → ∃ t, exec (.hostring v) s = .next t ∧
      rd t hb_MSIXPBA 0 v.toNat = 1 ∧ t.host = s.host) := by
  rw [execHostring_open hopen]
  refine ⟨fun hv => ⟨_, rfl, ?_, ?_⟩, fun hv hdown => ?_, fun hv hup hm => ?_, fun hv hup hm => ⟨_, rfl, ?_, ?_⟩⟩
  · rw [hostRing_reserved hv]
    exact rd_hfault_same (by decide) rfl s
  · rw [hostRing_reserved hv]
    exact hfault_mem s _
  · rw [hostRing_vector hv, msix_down hdown]
  · rw [hostRing_vector hv, msix_unmasked hup hm]
  · rw [hostRing_vector hv, msix_masked hup hm]
    exact rd_wr_same s hb_MSIXPBA 0 1 v.toNat
  · rw [hostRing_vector hv, msix_masked hup hm]
    rfl

/-- HRDTO once the oldest read is old enough (R366). -/
theorem hrdto_expires {s : State} {r : HostRead} {rest : List HostRead} (h : s.host.reads = r :: rest) (hage : hrdtoPeriods s ≤ r.age) :
    ∃ t, exec .hrdto s = .next t ∧ t.reply = .ca ∧ t.host.reads = rest ∧ t.host.aerCa = true ∧
      rd t hb_HTOCNT = (rd s hb_HTOCNT + 1) % 2 ^ 32 ∧ rd t hb_HERRCNT = (rd s hb_HERRCNT + 1) % 2 ^ 32 ∧
      rd t hb_HERRLAST = (r.off + 2 ^ 63 * b2n r.bar2) % 2 ^ 64 := by
  obtain ⟨hreads, haer⟩ := hrdtoOp_host h
  exact ⟨hrdtoOp s r, (execHrdto_cons h).trans (due_true (decide_eq_true hage)), rfl, hreads, haer, rd_hrdtoOp_timeouts s r,
    rd_hrdtoOp_errors s r, rd_hostErr_last _ _⟩

/-- Accesses through BAR0 (R364). -/
theorem bar0_accesses {s : State} (hup : pcieUp s = true) (hheld : s.held = []) (hd : s.pow.deep = false)
    (hopen : blockOpen s 147 false) :
    (∀ (off : BitVec 32) (n : BitVec 13), n ∈ [1#13, 2#13, 4#13, 8#13] → off.toNat < 0x1_0000 → off.toNat % n.toNat = 0 →
      ∃ t, exec (.barRead false off n) s = .next t ∧ t.reply = .data (regRead s .hostBoot 0 off.toNat n.toNat) ∧ t.regs = s.regs ∧
        t.mem = s.mem ∧ t.host.reads = s.host.reads) ∧
    ∀ v : BitVec 32, v.toNat < 2 ^ 29 → ∃ t, exec (.barWrite false 8 (bytesLE 4 v.toNat)) s = .next t ∧ t.reply = .done ∧
      rd t hb_HIMGLEN = v.toNat ∧ t.mem = s.mem := by
  have hhere (off : Nat) : ∀ node a, barTo s false off ≠ .there node a := fun _ _ => by simp [barTo_bar0]
  refine ⟨fun off n hn ho hal => ?_, fun v hv => ?_⟩
  · obtain ⟨hreply, hregs, hmem, hheld', hreads⟩ := barRead_hostBoot hopen (naturalSize_of_mem hn) ho hal
    exact ⟨_, execBarRead_due (barDue_up hup hd (hhere _) _) (hheld'.trans hheld), hreply, hregs, hmem, hreads⟩
  · obtain ⟨hreply, himg, hmem, hheld'⟩ := barWrite_himglen hopen hv
    exact ⟨_, execBarWrite_due (off := 8) (barDue_up hup hd (hhere _) _) (hheld'.trans hheld), hreply, himg, hmem⟩

/-- Accesses through a BAR2 aperture that is not valid (R363, R365). -/
theorem bar2_invalid_accesses {s : State} (hup : pcieUp s = true) (hheld : s.held = []) (hd : s.pow.deep = false) {off : BitVec 32}
    (h : rd s hb_APVALID 0 (off.toNat / 2 ^ 28) ≠ 1) :
    (∀ n ∈ [1#13, 2#13, 4#13, 8#13], ∃ t, exec (.barRead true off n) s = .next t ∧ t.reply = .ur ∧ rd t hb_HFAULT_APINV = 1 ∧
      rd t hb_HERRCNT = (rd s hb_HERRCNT + 1) % 2 ^ 32 ∧ t.host.aerUr = true ∧ t.host.reads = s.host.reads ∧ t.mem = s.mem) ∧
    ∀ data : List Byte, data.length ∈ [1, 2, 4, 8] → ∃ t, exec (.barWrite true off data) s = .next t ∧ t.reply = .done ∧
      rd t hb_HFAULT_APINV = 1 ∧ rd t hb_HERRCNT = (rd s hb_HERRCNT + 1) % 2 ^ 32 ∧ t.mem = s.mem := by
  have hto : ∀ node a, barTo s true off.toNat ≠ .there node a := fun _ _ => by simp [barTo_invalid h]
  refine ⟨fun n hn => ?_, fun data hdata => ?_⟩
  · obtain ⟨hreply, hreads, haer, hfault, hcount, hmem, hheld'⟩ := barRead_invalid (naturalSize_of_mem hn) h
    exact ⟨_, execBarRead_due (barDue_up hup hd hto _) (hheld'.trans hheld), hreply, hfault, hcount, haer, hreads, hmem⟩
  · obtain ⟨hreply, hfault, hcount, hmem, hheld'⟩ := barWrite_invalid (naturalSize_of_length hdata) h
    exact ⟨_, execBarWrite_due (barDue_up hup hd hto _) (hheld'.trans hheld), hreply, hfault, hcount, hmem⟩

theorem hostAndPins : Claims.HostAndPins := by
  refine fun s => ⟨hostring_acts, ?_, fun hd => ?_, fun hd hh hp => ?_, fun hp hc hb hd => ?_, fun r rest h hage => ?_,
    fun r rest h hage => hrdto_expires h hage,
    fun hup hheld hd => ⟨bar0_accesses hup hheld hd, fun off h => bar2_invalid_accesses hup hheld hd h⟩⟩
  · refine ⟨_, congrArg Host.Outcome.next (perstOp_low s), rfl, rfl, fun v => ?_⟩
    exact ⟨rd_pcieReset rfl (by decide) _ 0 v, rd_pcieReset rfl (by decide) _ 0 v, rd_pcieReset rfl (by decide) _ 0 v,
      rd_pcieReset rfl (by decide) _ 0 v⟩
  · exact ⟨_, rfl, perstOp_high hd, since_perstOp_high hd⟩
  · exact ⟨_, congrArg Host.Outcome.next (perstOp_deep hd hh hp), rd_deepWake_lastrst _, rd_deepWake_phase _, rfl, rfl⟩
  · rw [execPcieConfigReady_eq hp hc hb hd]
    exact ⟨fun h => due_true (decide_eq_true h), fun h => due_false (decide_eq_false (Nat.not_le.2 h))⟩
  · rw [execHrdto_cons h]
    exact due_false (decide_eq_false (Nat.not_le.2 hage))

end Sys2Proof.Machine

/-- Settles O60: the host's part by the rules of its pins and BAR requests, the register writes by the rules of the bus and of the
memory-integrity block. -/
theorem hostAndRegisterAccesses : Obligations.HostAndRegisterAccesses :=
  ⟨Sys2Proof.Machine.hostAndPins, Sys2Proof.Machine.registerWrites⟩
end

section
/-!
PROOFS. O52: a QRET that leaves the front store of its producer short of storage.
-/

namespace Sys2Proof.Machine

/-- The store that waits: the 4 bytes of a header of LEN 12, whose clause takes 16 bytes of storage; it has found PFREE too small. -/
def shortStore : PushReq := ⟨.kid 0, 4, 12, .kid 0, true⟩

/-- A QRET of 8 bytes from endpoint 0's peer node 9 to this node, which is node 0. -/
def qretOf8 : Msg := ⟨header 6 4 false 63 0 9 0 0 0 0, bytesLE 4 8⟩

/-- Endpoint 0 is a producer whose peer is node 9. Its front store waits for 16 bytes of storage, its demand has gone, and a QRET of
8 bytes has come over link 0. -/
def qretTooSmall : State :=
  setLink (setProd (wr (wr State.reset qx_ROLE 0 1) qx_PEERNODE 0 9) 0 { waitq := [shortStore] }) 0 { rspMsgs := [qretOf8] }

/-- QRET gives the producer its 8 bytes, and the front store, which still finds PFREE too small, asks the consumer once more (R202). -/
theorem qretTooSmall_asks :
    ∃ t, exec (.qret (some 0)) qretTooSmall = .next t ∧ (prodOf t 0).pfree = 8 ∧ (prodOf t 0).asked = true :=
  ⟨_, rfl, by decide⟩

end Sys2Proof.Machine

open Sys2Proof Sys2Proof.Machine in
/-- Refutes O52: its clause for QRET has nothing but PFREE change at the producer, for every list of stores that wait there. Where the
front one still finds PFREE too small, a demand goes to the consumer again (R202), which the record of the producer notes: `asked`. -/
theorem not_linkMessages : ¬ Obligations.LinkMessages := by
  rintro ⟨-, -, -, -, -, -, -, -, -, -, hqret, -⟩
  obtain ⟨t, ht, hprod, -⟩ := hqret (some 0) qretTooSmall qretOf8 0 (by decide) (by decide) (by decide) (by decide) (by decide)
    (by decide) (by decide) (by decide)
  obtain ⟨u, hu, -, hasked⟩ := qretTooSmall_asks
  have hut : u = t := Host.Outcome.next.inj (hu.symm.trans ht)
  have hquiet : (prodOf t 0).asked = false := congrArg Prod.asked hprod
  rw [← hut, hasked] at hquiet
  contradiction
end

section
/-!
PROOFS. O18: what the state after reset holds. Its registers read as their Reset columns, and of its parts nothing is listed.
-/

namespace Sys2Proof.Machine

/-- After reset a register reads as its Reset column. -/
theorem rd_reset (F : Fld) (n i : Nat) : rd State.reset F n i = F.reset i := rfl

/-- The Reset column of a field that has one value for all its elements. -/
theorem Fld.reset_of_uniform {F : Fld} (h : F.rstAt = []) (i : Nat) : F.reset i = F.rst := by simp [Fld.reset, h]

theorem rd_reset_of_uniform {F : Fld} (h : F.rstAt = []) (n i : Nat) : rd State.reset F n i = F.rst :=
  (rd_reset F n i).trans (Fld.reset_of_uniform h i)

theorem memOk_reset : State.reset.memOk := rfl

/-! After reset a part is as its structure leaves it. -/

theorem kidOf_reset (k : Nat) : kidOf State.reset k = {} := rfl
theorem fawnOf_reset (f : Nat) : fawnOf State.reset f = {} := rfl
theorem prodOf_reset (e : Nat) : prodOf State.reset e = {} := rfl
theorem consOf_reset (e : Nat) : consOf State.reset e = {} := rfl

/-- A kid after reset: in KID reset, at word 0 with its registers zero, and with DET and DBE clear. -/
theorem kid_reset (k : KidId) :
    kstate State.reset k = 3 ∧ Claims.kregs State.reset k = Vector.replicate 16 0 ∧ (kidOf State.reset k).pc = 0 ∧
      rd State.reset kd_KMODE_DET k = 0 ∧ rd State.reset kd_KMODE_DBE k = 0 := by
  refine ⟨rd_reset_of_uniform rfl k 0, ?_, ?_, rd_reset_of_uniform rfl k 0, rd_reset_of_uniform rfl k 0⟩
  · rw [Claims.kregs, kidOf_reset]
  · rw [kidOf_reset]

/-- An endpoint after reset: no role, no clause and no header. -/
theorem endpoint_reset (e : EpId) :
    role State.reset e = 0 ∧ (consOf State.reset e).cls = [] ∧ (prodOf State.reset e).cls = [] ∧ (prodOf State.reset e).hdr = [] := by
  rw [consOf_reset, prodOf_reset]
  exact ⟨rd_reset_of_uniform rfl e 0, rfl, rfl, rfl⟩

end Sys2Proof.Machine

open Sys2Proof Sys2Proof.Machine in
/-- Settles O18: the registers by their Reset columns, the kids, fawns and endpoints by what an unlisted part is. -/
theorem resetState : Obligations.ResetState :=
  ⟨memOk_reset, rfl, rd_reset_of_uniform rfl 0 0, rd_reset_of_uniform rfl 0 0, rd_reset_of_uniform rfl 0 0, rd_reset_of_uniform rfl 0 0,
    kid_reset, fun n => by rw [fawnOf_reset], endpoint_reset,
    fun h i => ⟨rd_reset_of_uniform rfl h i, rd_reset_of_uniform rfl h i⟩, fun l => rd_reset_of_uniform rfl l 0⟩
end

section
/-!
PROOFS. O53: the boot phase and its code, and BOOTCTL.GO with an image larger than the staging region.
-/

namespace Sys2Proof.Machine

/-! ### BOOTSTAT.PHASE and BOOTSTAT.CODE (R367, R371) -/

/-- The entry into a boot phase shows it. -/
theorem rd_setPhase_phase {p : Nat} (hp : p < 16) (s : State) : rd (setPhase s p) hb_BOOTSTAT_PHASE = p := by
  unfold setPhase
  split
  · next h => exact h
  · rw [rd_msix (by decide), rd_wr_same]
    exact Nat.mod_eq_of_lt hp

/-- The entry into a boot phase leaves BOOTSTAT.CODE. -/
theorem rd_setPhase_code (s : State) (p : Nat) : rd (setPhase s p) hb_BOOTSTAT_CODE = rd s hb_BOOTSTAT_CODE := by
  unfold setPhase
  split
  · rfl
  · rw [rd_msix (by decide), rd_wr_other _ _ (by decide)]

/-- A code that is written shows. -/
theorem rd_setCode_code {c : Nat} (hc : c < 256) (s : State) : rd (setCode s c) hb_BOOTSTAT_CODE = c := by
  unfold setCode
  split
  · next h => exact h
  · rw [rd_msix (by decide), rd_wr_same]
    exact Nat.mod_eq_of_lt hc

/-- The end of a device-wide reset changes no register but LASTRSTT. -/
theorem rd_endReset_other {F : Fld} {n i : Nat} (h : F.key n i ≠ rs_LASTRSTT.key 0 0) (s : State) :
    rd (endReset s) F n i = rd s F n i := by
  unfold endReset
  split
  · exact rd_wr_other s _ h
  · rfl

/-- A boot that fails is in FAILED with its code. -/
theorem rd_bootFail {c : Nat} (hc : c < 256) (s : State) :
    rd (bootFail s c) hb_BOOTSTAT_PHASE = 8 ∧ rd (bootFail s c) hb_BOOTSTAT_CODE = c := by
  unfold bootFail
  rw [rd_endReset_other (by decide), rd_endReset_other (by decide), rd_setPhase_code]
  exact ⟨rd_setPhase_phase (by decide) _, rd_setCode_code hc _⟩

/-! ### BOOTCTL.GO (R371 to R373) -/

/-- BOOTCTL.GO at an open block. -/
theorem execBootctlGo_open {s : State} (h : blockOpen s 147 false) : exec .bootctlGo s = .next { goOp s with reply := .done } :=
  atBlock_open (act := goOp) h

/-- BOOTCTL.GO, where it is accepted, ends the boot with code 0x14 where HIMGLEN is above 256 MiB (R371, R373). -/
theorem goOp_image_too_long {s : State}
    (hready : (rd s hb_BOOTSTAT_PHASE = 4 ∧ s.host.hostBoot = true) ∨ (rd s hb_BOOTSTAT_PHASE = 8 ∧ rd s hb_BOOTSTAT_SEL ≠ 3))
    (hlen : 2 ^ 28 < rd s hb_HIMGLEN) :
    rd (goOp s) hb_BOOTSTAT_PHASE = 8 ∧ rd (goOp s) hb_BOOTSTAT_CODE = 0x14 := by
  have hkept (h : HostSt) : rd (wr { s with host := h } hb_BOOTSTAT_SRC 0 1) hb_HIMGLEN = rd s hb_HIMGLEN :=
    rd_wr_other _ _ (by decide)
  rw [goOp, if_pos hready]
  dsimp only
  rw [hkept, if_pos (.inr hlen)]
  exact rd_bootFail (by decide) _

/-- A host boot in FETCH for which the host has written a HIMGLEN of 256 MiB and one byte, which the 29 bits of HIMGLEN hold. -/
def imageTooLong : State :=
  wr (wr { State.reset with host := { State.reset.host with hostBoot := true } } hb_BOOTSTAT_PHASE 0 4) hb_HIMGLEN 0 (2 ^ 28 + 1)

theorem imageTooLong_ready : rd imageTooLong hb_BOOTSTAT_PHASE = 4 ∧ imageTooLong.host.hostBoot = true := by decide

theorem imageTooLong_himglen : rd imageTooLong hb_HIMGLEN = 2 ^ 28 + 1 := by decide

theorem imageTooLong_open : blockOpen imageTooLong 147 false := by unfold blockOpen; decide

end Sys2Proof.Machine

open Sys2Proof Sys2Proof.Machine in
/-- Refutes O53: its clause for BOOTCTL.GO has every HIMGLEN but 0 enter VERIFY. An image above the 256 MiB of the staging region ends
the boot in FAILED with code 0x14 instead (R371, R373), as the model has it. -/
theorem not_resetsAndBootPhases : ¬ Obligations.ResetsAndBootPhases := by
  rintro ⟨-, hboot⟩
  obtain ⟨-, -, hgo, -⟩ := hboot imageTooLong (by decide)
  obtain ⟨t, ht, -, -, hverify, -⟩ := hgo imageTooLong_open
  have htgo : { goOp imageTooLong with reply := .done } = t :=
    Host.Outcome.next.inj ((execBootctlGo_open imageTooLong_open).symm.trans ht)
  have hphase5 : rd t hb_BOOTSTAT_PHASE = 5 :=
    (hverify (.inl imageTooLong_ready) (by rw [imageTooLong_himglen]; decide)).1
  have hphase8 : rd (goOp imageTooLong) hb_BOOTSTAT_PHASE = 8 :=
    (goOp_image_too_long (.inl imageTooLong_ready) (by rw [imageTooLong_himglen]; decide)).1
  have hreply : rd t hb_BOOTSTAT_PHASE = rd (goOp imageTooLong) hb_BOOTSTAT_PHASE := by rw [← htgo]; rfl
  rw [hreply, hphase8] at hphase5
  contradiction
end

section
/-!
PROOFS. O25: what a read of the line's words leaves, and the words it gives (R121, R158, R167).
-/

namespace Sys2Proof.Machine

/-! ### What reads of memory change -/

/-- From s to t only what reads of memory change: counts, the repeat tables, the log and its times, and the doorbells that report. -/
def readFrame (s t : State) : Prop :=
  t = { s with regs := t.regs, rpts := t.rpts, milog := t.milog, hdcs := t.hdcs, clk := t.clk, fresh := t.fresh }

theorem readFrame.refl (s : State) : readFrame s s := rfl

theorem readFrame.trans {s t u : State} (h : readFrame s t) (h' : readFrame t u) : readFrame s u :=
  Eq.trans h' (by rw [h])

theorem readFrame.ite {s t u : State} {c : Prop} [Decidable c] (ht : readFrame s t) (hu : readFrame s u) :
    readFrame s (if c then t else u) := by
  split
  · exact ht
  · exact hu

theorem kidOf_congr {s t : State} (h : t.kids = s.kids) (k : Nat) : kidOf t k = kidOf s k := by simp only [kidOf, h]
theorem icacheOf_congr {s t : State} (h : t.icaches = s.icaches) (g : Nat) : icacheOf t g = icacheOf s g := by
  simp only [icacheOf, h]

theorem readFrame.mem {s t : State} (h : readFrame s t) : t.mem = s.mem := by rw [h]
theorem readFrame.words {s t : State} (h : readFrame s t) : t.words = s.words := by rw [h]
theorem readFrame.merges {s t : State} (h : readFrame s t) : t.merges = s.merges := by rw [h]
theorem readFrame.kidOf {s t : State} (h : readFrame s t) (k : Nat) : kidOf t k = kidOf s k := kidOf_congr (by rw [h]) k
theorem readFrame.icacheOf {s t : State} (h : readFrame s t) (g : Nat) : icacheOf t g = icacheOf s g := icacheOf_congr (by rw [h]) g

theorem incr_readFrame (s : State) (F : Fld) (n i : Nat) : readFrame s (incr s F n i) := rfl
theorem setRpt_readFrame (s : State) (bank : Nat) (t : List RptEnt) : readFrame s (setRpt s bank t) := rfl

theorem logWrite_readFrame (s : State) (kind : Nat) (rq : Rq) (w : Loc) (synd : Nat) :
    readFrame s (logWrite s kind rq w synd) :=
  Eq.trans (logWrite_frame s kind rq w synd) (by rw [logWrite_frame])

theorem raiseBank_readFrame (s : State) (bank src : Nat) : readFrame s (raiseBank s bank src) :=
  Eq.trans (raiseBank_frame s bank src) (by rw [raiseBank_frame])

/-- An entry of the log and the doorbell that reports it. -/
theorem report_readFrame {s t : State} (h : readFrame s t) (kind : Nat) (rq : Rq) (w : Loc) (synd bank src : Nat) :
    readFrame s (raiseBank (logWrite t kind rq w synd) bank src) :=
  h.trans ((logWrite_readFrame t kind rq w synd).trans (raiseBank_readFrame _ bank src))

theorem rptCount_readFrame (s : State) (w : Loc) (rq : Rq) : readFrame s (rptCount s w rq) := by
  unfold rptCount
  exact readFrame.ite (report_readFrame (setRpt_readFrame ..) ..) (setRpt_readFrame ..)

theorem countSynd_readFrame (s : State) (w : Loc) (synd : Nat) (d : Dec) (rq : Rq) (table : Bool) :
    readFrame s (countSynd s w synd d rq table) := by
  have hcorrectable : readFrame s (if table then rptCount (incr s mi_CECOUNT) w rq else incr s mi_CECOUNT) :=
    .ite ((incr_readFrame ..).trans (rptCount_readFrame ..)) (incr_readFrame ..)
  have hue : readFrame s (incr s mi_UECOUNT) := incr_readFrame ..
  cases d with
  | clean => exact readFrame.refl s
  | unwritten => exact readFrame.refl s
  | check => exact hcorrectable
  | data i => exact hcorrectable
  | uncorr => exact report_readFrame hue ..
  | valid => exact report_readFrame hue ..
  | addr i => exact report_readFrame (hue.trans (incr_readFrame ..)) ..

theorem readWord_readFrame (s : State) (w : Loc) (rq : Rq) : readFrame s (readWord s w rq).2 := countSynd_readFrame ..

/-- What a word reads as depends on memory, its check state and the bytes gathered for it. -/
theorem readWord_value_congr {s t : State} (hm : t.mem = s.mem) (hw : t.words = s.words) (hg : t.merges = s.merges) (w : Loc)
    (rq : Rq) : (readWord t w rq).1 = (readWord s w rq).1 := by
  simp only [readWord, decodeAt, metaOf, rawData, overlay, hm, hw, hg]

/-! ### The words of a line -/

variable (s : State) (h line : Nat)

theorem lineRead_succ_some {k : Nat} {w : Loc} (hw : locOf (storeAddr h (line * 8) + k * 4) = some w) :
    lineRead s h line (k + 1) =
      ((lineRead s h line k).1 ++ [(readWord (lineRead s h line k).2 w ⟨8, h⟩).1], (readWord (lineRead s h line k).2 w ⟨8, h⟩).2) := by
  rw [lineRead]
  generalize lineRead s h line k = r
  generalize locOf _ = o at hw ⊢
  subst hw
  rfl

theorem lineRead_succ_none {k : Nat} (hw : locOf (storeAddr h (line * 8) + k * 4) = none) :
    lineRead s h line (k + 1) = ((lineRead s h line k).1 ++ [none], (lineRead s h line k).2) := by
  rw [lineRead]
  generalize lineRead s h line k = r
  generalize locOf _ = o at hw ⊢
  subst hw
  rfl

theorem lineRead_readFrame (k : Nat) : readFrame s (lineRead s h line k).2 := by
  induction k with
  | zero => exact readFrame.refl s
  | succ k ih =>
    cases hw : locOf (storeAddr h (line * 8) + k * 4) with
    | none => rw [lineRead_succ_none s h line hw]; exact ih
    | some w => rw [lineRead_succ_some s h line hw]; exact ih.trans (readWord_readFrame ..)

/-- The k-th word of a line as the store holds it. -/
def storeRead (k : Nat) : Option (List Byte) :=
  (locOf (storeAddr h (line * 8) + k * 4)).bind fun w => (readWord s w ⟨8, h⟩).1

/-- No word of the line is read otherwise for the reads before it. -/
theorem lineRead_words (k : Nat) : (lineRead s h line k).1 = (List.range k).map (storeRead s h line) := by
  induction k with
  | zero => rfl
  | succ k ih =>
    have hframe := lineRead_readFrame s h line k
    rw [List.range_succ, List.map_append, ← ih]
    cases hw : locOf (storeAddr h (line * 8) + k * 4) with
    | none => simp [lineRead_succ_none s h line hw, storeRead, hw]
    | some w =>
      simp [lineRead_succ_some s h line hw, storeRead, hw, readWord_value_congr hframe.mem hframe.words hframe.merges]

/-- The words of a line do not depend on the caches. -/
theorem lineRead_words_setIcache (g : Nat) (c : ICache) (k : Nat) :
    (lineRead (setIcache s g c) h line k).1 = (lineRead s h line k).1 := by
  have hread : storeRead (setIcache s g c) h line = storeRead s h line := funext fun i => by
    simp only [storeRead, readWord_value_congr (setIcache_mem s g c) (setIcache_words s g c) (setIcache_merges s g c)]
  rw [lineRead_words, lineRead_words, hread]

end Sys2Proof.Machine
end

section
/-!
PROOFS. O25: lines that are dropped and installed, fills that are spoiled (R121 to R125).
-/

namespace Sys2Proof.Machine

/-- From s to t only the cache of herd h has changed, with the check state of its copies and a flip-mask that acts on one. -/
def cacheFrame (h : Nat) (s t : State) : Prop :=
  t = { s with words := t.words, flip := t.flip, icaches := t.icaches } ∧ ∀ g, g ≠ h → icacheOf t g = icacheOf s g

section
variable {h : Nat}

theorem cacheFrame.refl (s : State) : cacheFrame h s s := ⟨rfl, fun _ _ => rfl⟩

theorem cacheFrame.trans {s t u : State} (hst : cacheFrame h s t) (htu : cacheFrame h t u) : cacheFrame h s u :=
  ⟨htu.1.trans (by rw [hst.1]), fun g hg => (htu.2 g hg).trans (hst.2 g hg)⟩

theorem cacheFrame.regs {s t : State} (hst : cacheFrame h s t) : t.regs = s.regs := by rw [hst.1]
theorem cacheFrame.mem {s t : State} (hst : cacheFrame h s t) : t.mem = s.mem := by rw [hst.1]
theorem cacheFrame.kidOf {s t : State} (hst : cacheFrame h s t) (k : Nat) : kidOf t k = kidOf s k :=
  kidOf_congr (by rw [hst.1]) k

theorem setIcache_cacheFrame (s : State) (c : ICache) : cacheFrame h s (setIcache s h c) :=
  ⟨rfl, fun _ hg => icacheOf_setIcache_other s c hg⟩

end

/-! ### Lines dropped and fills spoiled -/

variable (s : State) (h : Nat)

theorem icacheOf_dropLine (line : Nat) :
    icacheOf (dropLine s h line) h = { icacheOf s h with lines := (icacheOf s h).lines.filter (fun l => l.line != line) } :=
  icacheOf_setIcache s h _

theorem dropLine_cacheFrame (line : Nat) : cacheFrame h s (dropLine s h line) :=
  ⟨rfl, fun _ hg => icacheOf_setIcache_other s _ hg⟩

/-- The lines of a list are dropped. -/
def dropLines (out : List ICLine) : State := out.foldl (fun s l => dropLine s h l.line) s

theorem dropLines_cacheFrame (out : List ICLine) : cacheFrame h s (dropLines s h out) :=
  List.foldlRecOn (motive := cacheFrame h s) out _ (cacheFrame.refl s) fun t hst l _ => hst.trans (dropLine_cacheFrame t h l.line)

theorem icacheOf_dropLines (out : List ICLine) :
    icacheOf (dropLines s h out) h =
      { icacheOf s h with lines := (icacheOf s h).lines.filter (fun l => out.all (fun o => l.line != o.line)) } := by
  induction out generalizing s with
  | nil => exact congrArg (fun x => { icacheOf s h with lines := x }) (List.filter_eq_self.2 fun _ _ => rfl).symm
  | cons o out ih =>
    have hcons : dropLines s h (o :: out) = dropLines (dropLine s h o.line) h out := rfl
    rw [hcons, ih, icacheOf_dropLine]
    simp only [List.filter_filter, List.all_cons, Bool.and_comm]

theorem icacheOf_spoilFill (line : Nat) :
    icacheOf (spoilFill s h line) h =
      { icacheOf s h with fills := (icacheOf s h).fills.map (fun f => if f.1 = line then (f.1, false) else f) } :=
  icacheOf_setIcache s h _

/-! ### A line installed -/

theorem copyCheck_frame (fold : Nat) : copyCheck s h fold = { s with words := (copyCheck s h fold).words } := by
  unfold copyCheck
  split
  · split <;> rfl
  · rfl

theorem copyFlip_frame (fold : Nat) :
    copyFlip s h fold = { s with words := (copyFlip s h fold).words, flip := (copyFlip s h fold).flip } := by
  unfold copyFlip
  split
  · split <;> rfl
  · rfl

/-- The copies of a line are written. -/
def copyLine (line : Nat) : State :=
  (List.range 4).foldl (fun s k => copyFlip (copyCheck s h (lineFold line k)) h (lineFold line k)) s

theorem copyLine_frame (line : Nat) : copyLine s h line = { s with words := (copyLine s h line).words, flip := (copyLine s h line).flip } :=
  List.foldlRecOn (motive := fun t : State => t = { s with words := t.words, flip := t.flip }) (List.range 4) _ rfl fun t ht k _ => by
    rw [copyFlip_frame, copyCheck_frame, ht]

theorem icacheOf_copyLine (line g : Nat) : icacheOf (copyLine s h line) g = icacheOf s g :=
  icacheOf_congr (by rw [copyLine_frame]) g

theorem copyLine_cacheFrame (line : Nat) : cacheFrame h s (copyLine s h line) :=
  ⟨(copyLine_frame s h line).trans (by rw [copyLine_frame]), fun g _ => icacheOf_copyLine s h line g⟩

/-- A line is installed in place of the lines that had its way: these are dropped, and its copies are written. -/
theorem installLine_eq (line : Nat) : ∃ out way next, installLine s h line =
    copyLine (setIcache (dropLines s h out) h
      { icacheOf (dropLines s h out) h with lines := ⟨way, line⟩ :: (icacheOf (dropLines s h out) h).lines, next := next }) h line :=
  ⟨_, _, _, rfl⟩

theorem installLine_cacheFrame (line : Nat) : cacheFrame h s (installLine s h line) := by
  obtain ⟨out, way, next, heq⟩ := installLine_eq s h line
  rw [heq]
  exact (dropLines_cacheFrame s h out).trans ((setIcache_cacheFrame _ _).trans (copyLine_cacheFrame _ h line))

theorem lineValid_installLine (line : Nat) : lineValid (installLine s h line) h line = true := by
  obtain ⟨out, way, next, heq⟩ := installLine_eq s h line
  simp [lineValid, heq, icacheOf_copyLine]

theorem fills_installLine (line : Nat) : (icacheOf (installLine s h line) h).fills = (icacheOf s h).fills := by
  obtain ⟨out, way, next, heq⟩ := installLine_eq s h line
  simp [heq, icacheOf_copyLine, icacheOf_dropLines]

end Sys2Proof.Machine
end

section
/-!
PROOFS. O25: a line is delivered to the kids that fetch it (R115, R119, R121).
-/

namespace Sys2Proof.Machine

/-! ### The words of an access enter the queue -/

/-- From s to t only kid k has changed, and of it the queue and where fetch goes on. -/
def queueFrame (k : Nat) (s t : State) : Prop :=
  t = { s with kids := t.kids } ∧ (∀ j, j ≠ k → kidOf t j = kidOf s j) ∧
    kidOf t k = { kidOf s k with pq := (kidOf t k).pq, fpc := (kidOf t k).fpc }

theorem enqueue_queueFrame (s : State) (k : Nat) (direct : Bool) (l : List (Word16 × Option PWord)) :
    queueFrame k s (enqueue s k direct l) := by
  induction l generalizing s with
  | nil => exact ⟨rfl, fun _ _ => rfl, rfl⟩
  | cons x l ih =>
    rw [enqueue]
    split
    · obtain ⟨hs, hother, hk⟩ := ih (setKid s k { kidOf s k with
        pq := (kidOf s k).pq ++ [⟨x.1, x.2, direct, followed s k x.1⟩], fpc := (followed s k x.1).getD (x.1 + 1) })
      refine ⟨hs, fun j hj => (hother j hj).trans (kidOf_setKid_other s _ hj), ?_⟩
      rw [kidOf_setKid] at hk
      exact hk
    · exact ⟨rfl, fun _ _ => rfl, rfl⟩

/-! ### One kid -/

variable (s : State) (line : Nat) (l : List (Option (List Byte)))

/-- The words of the line that the access at x takes. -/
def takenWords (l : List (Option (List Byte))) (x : Nat) : List (Word16 × Option PWord) :=
  (accessWords x).map (fun w => (BitVec.ofNat 16 w, lineWord l (w % 8)))

/-- A kid after the access that it waited for: where an instruction waits for the line, it can issue. -/
def Kid.resumed (c : Kid) : Kid := match c.wait with
  | some (.fill _) => { c with fetching := none, wait := none, must := true }
  | _ => { c with fetching := none }

theorem Kid.resumed_fetching (c : Kid) : c.resumed.fetching = none := by
  unfold Kid.resumed
  split <;> rfl

theorem Kid.resumed_of_fill {c : Kid} {y : Nat} (h : c.wait = some (.fill y)) :
    c.resumed = { c with fetching := none, wait := none, must := true } := by
  simp only [Kid.resumed, h]

theorem deliverLine_idle {k : Nat} (h : (kidOf s k).fetching = none) : deliverLine s line l k = s := by
  simp only [deliverLine, h]

theorem deliverLine_elsewhere {k x : Nat} (h : (kidOf s k).fetching = some x) (hx : x / 8 ≠ line) : deliverLine s line l k = s := by
  simp only [deliverLine, h, if_neg hx]

theorem deliverLine_fetching {k x : Nat} (h : (kidOf s k).fetching = some x) (hx : x / 8 = line) :
    deliverLine s line l k = enqueue (setKid s k (kidOf s k).resumed) k false (takenWords l x) := by
  rw [deliverLine, h]
  exact if_pos hx

/-- A delivery to a kid changes nothing but the kid. -/
theorem deliverLine_frame (k : Nat) :
    deliverLine s line l k = { s with kids := (deliverLine s line l k).kids } ∧
      ∀ j, j ≠ k → kidOf (deliverLine s line l k) j = kidOf s j := by
  cases hf : (kidOf s k).fetching with
  | none => rw [deliverLine_idle s line l hf]; exact ⟨rfl, fun _ _ => rfl⟩
  | some x =>
    by_cases hx : x / 8 = line
    · rw [deliverLine_fetching s line l hf hx]
      obtain ⟨hs, hother, -⟩ := enqueue_queueFrame (setKid s k (kidOf s k).resumed) k false (takenWords l x)
      exact ⟨hs, fun j hj => (hother j hj).trans (kidOf_setKid_other s _ hj)⟩
    · rw [deliverLine_elsewhere s line l hf hx]; exact ⟨rfl, fun _ _ => rfl⟩

/-- Kid c, whose access waits for a line, goes on as c': the access has ended, and an instruction that waits for it can issue. -/
def Kid.goesOn (c c' : Kid) : Prop :=
  c'.fetching = none ∧ ∀ y, c.wait = some (.fill y) → c'.wait = none ∧ c'.must = true

theorem deliverLine_goesOn {k x : Nat} (h : (kidOf s k).fetching = some x) (hx : x / 8 = line) :
    (kidOf s k).goesOn (kidOf (deliverLine s line l k) k) := by
  rw [deliverLine_fetching s line l h hx]
  obtain ⟨-, -, hk⟩ := enqueue_queueFrame (setKid s k (kidOf s k).resumed) k false (takenWords l x)
  rw [kidOf_setKid] at hk
  rw [hk]
  exact ⟨Kid.resumed_fetching _, fun y hy => by rw [Kid.resumed_of_fill hy]; exact ⟨rfl, rfl⟩⟩

/-! ### The kids of a herd -/

/-- The line is delivered to kids one after another. -/
def deliverAll (ks : List Nat) : State := ks.foldl (fun s k => deliverLine s line l k) s

theorem deliverAll_frame (ks : List Nat) : deliverAll s line l ks = { s with kids := (deliverAll s line l ks).kids } :=
  List.foldlRecOn (motive := fun t : State => t = { s with kids := t.kids }) ks _ rfl fun t ht k _ => by
    rw [(deliverLine_frame t line l k).1, ht]

theorem mem_deliverAll (ks : List Nat) : (deliverAll s line l ks).mem = s.mem := by rw [deliverAll_frame]
theorem icacheOf_deliverAll (ks : List Nat) (g : Nat) : icacheOf (deliverAll s line l ks) g = icacheOf s g :=
  icacheOf_congr (by rw [deliverAll_frame]) g

/-- A kid without an access of its own takes no delivery. -/
theorem kidOf_deliverAll_idle {k : Nat} (h : (kidOf s k).fetching = none) (ks : List Nat) :
    kidOf (deliverAll s line l ks) k = kidOf s k :=
  List.foldlRecOn (motive := fun t => kidOf t k = kidOf s k) ks _ rfl fun t ht j _ => by
    by_cases hj : k = j
    · subst hj
      rw [deliverLine_idle t line l (by rw [ht, h]), ht]
    · rw [(deliverLine_frame t line l j).2 k hj, ht]

/-- Each of the kids whose access waits for the line goes on. -/
theorem deliverAll_goesOn {k x : Nat} (h : (kidOf s k).fetching = some x) (hx : x / 8 = line) {ks : List Nat} (hk : k ∈ ks) :
    (kidOf s k).goesOn (kidOf (deliverAll s line l ks) k) := by
  induction ks generalizing s with
  | nil => cases hk
  | cons j ks ih =>
    have hcons : deliverAll s line l (j :: ks) = deliverAll (deliverLine s line l j) line l ks := rfl
    rw [hcons]
    by_cases hj : k = j
    · subst hj
      have hgo := deliverLine_goesOn s line l h hx
      rw [kidOf_deliverAll_idle _ line l hgo.1]
      exact hgo
    · have hsame := (deliverLine_frame s line l j).2 k hj
      rw [← hsame]
      exact ih _ (by rw [hsame, h]) ((List.mem_cons.1 hk).resolve_left hj)

theorem mem_herdKids {k h : Nat} (hk : herdOfKid k = h) : k ∈ herdKids h := by
  unfold herdOfKid at hk
  exact List.mem_map.2 ⟨k % 64, List.mem_range.2 (Nat.mod_lt _ (by decide)), by omega⟩

end Sys2Proof.Machine
end

section
/-!
PROOFS. O25: LINE_FILL and the commands of the cache block (R121 to R125).
-/

namespace Sys2Proof.Machine

/-! ### LINE_FILL -/

section
variable (s : State) (h line : Nat)

/-- The fill of the line is no longer in progress. -/
def endFill : State := setIcache s h { icacheOf s h with fills := (icacheOf s h).fills.filter (fun f => f.1 != line) }

/-- The words of the line as the fill reads them, and the state behind these reads. -/
def fillRead : List (Option (List Byte)) × State := lineRead (endFill s h line) h line 4

/-- The fill has ended, its words have been read from the store, and the line is installed where nothing stands against it. -/
def fillEnded (ok : Bool) : State :=
  if ok && (fillRead s h line).1.all Option.isSome then installLine (fillRead s h line).2 h line else (fillRead s h line).2

/-- LINE_FILL delivers the words read to the kids of its herd. -/
theorem lineFillOp_eq (ok : Bool) :
    lineFillOp s h line ok = deliverAll (fillEnded s h line ok) line (fillRead s h line).1 (herdKids h) := by
  -- What the reads give is named at once: it is not to be computed through the map of addresses.
  rw [lineFillOp]
  generalize hr : lineRead _ _ _ _ = r
  obtain ⟨l, t⟩ := r
  have hread : fillRead s h line = (l, t) := hr
  rw [deliverAll, herdKids, List.foldl_map, fillEnded, hread]

/-- The words that the fill reads are those that the store holds, whatever the cache does. -/
theorem fillRead_words : (fillRead s h line).1 = (lineRead s h line 4).1 := by
  rw [fillRead, endFill, lineRead_words_setIcache]

theorem fillRead_readFrame : readFrame (endFill s h line) (fillRead s h line).2 := lineRead_readFrame ..

theorem fillEnded_installed {ok : Bool} (hok : ok = true) (hl : (lineRead s h line 4).1.all Option.isSome = true) :
    fillEnded s h line ok = installLine (fillRead s h line).2 h line := by
  rw [← fillRead_words] at hl
  exact if_pos (by rw [hok, hl]; rfl)

theorem fillEnded_spoiled {ok : Bool} (hok : ok = false) : fillEnded s h line ok = (fillRead s h line).2 := by
  simp [fillEnded, hok]

/-- Whether the line is installed or not, only reads of the store and the cache itself have changed the state. -/
theorem fillEnded_frame (ok : Bool) :
    readFrame (endFill s h line) (fillRead s h line).2 ∧
      cacheFrame h (fillRead s h line).2 (fillEnded s h line ok) ∧
      (icacheOf (fillEnded s h line ok) h).fills = (icacheOf (fillRead s h line).2 h).fills := by
  refine ⟨fillRead_readFrame .., ?_⟩
  unfold fillEnded
  split
  · exact ⟨installLine_cacheFrame .., fills_installLine ..⟩
  · exact ⟨cacheFrame.refl _, rfl⟩

theorem mem_fillEnded (ok : Bool) : (fillEnded s h line ok).mem = s.mem := by
  obtain ⟨hread, hcache, -⟩ := fillEnded_frame s h line ok
  exact hcache.mem.trans hread.mem

theorem kidOf_fillEnded (ok : Bool) (k : Nat) : kidOf (fillEnded s h line ok) k = kidOf s k := by
  obtain ⟨hread, hcache, -⟩ := fillEnded_frame s h line ok
  exact (hcache.kidOf k).trans (hread.kidOf k)

theorem fills_fillEnded (ok : Bool) :
    (icacheOf (fillEnded s h line ok) h).fills = (icacheOf s h).fills.filter (fun f => f.1 != line) := by
  obtain ⟨hread, -, hfills⟩ := fillEnded_frame s h line ok
  rw [hfills, hread.icacheOf, endFill, icacheOf_setIcache]

theorem icacheOf_fillEnded_other (ok : Bool) {g : Nat} (hg : g ≠ h) : icacheOf (fillEnded s h line ok) g = icacheOf s g := by
  obtain ⟨hread, hcache, -⟩ := fillEnded_frame s h line ok
  rw [hcache.2 g hg, hread.icacheOf, endFill, icacheOf_setIcache_other s _ hg]

theorem lines_fillEnded_spoiled {ok : Bool} (hok : ok = false) :
    (icacheOf (fillEnded s h line ok) h).lines = (icacheOf s h).lines := by
  rw [fillEnded_spoiled s h line hok, (fillRead_readFrame ..).icacheOf, endFill, icacheOf_setIcache]

theorem icacheOf_lineFillOp (ok : Bool) (g : Nat) : icacheOf (lineFillOp s h line ok) g = icacheOf (fillEnded s h line ok) g := by
  rw [lineFillOp_eq, icacheOf_deliverAll]

theorem mem_lineFillOp (ok : Bool) : (lineFillOp s h line ok).mem = s.mem := by
  rw [lineFillOp_eq, mem_deliverAll, mem_fillEnded]

/-- The kids of the herd whose access waits for the line go on. -/
theorem lineFillOp_goesOn (ok : Bool) {k x : Nat} (hk : herdOfKid k = h) (hf : (kidOf s k).fetching = some x) (hx : x / 8 = line) :
    (kidOf s k).goesOn (kidOf (lineFillOp s h line ok) k) := by
  rw [lineFillOp_eq, ← kidOf_fillEnded s h line ok k]
  exact deliverAll_goesOn _ line _ (by rw [kidOf_fillEnded, hf]) hx (mem_herdKids hk)

end

theorem execLineFill_due {h : HerdId} {line : Fin 4096} {s : State} {l : Nat} {ok : Bool}
    (hf : (icacheOf s h).fills.find? (fun f => f.1 == line.val) = some (l, ok)) (hherd : herdHeld s h = false) :
    exec (.lineFill h line) s = .next (lineFillOp s h line ok) := by
  have hexec : exec (.lineFill h line) s = due s (!herdHeld s h) (lineFillOp s h line ok) := by
    show execLineFill h line s = _
    unfold execLineFill
    rw [hf]
  exact hexec.trans (due_true (by rw [hherd]; rfl))

theorem lineFillInstalls : Claims.lineFillInstalls := by
  intro h line s l ok hf hherd _
  refine ⟨lineFillOp s h line ok, execLineFill_due hf hherd, ?_, fun a => by rw [mem_lineFillOp], fun hok hl => ?_, fun hok => ?_,
    fun k x y hk hfetch hx => ?_, fun g hg => ?_⟩
  · rw [icacheOf_lineFillOp, fills_fillEnded]
    simp
  · rw [lineValid, icacheOf_lineFillOp, fillEnded_installed s h line hok hl]
    exact lineValid_installLine ..
  · rw [icacheOf_lineFillOp, lines_fillEnded_spoiled s h line hok]
  · obtain ⟨hnone, hwait⟩ := lineFillOp_goesOn s h line ok hk hfetch hx
    exact ⟨hnone, hwait y⟩
  · rw [icacheOf_lineFillOp, icacheOf_fillEnded_other s h line ok hg]

/-! ### ICCTRL and ICINV -/

/-- The four counts of the cache block. -/
def cacheCounts : List Fld := [ic_ICHITS_COUNT, ic_ICMISS_COUNT, ic_ICSNOOP_COUNT, ic_ICERR_COUNT]

section
variable (s : State) (h : Nat)

theorem invallOp_eq : invallOp s h = setIcache (dropLines s h (icacheOf s h).lines) h
    { icacheOf (dropLines s h (icacheOf s h).lines) h with fills := (icacheOf s h).fills.map (fun f => (f.1, false)) } := rfl

theorem invallOp_cacheFrame : cacheFrame h s (invallOp s h) :=
  (dropLines_cacheFrame s h _).trans (setIcache_cacheFrame _ _)

theorem icacheOf_invallOp :
    icacheOf (invallOp s h) h =
      { icacheOf s h with lines := [], fills := (icacheOf s h).fills.map (fun f => (f.1, false)) } := by
  have hnone : (icacheOf s h).lines.filter (fun l => (icacheOf s h).lines.all (fun o => l.line != o.line)) = [] :=
    List.filter_eq_nil_iff.2 fun l hl hall => by simpa using List.all_eq_true.1 hall l hl
  rw [invallOp_eq, icacheOf_setIcache, icacheOf_dropLines, hnone]

/-- A field that reads as 0 does so after any field is cleared. -/
theorem rd_wr_zero {F : Fld} (hz : rd s F h = 0) (G : Fld) : rd (wr s G h 0) F h = 0 := by
  by_cases hk : F.key h 0 = G.key h 0
  · simp [rd, wr, hk]
  · rw [rd_wr_other s 0 hk, hz]

/-- Fields that are cleared one after another read as 0. -/
theorem rd_foldl_clear {F : Fld} {l : List Fld} (hF : F ∈ l) : rd (l.foldl (fun s G => wr s G h 0) s) F h = 0 := by
  induction l generalizing s with
  | nil => cases hF
  | cons G l ih =>
    rcases List.mem_cons.1 hF with rfl | hF
    · exact List.foldlRecOn (motive := fun t => rd t F h = 0) l _ (by rw [rd_wr_same, Nat.zero_mod]) fun t ht G _ =>
        rd_wr_zero t h ht G
    · exact ih _ hF

theorem rd_clrcntOp {F : Fld} (hF : F ∈ cacheCounts) : rd (clrcntOp s h) F h = 0 := rd_foldl_clear s h hF

theorem cacheCounts_blk : ∀ F ∈ cacheCounts, F.blk = .icache := by decide

theorem rd_clrcntOp_other {F : Fld} {n i : Nat} (hF : ¬ ((F.key n i).blk = .icache ∧ (F.key n i).inst = h)) :
    rd (clrcntOp s h) F n i = rd s F n i :=
  List.foldlRecOn (motive := fun t => rd t F n i = rd s F n i) cacheCounts (fun s G => wr s G h 0) rfl fun t ht G hG => by
    have hne : F.key n i ≠ G.key h 0 := fun e => hF (by rw [e]; exact ⟨cacheCounts_blk G hG, rfl⟩)
    rw [rd_wr_other t 0 hne, ht]

theorem icinvOp_below {w : Nat} (hw : w < 0x1000) : icinvOp s h w = s := if_neg (by omega)

theorem icinvOp_store {w : Nat} (hw : 0x1000 ≤ w) : icinvOp s h w = dropLine (spoilFill s h (w / 8)) h (w / 8) := if_pos hw

theorem icinvOp_cacheFrame (w : Nat) : cacheFrame h s (icinvOp s h w) := by
  rcases Nat.lt_or_ge w 0x1000 with hw | hw
  · rw [icinvOp_below s h hw]; exact cacheFrame.refl s
  · rw [icinvOp_store s h hw]; exact (setIcache_cacheFrame s _).trans (dropLine_cacheFrame ..)

theorem lines_icinvOp {w : Nat} (hw : 0x1000 ≤ w) :
    (icacheOf (icinvOp s h w) h).lines = (icacheOf s h).lines.filter (fun l => l.line != w / 8) := by
  rw [icinvOp_store s h hw, icacheOf_dropLine, icacheOf_spoilFill]

end

theorem cacheCommands : Claims.cacheCommands := by
  intro h s hopen
  refine ⟨⟨_, atBlock_open (act := fun s => invallOp s h) hopen, ?_, ?_, (invallOp_cacheFrame s h).regs, (invallOp_cacheFrame s h).mem⟩,
    ⟨_, atBlock_open (act := fun s => clrcntOp s h) hopen, rd_clrcntOp s h (by decide), rd_clrcntOp s h (by decide),
      rd_clrcntOp s h (by decide), rd_clrcntOp s h (by decide), rfl, fun F n i hF => rd_clrcntOp_other s h hF⟩,
    fun w => ⟨_, atBlock_open (act := fun s => icinvOp s h w.toNat) hopen, fun hw => ?_, fun hw => lines_icinvOp s h hw,
      (icinvOp_cacheFrame s h _).regs, (icinvOp_cacheFrame s h _).mem⟩⟩
  · exact congrArg ICache.lines (icacheOf_invallOp s h)
  · exact congrArg ICache.fills (icacheOf_invallOp s h)
  · exact (congrArg (icacheOf · h) (icinvOp_below s h hw) :)

end Sys2Proof.Machine

/-- Settles O25: LINE_FILL by what its reads, the line it installs and its deliveries leave, the commands by what they do at an open
block. -/
theorem instructionCache : Obligations.InstructionCache :=
  ⟨Sys2Proof.Machine.lineFillInstalls, Sys2Proof.Machine.cacheCommands⟩
end
